-- ==== Sys2Proof/Word.lean ====
section
/-!
DEFINITION. The word types of the hive: bytes, the 32-bit little-endian register word (00_scope.md, Reading
conventions), the 64-bit words of queues, DRAM and timestamps. Only the types stand here; every bit-field and
byte-order helper is in Sys2Proof/Machine/Bits.lean.
-/
namespace Sys2Proof

/-- One byte. -/
abbrev Byte := BitVec 8

/-- One register word: registers are 32-bit little-endian words (00_scope.md). -/
abbrev Word := BitVec 32

/-- One 64-bit word: a queue word (R338), a DRAM word (R404), a pair of registers (R69). -/
abbrev DWord := BitVec 64

end Sys2Proof
end

