-- ==== Sys2Proof/Syntax.lean ====
section
/-!
DEFINITION. The commands of the block: one constructor of `Instr` for each row of the operation and event table
(opcode_table.json), with its operands. A command is a write, a read or an operation from the host, an event on a pin,
a link or a ring, or a step that the hive takes of its own accord at an instant; 95_what_each_step_holds.md lists what
comes about inside each. Operands that name instants are hive times in ticks, slots or beats.
-/
namespace Sys2Proof

/-- The register pages (R52, R53): hive pages, and the pages of super `s`. -/
inductive Page where
  | hive | reeve | ivr | host | events | ring | board
  | pll (i : Nat)
  | hseq
  | hqueue (i : Nat)
  | frame (s f : Nat)
  | pod (s f : Nat)
  | scout (s k : Nat)
  | sseq (s : Nat)
  | press (s : Nat)
  | queue (s i : Nat)
  | dram (s k : Nat)
  | sram (s : Nat)
  | spll (s k : Nat)
  | waggle (s : Nat)
deriving DecidableEq, Repr

/-- A stream of blocks (R285): of frame `f` of super `s`, of the scouts of super `s`, or the mark stream. -/
inductive StreamId where
  | frame (s f : Nat)
  | scout (s : Nat)
  | mark
deriving DecidableEq, Repr

/-- A queue instance (R342): instance `i` of super `s`, or of the hive. -/
inductive QueueId where
  | super (s i : Nat)
  | hive (i : Nat)
deriving DecidableEq, Repr

/-- The two data lanes of a pod link. -/
inductive Lane where
  | a | b
deriving DecidableEq, Repr

/-- Why a lane of a pod link is lost (R155). -/
inductive LaneFault where
  | lock | overflow | underflow | slip
deriving DecidableEq, Repr

/-- The DIMM that the clerk identifies in a channel's socket (R362, R393). -/
structure Dimm where
  /-- Device density: 1 for 16 Gbit, 2 for 24 Gbit, 3 for 32 Gbit. -/
  density : Nat
  ranks : Nat
  /-- Registered, and built from x4 devices with two subchannels of 32 + 4 bits. -/
  sound : Bool
  /-- Grades supported: bit 1 for DDR5-4800, bit 2 for DDR5-5600, bit 3 for DDR5-6400. -/
  grades : Nat
  drfm : Bool
deriving DecidableEq, Repr

/-- How a training step ends (R395, R402): what the clerk identified, the narrowest window of a step that found its
settings in 1/64 UI, or a lane without a working setting. -/
inductive StepResult where
  | identified (dimm : Option Dimm)
  | found (window : Nat)
  | noSetting
deriving DecidableEq, Repr

/-- What the check characters of a received container say (R522): all good, some word bad, or every check inverted. -/
inductive Quality where
  | good | bad | inverted
deriving DecidableEq, Repr

/-- A copy of a container, as it arrives: on ring A (0) or B (1). -/
structure Copy where
  ring : Nat
  quality : Quality
deriving DecidableEq, Repr

/-- Test instructions of the TAP (R640, R641). -/
inductive TapInstr where
  | bypass | idcode | sample | preload | extest | extestPulse | extestTrain | clamp | highz
deriving DecidableEq, Repr

/-- A command (opcode_table.json). -/
inductive Instr where
  /-- REGISTER_WRITE (R16): A host write to a register field that has no behaviour of its own stores the value as its access code states, into the shadow for shadowed fields. -/
  | registerWrite (off : Nat) (bytes : List Byte) (poisoned : Bool)
  /-- PAGE_RESET (R58): A write of 1 to PAGE_CTRL.PAGE_RESET resets the page and its block within 10 µs, or is refused during a take with RESET_REFUSED set. -/
  | pageReset (p : Page)
  /-- COMMIT (R64): A write of 1 to COMMIT requests an apply of the page's shadow at its next apply point. -/
  | commit (p : Page)
  /-- DISCARD (R67): A write of 1 to DISCARD copies the active values back into the shadow and cancels any waiting commit. -/
  | discard (p : Page)
  /-- SHADOW_APPLY (R62): Outside a take, a requested commit copies every shadowed register to the active copy in one fabric cycle. -/
  | shadowApply (p : Page)
  /-- PARTIAL_APPLY (R65): During a take, a commit copies only the page's live-adjustable fields to the active copy and adds 1 to APPLY_COUNT. -/
  | partialApply (p : Page)
  /-- EV_FORCE (R496): A write of 1 to an EV_FORCE bit raises that event source once, and its record carries FORCED. -/
  | evForce (p : Page) (bits : Nat)
  /-- WINDOW_WRITE (R433): A write through the normal memory window stores bytes into the selected super's SRAM, or is ignored and counted when the region is protected. -/
  | windowWrite (off : Nat) (bytes : List (Option Byte)) (poisoned : Bool) (flaws : List (Nat × Bool))
  /-- BIT_SET_ALIAS_WRITE (R75): A write through the bit-set alias sets the written 1 bits in one atomic read-modify-write. -/
  | bitSetAliasWrite (off : Nat) (bytes : List (Option Byte)) (poisoned : Bool) (flaws : List (Nat × Bool))
  /-- BIT_CLEAR_ALIAS_WRITE (R75): A write through the bit-clear alias clears the written 1 bits in one atomic read-modify-write. -/
  | bitClearAliasWrite (off : Nat) (bytes : List (Option Byte)) (poisoned : Bool) (flaws : List (Nat × Bool))
  /-- WINDOW_READ (R74): A read through any memory window returns the SRAM contents as they stand. -/
  | windowRead (off len : Nat) (flaws : List (Nat × Bool))
  /-- LOAD (R85): A write of 1 to PLL_TIME_CTRL.LOAD requests a load of hive time, or is refused during a take with LOAD_REFUSED set. -/
  | load
  /-- HIVE_TIME_LOAD (R84): At a beat boundary within 1 µs of the request, hive time on every super is set to PLL_TIME_LOAD with its low 5 bits at 0. -/
  | hiveTimeLoad
  /-- TURN_MARK (R86): A rising edge on TURN_MARK is timestamped, latched and counted, and may write a TURN record. -/
  | turnMark (tick : Nat)
  /-- SSC_CHANGE (R104): A new spread-spectrum setting takes effect where the modulation next crosses the set frequency. -/
  | sscChange (p : Page)
  /-- PLL_LOCK (R93): The PLL declares lock after 64 good phase-detector cycles, and a pending PLL commit clears. -/
  | pllLock (p : Page) (cycles : Nat)
  /-- TIME_ALIGN_MESSAGE (R81): A super receives the time message from S0, loads the sent value plus 256 ticks and sets ALIGNED. -/
  | timeAlignMessage (u sent : Nat)
  /-- REF_LOST (R105): The reference monitor rejects a PLL's reference, and the PLL coasts or falls to bypass. -/
  | refLost (p : Page)
  /-- LOCK_LOST (R105): A locked PLL loses phase lock with its reference present, freezes its VCO control value and coasts. -/
  | lockLost (p : Page)
  /-- COAST_LIMIT (R108): A coast of the MPLL or an SPLL reaches COAST_MAX, and intake of the affected supers stops. -/
  | coastLimit (p : Page)
  /-- REF_RETURN (R110): When the cause of a coast clears, the PLL resumes tracking or relocks through bypass. -/
  | refReturn (p : Page) (small : Bool)
  /-- RESUME_TRY (R110): A PLL that lost lock with its reference present tries to resume every 100 µs. -/
  | resumeTry (p : Page) (small : Bool)
  /-- INTAKE_RESUME (R111): A stopped super resumes intake at the first beat after its SPLL is locked and aligned, and each stream's next block carries GAP. -/
  | intakeResume (u : Nat)
  /-- LINK_RETRY (R145): RETRY_MS after a link went down or a link-up failed, the hive starts another link-up. -/
  | linkRetry (u f : Nat)
  /-- BLOCK_LOCK (R150): A lane declares block lock after 64 consecutive good sync headers. -/
  | blockLock (u f : Nat) (lane : Lane)
  /-- STATUS (R134): A STATUS block from the pod is received and its reply or report is checked and taken. -/
  | status (u f : Nat) (lane : Lane) (payload : Nat)
  /-- REPLY_TIMEOUT (R143): No good reply arrives within REPLY_US, and the command is resent with the same tally. -/
  | replyTimeout (u f : Nat)
  /-- MARKER (R131): A MARKER block is received and checked against the expected slot and group position. -/
  | marker (u f : Nat) (lane : Lane) (slot pos laneId mode phase tick : Nat)
  /-- DATA_BLOCK (R125): A data block arrives on a lane and delivers its slots to the cells. -/
  | dataBlock (u f : Nat) (lane : Lane) (beat payload : Nat) (syncError : Bool)
  /-- TYPE_ERROR (R121): A control block of an unknown type, or with bad MARKER fields, is counted and discarded. -/
  | typeError (u f : Nat) (lane : Lane)
  /-- IDLE (R121): An IDLE control block is discarded. -/
  | idle (u f : Nat) (lane : Lane)
  /-- LINK_UP_ABANDON (R150): A link-up that has not reached UP within 5 ms of OFFER is abandoned. -/
  | linkUpAbandon (u f : Nat)
  /-- LANE_LOSS (R155): A lane loses block lock, overflows or underflows, or slips, and its cells go ABSENT while the link runs ONE_LANE. -/
  | laneLoss (u f : Nat) (lane : Lane) (cause : LaneFault)
  /-- LANE_RETRAIN_RETRY (R157): Every RETRY_MS until the lane returns, the hive sends LANE_TRAIN again. -/
  | laneRetrainRetry (u f : Nat)
  /-- POD_CMD_SEND (R138): A write of 1 to POD_CMD_CTRL.SEND sends POD_CMD_WORD as a POD command, unless BUSY is 1 or the link is down. -/
  | podCmdSend (u f : Nat)
  /-- LATE_SLOT (R170): A sample has not reached the alignment buffer when the frame needs its slot, so the slot goes ABSENT and is counted. -/
  | lateSlot (u f : Nat)
  /-- SETTLING_END (R195): Settling ends and the scout writes a RESUME, or stays suspended when the bucket is short. -/
  | settlingEnd (u k : Nat)
  /-- SCOUT_TRANSITION (R197): The scout samples a new comparator level, gives its edge term and records the transition when its bucket allows. -/
  | scoutTransition (u k tick : Nat) (level : Bool)
  /-- RESUME (R197): An overrun scout's bucket reaches RESUME.LEVEL, and the scout writes a RESUME carrying LOST. -/
  | resume (u k : Nat)
  /-- COUNTER_WRAP (R216): A counter steps from MAX48 to 0, sets WRAPPED, counts and raises the wrap event. -/
  | counterWrap (u f : Nat)
  /-- COUNTER_RELOAD (R215): In RELOAD mode a step reaches C, returns V to 0 and pulses CF. -/
  | counterReload (u f : Nat)
  /-- TIMER_HIT (R218): A frame timer reaches its limit L and sets TF, stopping or resetting as its mode says. -/
  | timerHit (u f : Nat)
  /-- OPERATION_EFFECT (R220): A counter or timer operation issued on slot n takes effect in slot n + 24. -/
  | operationEffect (u f : Nat)
  /-- SUPER_EXIT (R245): A super sequencer exit is taken and issues its level change, operations, waggle flag, gate, mark and event. -/
  | superExit (u : Nat)
  /-- MARK_FORWARD (R249): Every 16 beats at most the sequencer forwards one mark to the mark stream, and queues a MARK_LOSS record when space returns. -/
  | markForward
  /-- HIVE_EXIT (R246): A hive sequencer exit is taken and issues its trigger, window, TRIG_OUT, apiary flag, inbound flag, timer, mark and event actions. -/
  | hiveExit
  /-- TRIG_OUT_PULSE_END (R253): WIDTH × 32 ticks after a PULSE edge, the TRIG_OUT output returns to 0. -/
  | trigOutPulseEnd (n : Nat)
  /-- HIVE_TIMER_HIT (R251): A hive timer reaches its limit and sets HTF. -/
  | hiveTimerHit
  /-- TRIG (R258): A write of 1 to SEQ_FORCE.TRIG forces a trigger and a 0xFF mark for the next sample beat of a running take. -/
  | trig
  /-- TRIG_IN (R252): An edge on a TRIG_IN ball is sampled to the tick and gives the terms set by its KIND. -/
  | trigIn (pin tick : Nat) (level : Bool)
  /-- WAGGLE_LOST (R243): Both sideband wires fail parity for a beat, so its flags are taken as 0 and its HOLD bits as 1, and the loss is counted and recorded. -/
  | waggleLost (u : Nat) (outbound : Bool) (beat : Nat)
  /-- WAGGLE_WIRE_FAIL (R32): One sideband wire fails parity, and the receiver runs on the other wire. -/
  | waggleWireFail (link : Nat)
  /-- CLOCK_PAIR_FAIL (R33): One forwarded clock pair fails, and the SPLL switches to the other without a glitch. -/
  | clockPairFail (link : Nat)
  /-- ARM (R264): The ARM command is checked and refused with a code, or accepted so that the shadows apply and the take becomes ARMED. -/
  | arm
  /-- TAKE_FIRST_SLOT (R265): The take's first slot begins: the take goes RUNNING, counters and sequencers start, and TAKE_START is written. -/
  | takeFirstSlot
  /-- STOP (R268): The STOP command fixes the take's last slot at slot 3 of beat b + 16, or stops an ARMED take at once. -/
  | stop
  /-- TAKE_LAST_SLOT (R268): The take's last slot ends: the take goes STOPPED, streams close with LAST blocks and TAKE_END is written. -/
  | takeLastSlot
  /-- SEGMENT_END (R276): A segment's last slot ends, and the next segment begins in RUNNING or the take stops. -/
  | segmentEnd
  /-- SEGMENT_RECORD (R297): Once every block of a finished segment has reached DRAM, its SEGMENT record is written. -/
  | segmentRecord (u : Nat)
  /-- BLOCK_CUT (R289): A stream cuts its open block, writing SNAPSHOT and LONG records where needed, and hands it on. -/
  | blockCut (stream : StreamId) (tick fit : Nat)
  /-- HOLE_END (R293): Data can be kept again, and the first block after the hole carries GAP with the hole's exact length. -/
  | holeEnd (stream : StreamId) (tick : Nat)
  /-- STORE_LOSS (R295): An interval in which a super's store could not be written ends, and S0 writes a STORE_LOSS record. -/
  | storeLoss (u tick : Nat)
  /-- M_BLOCK_AGE (R298): The oldest record of a non-empty M block has waited AGE_US, and the block is cut. -/
  | mBlockAge
  /-- PRESS_BLOCK (R306): A block enters the Press and is coded at its chosen level, verified, and stored coded or raw. -/
  | pressBlock (u : Nat) (sLane : Bool) (lengths : List Nat) (coded : Option (List Nat)) (flaws : List (Nat × Option Nat))
  /-- QUEUE_PUSH (R339): A producer pushes an entry into a queue, which may be refused as full and may cross a watermark. -/
  | queuePush (q : QueueId) (words : List DWord) (left beat : Nat)
  /-- QUEUE_POP (R339): A consumer pops an entry, which may be refused at empty, corrected or poisoned, and may cross a watermark. -/
  | queuePop (q : QueueId) (corrected uncorrectable : Nat)
  /-- DRAM_WRITER_POP (R366): When every write queue has room, the DRAM writer pops a block and queues its 16 pieces. -/
  | dramWriterPop (u corrected uncorrectable : Nat)
  /-- DRAM_ACCESS (R373): The scheduler issues one close-page access of four bursts to a piece. -/
  | dramAccess (u k sub : Nat) (write : Bool) (port piece : Nat) (flaws : List (Nat × Nat)) (strobe : Nat)
  /-- PORT_HELD (R386): A port's activate count to a bank reaches MAX, and its requests to that bank are held until the next window. -/
  | portHeld (u k sub port bank : Nat)
  /-- ACT_WINDOW (R386): An activate window ends, and the counts restart at 0. -/
  | actWindow (u k : Nat)
  /-- REFRESH (R378): A same-bank refresh falls due and is issued, postponed in panic, or forced. -/
  | refresh (u k : Nat)
  /-- MR4_READ (R380): Every 32 ms the controller reads MR4 and sets or clears HOT. -/
  | mr4Read (u k code : Nat) (above : Bool)
  /-- POWER_DOWN (R383): A rank idle for PD_TIMER clocks enters power-down. -/
  | powerDown (u k sub rank : Nat)
  /-- SELF_REFRESH_ENTRY (R384): A channel idle for IDLE_US with every condition met enters self-refresh. -/
  | selfRefreshEntry (u k : Nat)
  /-- SELF_REFRESH_EXIT (R385): A request, an ARM or a low tolerance makes the channel leave self-refresh within 2 µs. -/
  | selfRefreshExit (u k : Nat)
  /-- RH_TABLE_CLEAR (R388): Every 32 ms the row activation tables are cleared. -/
  | rhTableClear (u k : Nat)
  /-- NEIGHBOUR_REFRESH (R389): A row's count reaches THRESH, and a DRFMsb or RFMsb neighbour refresh is issued. -/
  | neighbourRefresh (u k sub bank row : Nat)
  /-- SCRUB_READ (R377): At its pace, scrub reads the next piece of each subchannel. -/
  | scrubRead (u k sub : Nat) (flaws : List (Nat × Nat))
  /-- RETRAIN (R397): A write of 1 to DRAM_TRAIN_CTRL.RETRAIN starts a full training, or is refused. -/
  | retrain (u k : Nat)
  /-- TRAINING_STEP_DONE (R395): A training step completes, and the next step begins or the step is repeated. -/
  | trainingStepDone (u k : Nat) (result : StepResult)
  /-- CLEARING_DONE (R396): Clearing completes and the channel enters READY. -/
  | clearingDone (u k : Nat)
  /-- PERIODIC_RETRAIN (R398): Every PERIOD_MS, or after an MR4 change, a READY channel retrains its read eye and write timing. -/
  | periodicRetrain (u k : Nat)
  /-- PERIODIC_STEP_ABANDON (R399): A periodic step not ended within 400 µs is abandoned. -/
  | periodicStepAbandon (u k : Nat)
  /-- FREQUENCY_CHANGE_RELEASE (R400): The gathering step ends, so the training is abandoned and the held change proceeds. -/
  | frequencyChangeRelease (p : Page)
  /-- ALERT_N (R411): The RCD asserts ALERT_n, and the channel stops, clears the error and replays unacknowledged commands. -/
  | alertN (u k : Nat)
  /-- COMMAND_ACKNOWLEDGED (R410): 48 controller clocks pass after a command's issue without ALERT_n, and the command is acknowledged. -/
  | commandAcknowledged (u k sub : Nat)
  /-- LAYOUT_SWITCH (R416): Within 4 µs of failure the super switches to the one-channel layout and carries on the segment. -/
  | layoutSwitch (u : Nat)
  /-- MARCH_START (R442): A write of 1 to SRAM_MARCH_CTRL.START begins a march run, or is refused. -/
  | marchStart (u boot : Nat) (mode target : Bool)
  /-- MARCH_RETENTION_WAIT (R436): The 3 ms retention wait before a final read element ends. -/
  | marchRetentionWait (u : Nat)
  /-- MARCH_RUN_DONE (R436): A march run completes and repairs lines, leaves them unrepaired, or disables the store. -/
  | marchRunDone (u : Nat) (fails : List (Nat × Nat × Nat × Nat))
  /-- BAR2_READ (R457): A BAR2 read returns the bytes of the view address in the layout in force. -/
  | bar2Read (off len : Nat)
  /-- BAR2_WRITE (R459): A BAR2 write stores bytes in DRAM, or is refused below the store limit during a take. -/
  | bar2Write (off : Nat) (bytes : List Byte) (poisoned : Bool)
  /-- REQ_MAJOR (R461): A write of HOST_HIF.REQ_MAJOR selects the host interface version, now or once the rings are disabled. -/
  | reqMajor (major : Nat)
  /-- CMD_EN_SET (R469): Setting CMD_EN enables the command ring, or is refused, and fetching resumes from DONE + 1. -/
  | cmdEnSet
  /-- CMD_EN_CLEAR (R469): Clearing CMD_EN discards accepted commands not begun and sets ACCEPTED and POSTED to DONE. -/
  | cmdEnClear
  /-- DRN_EN_SET (R469): Setting DRN_EN enables the drain ring, or is refused. -/
  | drnEnSet
  /-- DRN_EN_CLEAR (R487): Clearing DRN_EN discards drain descriptors not complete. -/
  | drnEnClear
  /-- CPL_EN_SET (R478): Setting CPL_EN enables completion ring writes. -/
  | cplEnSet
  /-- CPL_EN_CLEAR (R478): Clearing CPL_EN makes completions be produced and echoed but not written. -/
  | cplEnClear
  /-- HOST_CMD_POSTED (R467): A write of the command ring's POSTED tally starts fetching, or halts the ring when it runs beyond the ring. -/
  | hostCmdPosted (tally : Nat)
  /-- HOST_DRN_POSTED (R467): A write of the drain ring's POSTED tally starts fetching descriptors. -/
  | hostDrnPosted (tally : Nat)
  /-- COMMAND_FETCH (R467): A fetched command is checked and accepted, or halts the ring with BAD_TALLY. -/
  | commandFetch (bytes : List Byte)
  /-- FETCH_TIMEOUT (R467): A ring fetch gets no completion within 10 ms, and the ring halts. -/
  | fetchTimeout (drain : Bool)
  /-- NOP (R473): NOP completes at once with no effect. -/
  | nop
  /-- STATUS_COMMAND (R477): The STATUS command completes at once, carrying the take state, ID, trigger count and hive time. -/
  | statusCommand
  /-- FENCE (R473): FENCE completes once every earlier drain descriptor has produced its completion. -/
  | fence
  /-- DRAIN_ABORT (R473): DRAIN_ABORT discards the drain descriptors of the named supers that are not begun. -/
  | drainAbort
  /-- REG_WRITE (R474): REG_WRITE checks its pairs and writes up to five BAR0 words in order. -/
  | regWrite
  /-- BAD_OPCODE (R476): A command with an unknown or disallowed opcode completes BAD_OPCODE. -/
  | badOpcode
  /-- COMPLETION_WRITE (R478): When the completion ring has room, the waiting completion is written and may raise its event. -/
  | completionWrite
  /-- HOST_CPL_FREED (R478): A write of HOST_CPL_FREED frees completion ring entries, so waiting completions can be written. -/
  | hostCplFreed (tally : Nat)
  /-- DRAIN_DESCRIPTOR_FETCH (R482): A fetched drain descriptor is checked, and is accepted or completes BAD_ARGS or NO_STORE. -/
  | drainDescriptorFetch (bytes : List Byte)
  /-- DRAIN_BLOCK (R483): A block is read from DRAM and written to host memory, with TORN and POISON noted, and the descriptor completes after its last block. -/
  | drainBlock (u : Nat)
  /-- FUNCTION_LEVEL_RESET (R487): A function-level reset resets the host port and its rings while the take runs on. -/
  | functionLevelReset
  /-- HOST_LINK_LOSS (R487): A loss of the host link or a hot reset resets the host port as a function-level reset does. -/
  | hostLinkLoss
  /-- LINK_CHANGED (R488): Once the function is back in D0 with Bus Master Enable after a retrain, the link changed event is raised. -/
  | linkChanged (speed width : Nat) (flit reversed : Bool)
  /-- BUS_MASTER_ENABLE (R454): A change of Bus Master Enable or D-state stops or resumes every request the hive issues. -/
  | busMasterEnable (bme d3 : Bool)
  /-- EVENT_ENQUEUE (R501): An event record reaches the event queue and takes a tally, or is dropped and counted when the queue is full. -/
  | eventEnqueue (origin : Nat)
  /-- EVENT_RING_WRITE (R507): When the event ring has room, the oldest record is written to it. -/
  | eventRingWrite (corrected uncorrectable : Nat)
  /-- IRQ_MOD_EXPIRE (R513): MIN_US after a vector's last message, one message serves the causes that became ready meanwhile. -/
  | irqModExpire (vector : Nat)
  /-- RECORDS_LOST (R508): At the first moment a queue entry is free after drops, a source-46 record carrying the number dropped is queued. -/
  | recordsLost
  /-- HOLDOFF_END (R504): A coalescing hold-off ends, and one COALESCED record covers the unrecorded raises. -/
  | holdoffEnd (source : Nat)
  /-- EVENTS_EN_SET (R506): Setting EVENTS_RING_CTRL.EN enables the event ring, or is refused. -/
  | eventsEnSet
  /-- EVENTS_EN_CLEAR (R509): Clearing EN stops ring writes and keeps the records queued. -/
  | eventsEnClear
  /-- EVENTS_FREED (R507): A write of EVENTS_FREED frees event ring entries for waiting records. -/
  | eventsFreed (tally : Nat)
  /-- HELLO (R530): A HELLO hop word carrying versions, a claim, a probe or an echo is received from a neighbour. -/
  | hello (ring sub data tick : Nat)
  /-- LEADER_ELECTED (R526): A hive's claim has stood as best on both inputs for 1 ms, and it becomes leader and sends FORM. -/
  | leaderElected
  /-- FORM (R526): A FORM word gives the hive its ring position, or on its return tells the leader H so that it pads and sends SETUP. -/
  | form (position loopNs : Nat)
  /-- SETUP (R532): A SETUP control message gives H, K, loop time and AF_DELAY, and the hive reaches UP. -/
  | setup (copy : Copy) (tally arg : Nat)
  /-- PATH (R533): A PATH message gives a member its delays from the leader on each ring. -/
  | path (copy : Copy) (dest tally arg : Nat)
  /-- REPORT (R528): The leader receives a member's hop delays and sends new SETUP and PATH on a change above 4 ticks. -/
  | report (copy : Copy) (source tally arg : Nat)
  /-- HOP_MEASURE (R528): Every 100 ms a hive measures each hop by a round trip. -/
  | hopMeasure (ring : Nat)
  /-- TIME_LAUNCH (R534): Every 16,384 beats the leader launches a TIME container on each ring. -/
  | timeLaunch
  /-- TIME (R534): A member receives a TIME container and computes its offset from the leader. -/
  | time (copy : Copy) (tally time tick : Nat)
  /-- EPOCH_GO (R535): A write of 1 to RING_EPOCH.GO on the leader sends EPOCH, or is refused during a take. -/
  | epochGo
  /-- EPOCH (R535): A member outside a take loads its hive time with its offset at the next beat boundary. -/
  | epoch (copy : Copy) (tally count : Nat)
  /-- LEADER_LOST (R527): No TIME container arrives for 200 µs, and the hive returns to forming. -/
  | leaderLost
  /-- FLAG_LAUNCH (R523): A queued apiary flag action is launched in the first EMPTY container that passes. -/
  | flagLaunch (ring : Nat)
  /-- FLAG (R538): A FLAG container is received, and the action is noted for its delivery beat, or counted late or as a gap. -/
  | flag (copy : Copy) (body : List Nat)
  /-- FLAG_DELIVERY (R538): At sample beat d the flag action is applied to its sender's contribution bit and presented. -/
  | flagDelivery
  /-- CONTAINER_RETURN (R523): A hive's own container comes back to it, and it is removed and replaced by an EMPTY container. -/
  | containerReturn (loop ring : Nat)
  /-- HOP_DOWN (R543): A ring input's hop goes down, and the hive sends BREAK and wraps. -/
  | hopDown (ring cause : Nat)
  /-- BREAK (R543): A neighbour receives BREAK, takes the hop down as REMOTE and wraps. -/
  | brk (ring : Nat)
  /-- UNWRAP (R545): A broken hop has held lock for 1 ms, and its neighbours unwrap. -/
  | unwrap (ring : Nat)
  /-- BYPASS (R548): A write of 1 to RING_CTRL.BYPASS sends LEAVE and closes the bypass 100 µs later. -/
  | bypass
  /-- BYPASS_CLOSE (R548): 100 µs after LEAVE, the bypass switches close. -/
  | bypassClose
  /-- LEAVE (R548): The leader receives LEAVE and sends SETUP without that hive. -/
  | leave (copy : Copy) (source tally : Nat)
  /-- MAIL_SEND (R549): A write of 1 to RING_MAIL_OUT.SEND sends a MAIL message, unless BUSY is 1. -/
  | mailSend (dest argHi : Nat)
  /-- MAIL (R549): A MAIL message addressed to the hive is stored, or dropped when the slot is full. -/
  | mail (copy : Copy) (source dest tally arg : Nat)
  /-- PERIOD_END (R558): Every 100 µs the Reeve updates the energy account and the throttle, and advances or lifts shedding. -/
  | periodEnd (vin iin energy : Nat) (supers : List Nat) (shared tj hottest : Nat)
  /-- RAILS_OFF (R555): 100 µs after a fault stop or thermal shutdown, every rail except VAON turns off. -/
  | railsOff
  /-- WEAR_HOUR (R571): At each hour boundary the oldest wear bucket is emptied and becomes the current one. -/
  | wearHour
  /-- REEVE_WEAR_LOAD (R572): A write of REEVE_WEAR_LOAD places the host's wear sum in the current bucket and clears LOST. -/
  | reeveWearLoad (seconds : Nat)
  /-- TRAINING_SLOT_GRANT (R578): The Reeve grants a waiting channel a 1 ms training slot while no step is in force. -/
  | trainingSlotGrant (u k : Nat)
  /-- OVER_VOLTAGE (R555): VIN stays above 22.0 V for 10 µs, and the IVR makes a fault stop. -/
  | overVoltage
  /-- OVER_CURRENT (R555): VIN current stays above IVR_ILIM for 20 µs, and the IVR makes a fault stop. -/
  | overCurrent
  /-- RAIL_FAULT (R555): A rail stays more than 5% off its voltage for 10 µs, and the IVR makes a fault stop. -/
  | railFault (rail : Nat)
  /-- VIN_HIGH (R555): VIN rises above 20.0 V, and the VIN high event is raised. -/
  | vinHigh
  /-- PHASE_DROPPED (R555): A VCORE phase fails and is dropped, and the rail runs on 3 phases. -/
  | phaseDropped (u phase : Nat)
  /-- VSTBY_LOST (R555): VSTBY falls below 3.0 V, and VAON moves to VIN without a break. -/
  | vstbyLost
  /-- UVLO (R645): VIN falls below 4.10 V, the rails turn off and any take is cut. -/
  | uvlo
  /-- BOARD_APPLY (R594): At the apply instant the BOARD shadow applies, possibly relocking the VPLL, or is refused. -/
  | boardApply
  /-- FRAME_START (R595): Line 0 of a frame begins, and BOARD_APPLIED and the commit applied event follow a new apply. -/
  | frameStart
  /-- EDP_TRAIN_RETRY (R584): 100 ms after a failed link training, the output tries again. -/
  | edpTrainRetry (port : Nat)
  /-- LANE_STATUS_POLL (R584): Every 100 ms the hive reads the panel's lane status and retrains once on a loss. -/
  | laneStatusPoll (port : Nat) (lost : Bool)
  /-- LINE_BUFFER_FETCH (R588): The line buffer falls to LOW_KIB and fetches framebuffer data until it is full. -/
  | lineBufferFetch
  /-- UNDERRUN (R591): The scan needs a pixel the line buffer lacks, so the rest of the line shows background. -/
  | underrun (line pixel : Nat)
  /-- LOWERED (R599): N_FRAMES unchanged frames have passed, and vertical blanking is stretched. -/
  | lowered
  /-- TE (R602): An edge on TE_A or TE_B lets the next frame begin at a line boundary. -/
  | te (input : Nat) (rising : Bool) (tick : Nat)
  /-- TE_MISS (R602): No TE edge arrives within TIMEOUT_MS, so the frame begins anyway and the miss is counted. -/
  | teMiss
  /-- FRAME_CRC (R604): At the end of a frame its CRCs are compared, and read-back or expected mismatches are counted. -/
  | frameCrc (readA readB : Nat)
  /-- AUX_GO (R583): A write of 1 to BOARD_AUX_CTRL.GO starts an AUX transaction. -/
  | auxGo (port kind lenM1 addr : Nat)
  /-- AUX_DONE (R583): An AUX transaction ends with ACK, NACK or DEFER exhausted, or a timeout. -/
  | auxDone (result : Nat) (bytes : List Byte)
  /-- PAINTER_COLUMN (R605): An interval ends, and each strip's column takes the colour of the first code that applies. -/
  | painterColumn (k : Nat)
  /-- COLD_START (R609): VAON rises from no power and the clerk starts its ROM code. -/
  | coldStart (byVin : Bool) (straps : List Nat)
  /-- PWR_OK (R610): Every rail is in regulation, PWR_OK goes high and the clocks start locking. -/
  | pwrOk
  /-- PATCH_CHECK (R613): The clerk finishes checking both patch copies, runs the passing one with the higher PSEQ, and has booted. -/
  | patchCheck (copyA pseqA copyB pseqB : Nat)
  /-- RESET_N_ASSERT (R616): RESET_N is asserted, the take ends at once with no record, and the rails except VAON go off. -/
  | resetNAssert
  /-- RESET_N_RELEASE (R609): RESET_N is released, the straps are sampled, and start-up runs with the march run chosen by BOOT. -/
  | resetNRelease (straps : List Nat)
  /-- VIN_RETURN (R615): VIN rises above 4.30 V while VAON stayed up, and the hive acts as at a release of RESET_N. -/
  | vinReturn (straps : List Nat)
  /-- PERST_N_ASSERT (R617): PERST_N is asserted, and any take is stopped with reason HOST. -/
  | perstNAssert
  /-- PERST_N_PAGE_RESET (R617): After every block of the stopped take has reached DRAM, the pages are reset. -/
  | perstNPageReset
  /-- PERST_N_RELEASE (R611): PERST_N is released, and configuration space answers within 100 ms. -/
  | perstNRelease
  /-- SOFT (R618): A write of SOFT with KEY 0xA5 starts a soft reset, or is refused during a take. -/
  | soft (key : Nat)
  /-- SIDEBAND_LOSS (R624): A super receives no sideband beat from S0 for 1,024 beats, and it closes its streams. -/
  | sidebandLoss (u beat : Nat)
  /-- DIE_LANE_FAIL (R34): A data or check lane of a die-to-die port fails, so unacknowledged flits are replayed and the spare lane takes over. -/
  | dieLaneFail (link : Nat) (back : Bool)
  /-- LANE_REPAIR_DONE (R34): The spare lane carries the traffic, and the port accepts flits again. -/
  | laneRepairDone (link : Nat) (back : Bool)
  /-- SMBUS_POINTER_WRITE (R638): SMBus command 0x10 sets the 16-bit pointer into the hive region. -/
  | smbusPointerWrite (addr pointer : Nat) (pecGood : Bool)
  /-- SMBUS_BLOCK_READ (R638): SMBus command 0x11 returns the word at the pointer and adds 4 to it. -/
  | smbusBlockRead (addr : Nat)
  /-- TAP_INSTRUCTION (R641): A test instruction loaded at the TAP acts, or acts as BYPASS during a take. -/
  | tapInstruction (test : TapInstr)
  /-- REGISTER_READ (R69): A host read of a register; reading the low word of a 64-bit or 48-bit pair latches its high word, and the read completes only after earlier writes have taken effect. -/
  | registerRead (off len : Nat)
  /-- ALERT_N_RELEASE (R411): ALERT_n releases, and the controller clears the RCD error state, precharges every bank and replays from the oldest unacknowledged command. -/
  | alertNRelease (u k : Nat)
  /-- VIN_LOW (R581): VIN falls below 4.5 V while the rails run, and the VIN low event is raised. -/
  | vinLow
  /-- VSTBY_RETURN (R552): VSTBY becomes present again while VIN is present, and the always-on domain takes its supply from VSTBY again. -/
  | vstbyReturn
  /-- TRST_N (R641): TRST_N goes low and the test logic is held in reset until it rises. -/
  | trstN (low : Bool)
  /-- WAGGLE_FLAGS_RECEIVED_AGAIN (R297): After a run of lost beats, sideband flags pass parity again, and the run closes with a WAGGLE_LOST record bounded by the first tick received again. -/
  | waggleFlagsReceivedAgain (u : Nat) (outbound : Bool) (tick : Nat)
  /-- EDP_TRAINING_DONE (R584): The link training of an enabled eDP output completes, and the output comes up (A_UP or B_UP) or counts a failed try. -/
  | edpTrainingDone (port : Nat) (good : Bool)
  /-- TRAINING_SLOT_END (R578): A 1 ms DDR5 training slot granted by the Reeve ends, freeing the super for a waiting channel. -/
  | trainingSlotEnd (u k : Nat)
deriving DecidableEq, Repr

end Sys2Proof
end

