-- ==== Sys2Proof/Decode.lean ====
section
/-!
DEFINITION. The words of commands. No row of the operation and event table gives bits (opcode_table.json lists no
"fields"), so no word spells a command.
-/
namespace Sys2Proof

/-- The command that a word spells: none does (DESIGN CHOICE, log entry 8). -/
def decodeTableWord (_nbits _w : Nat) : Option Instr := none

end Sys2Proof
end

