-- ==== Sys2Proof/Config.lean ====
section
/-!
DEFINITION. What a part or its board fixes, and the free values. The parts of the family (R2) are plain data. Every
`opaque` constant here stands for a value that the spec leaves open: it has no body, so nothing can be proved about
which value it is, and whatever is proved holds for every value.
-/
namespace Sys2Proof

/-- The six parts of the family (R2). -/
inductive Part where
  | lw8f | lw8c | lw4f | lw4c | lw2f | lw2b
deriving DecidableEq, Repr

/-- The number of supers present: S0 to S(n-1) (R2). -/
def Part.supers : Part → Nat
  | .lw8f => 8 | .lw8c => 8 | .lw4f => 4 | .lw4c => 4 | .lw2f => 2 | .lw2b => 2

/-- Scout inputs are present on F parts only (R2). -/
def Part.hasScouts : Part → Bool
  | .lw8f => true | .lw4f => true | .lw2f => true | _ => false

/-- The Noticeboard is present on F parts only (R2). -/
def Part.hasBoard : Part → Bool
  | .lw8f => true | .lw4f => true | .lw2f => true | _ => false

/-- A Press is present on every part but the B part (R2). -/
def Part.hasPress : Part → Bool
  | .lw2b => false | _ => true

/-- The VARIANT letter of HIVE_PART (00_scope.md). -/
def Part.variant : Part → Nat
  | .lw8f => 0x46 | .lw4f => 0x46 | .lw2f => 0x46
  | .lw8c => 0x43 | .lw4c => 0x43 | .lw2b => 0x42

/-- What is fixed at manufacture: the part, the stepping byte of HIVE_PART (R6) and the 48-bit UID of RING_UID. -/
structure Fuse where
  part : Part
  stepping : Byte
  uid : BitVec 48
deriving DecidableEq, Repr

namespace Config

/-- The frequency in Hz of REFCLK_SYS that the default figures of R90 assume. -/
def refSysHz : Nat := 100000000

/-- The frequency in Hz of the machine reference that the board supplies on REFCLK_MACH (R92)
(DESIGN CHOICE, log entry 10). -/
opaque refMachHz : Nat

/-- The VCO band that the `n`-th band search chooses (R93: not fixed; it depends on the part)
(DESIGN CHOICE, log entry 11). -/
opaque vcoBand : Nat → BitVec 5

/-- The byte of a DRAM channel's memory that no one has written since its contents were lost, at an address, for the
`n`-th loss of that channel's contents (R396, R397: training overwrites contents) (DESIGN CHOICE, log entry 12). -/
opaque lostByte : Nat → Nat → Byte

/-- A byte of a region of on-chip memory in which the data path works (R424) at an address, for the `n`-th time that a
take has taken the region over: how the data path lays its work out there is not stated
(DESIGN CHOICE, log entry 13). -/
opaque workByte : Nat → Nat → Byte

/-- The HOLD balls that other hives and the board hold low when HIVE_HOLD_STATE is read for the `n`-th time (R359)
(DESIGN CHOICE, log entry 14). -/
opaque holdPins : Nat → BitVec 8

/-- Where a march run stands when SRAM_MARCH_STATUS is read for the `n`-th time (R436): memory and word
(DESIGN CHOICE, log entry 15). -/
opaque marchPlace : Nat → BitVec 5 × BitVec 15

/-- The band search of a PLL has ended, and STATE reads LOCKING, when PLL_STATUS is read for the `n`-th time in a search:
where in the 20 µs it ends is not stated (R93) (DESIGN CHOICE, log entry 137). -/
opaque searchOver : Nat → Bool

/-- Ticks for which the hive holds the `n`-th PROBE before its ECHO leaves (R529) (DESIGN CHOICE, log entry 16). -/
opaque holdTicks : Nat → BitVec 24

/-- The PATH delays that the leader of a joined loop sends, for the `n`-th PATH: how the leader learns where the loop is
broken is not stated (R533, R544) (DESIGN CHOICE, log entry 17). -/
opaque joinedPath : Nat → BitVec 48

/-- The bits of a word of memory in which the `n`-th uncorrectable error stands: an error flips bits that no rule
names (DESIGN CHOICE, log entry 18). -/
opaque upsetWord : Nat → BitVec 64

/-- Milliseconds from step 1 to the end of step 7 of the `n`-th start-up (HIVE_BOOT.BOOT_MS): the oscillator of the
always-on domain counts them, and how it stands to hive time is not stated (DESIGN CHOICE, log entry 19). -/
opaque bootMs : Nat → BitVec 16

/-- The pre-serialiser CRC of the `n`-th frame in which a change that no rule fixes to the pixel fell into the active lines: NO_FB
or a painter column (R593, R606) (DESIGN CHOICE, log entry 20). -/
opaque pictureCrc : Nat → BitVec 32

/-- The JEDEC manufacturer code of Wenanrex Instruments in the IDCODE (R640): its value is not stated
(DESIGN CHOICE, log entry 21). -/
opaque jedecCode : BitVec 11

end Config

end Sys2Proof
end

