-- ==== Sys2Proof/Machine/Bits.lean ====
section
/-!
DEFINITION. Bit fields, saturating counters, two's complement and byte order: the plain helpers that every family
uses. A field of a register or a record is written high:low (00_scope.md, Reading conventions), and its value is a
natural number.
-/
namespace Sys2Proof.Machine

/-- The bits `hi:lo` of a number. -/
def bitsOf (w hi lo : Nat) : Nat := (w >>> lo) % 2 ^ (hi + 1 - lo)

/-- Bit `i` of a number. -/
def bitOf (w i : Nat) : Bool := Nat.testBit w i

/-- A Bool as a field value. -/
def flag (b : Bool) : Nat := if b then 1 else 0

/-- The word with bits `hi:lo` equal to 1. -/
def maskOf (hi lo : Nat) : Nat := (2 ^ (hi + 1 - lo) - 1) <<< lo

/-- A value placed in bits `hi:lo`; what does not fit is cut off. -/
def placed (v hi lo : Nat) : Nat := (v % 2 ^ (hi + 1 - lo)) <<< lo

/-- A 32-bit word with bits `hi:lo` replaced by `v`. -/
def setBits (w : Word) (hi lo v : Nat) : Word :=
  (w &&& ~~~ BitVec.ofNat 32 (maskOf hi lo)) ||| BitVec.ofNat 32 (placed v hi lo)

/-- The bits of `b` where the mask is 1, and the bits of `a` elsewhere. -/
def mergeBits (mask a b : Word) : Word := (a &&& ~~~ mask) ||| (b &&& mask)

/-- A number with bit `i` set, or cleared. -/
def withBit (w i : Nat) (b : Bool) : Nat :=
  if b then w ||| 2 ^ i else w &&& (w ^^^ 2 ^ i)

/-- Saturating addition at `2 ^ bits - 1`: every counter that its chapter calls saturating. -/
def satAdd (bits a n : Nat) : Nat := min (a + n) (2 ^ bits - 1)

/-- The signed value of the low `bits` bits of `v`, in two's complement. -/
def signedOf (bits v : Nat) : Int :=
  let u := v % 2 ^ bits
  if u < 2 ^ (bits - 1) then (u : Int) else (u : Int) - (2 ^ bits : Nat)

/-- The low `bits` bits of a signed value, in two's complement. -/
def unsignedOf (bits : Nat) (v : Int) : Nat := (v % ((2 ^ bits : Nat) : Int)).toNat

/-- A signed value held between the least and greatest of `bits` bits, then in two's complement. -/
def saturatedSigned (bits : Nat) (v : Int) : Nat :=
  let top : Int := (2 ^ (bits - 1) : Nat)
  unsignedOf bits (if v < -top then -top else if top - 1 < v then top - 1 else v)

/-- The low `n` bytes of a number, least significant first. -/
def leBytes : Nat → Nat → List Byte
  | 0, _ => []
  | n + 1, v => BitVec.ofNat 8 v :: leBytes n (v >>> 8)

/-- The number whose bytes, least significant first, are given. -/
def ofLeBytes : List Byte → Nat
  | [] => 0
  | b :: bs => b.toNat + 256 * ofLeBytes bs

/-- The number of 1 bits among the low `n` bits. -/
def popCount : Nat → Nat → Nat
  | 0, _ => 0
  | n + 1, w => w % 2 + popCount n (w >>> 1)

/-- The positions, rising, of the 1 bits among the low `n` bits. -/
def bitsSet (n w : Nat) : List Nat := (List.range n).filter (bitOf w)

/-- The number with exactly the given bits set. -/
def ofBits (l : List Nat) : Nat := l.foldl (fun w i => w ||| 2 ^ i) 0

/-- Ceiling of a division. -/
def ceilDiv (a b : Nat) : Nat := (a + b - 1) / b

/-- The element at an index, when the list has it, replaced by `f` of it. -/
def modifyNth (f : α → α) : Nat → List α → List α
  | _, [] => []
  | 0, x :: xs => f x :: xs
  | n + 1, x :: xs => x :: modifyNth f n xs

/-- The first `n` elements, filled up with `d`. -/
def padTo (n : Nat) (d : α) (l : List α) : List α := (l ++ List.replicate (n - l.length) d).take n

end Sys2Proof.Machine
end

