-- ==== Sys2Proof/Machine/Regs.lean ====
section
/-!
DEFINITION. The register map: for every kind of page, every field of every register that a chapter of the spec gives
it, with its place, its access code (R16), its kind (direct, shadowed or live-adjustable, chapter 02) and its reset
value. Every entry is one row of a register table of the spec. A register that a page carries several times is one row
with a stride and a count. Reset values that are fixed at manufacture, or differ between instances of a page, are in
Sys2Proof/Machine/Pages.lean.
-/
namespace Sys2Proof.Machine

/-- A field: the offset of its register in the page, and its highest and lowest bit. -/
structure Fld where
  off : Nat
  hi : Nat
  lo : Nat
deriving DecidableEq, Repr

/-- The access codes of R16. -/
inductive Acc where
  | rw | ro | w1c | w1s | wo
deriving DecidableEq, Repr

/-- Whether a write to a field acts at once, or goes into the page's shadow (chapter 02, Shadows and commits). -/
inductive Kind where
  | direct | shadow | live
deriving DecidableEq, Repr

/-- One row of a register table, for `count` registers `stride` bytes apart. -/
structure FieldDef where
  fld : Fld
  stride : Nat
  count : Nat
  acc : Acc
  kind : Kind
  reset : Nat
deriving DecidableEq, Repr

namespace R

def HIVE_PART_FAMILY : Fld := ⟨0x100, 31, 24⟩
def HIVE_PART_SUPERS : Fld := ⟨0x100, 23, 16⟩
def HIVE_PART_VARIANT : Fld := ⟨0x100, 15, 8⟩
def HIVE_PART_STEP_MAJOR : Fld := ⟨0x100, 7, 4⟩
def HIVE_PART_STEP_MINOR : Fld := ⟨0x100, 3, 0⟩
def HIVE_CAP0_DRAM_CH_MASK : Fld := ⟨0x104, 31, 16⟩
def HIVE_CAP0_SUPER_MASK : Fld := ⟨0x104, 15, 8⟩
def HIVE_CAP0_RING : Fld := ⟨0x104, 3, 3⟩
def HIVE_CAP0_BOARD : Fld := ⟨0x104, 2, 2⟩
def HIVE_CAP0_SCOUT : Fld := ⟨0x104, 1, 1⟩
def HIVE_CAP0_PRESS : Fld := ⟨0x104, 0, 0⟩
def HIVE_CAP1_SCOUTS_PER_SUPER : Fld := ⟨0x108, 23, 16⟩
def HIVE_CAP1_EVENT_SOURCES : Fld := ⟨0x108, 15, 0⟩
def HIVE_LINK_PRESENT (n : Nat) : Fld := ⟨0x110 + 0x4 * n, 31, 31⟩
def HIVE_LINK_UP (n : Nat) : Fld := ⟨0x110 + 0x4 * n, 30, 30⟩
def HIVE_LINK_SPARE_LH (n : Nat) : Fld := ⟨0x110 + 0x4 * n, 29, 29⟩
def HIVE_LINK_SPARE_HL (n : Nat) : Fld := ⟨0x110 + 0x4 * n, 28, 28⟩
def HIVE_LINK_HALF_LH (n : Nat) : Fld := ⟨0x110 + 0x4 * n, 27, 27⟩
def HIVE_LINK_HALF_HL (n : Nat) : Fld := ⟨0x110 + 0x4 * n, 26, 26⟩
def HIVE_LINK_WSB_ONE (n : Nat) : Fld := ⟨0x110 + 0x4 * n, 25, 25⟩
def HIVE_LINK_CLK_ONE (n : Nat) : Fld := ⟨0x110 + 0x4 * n, 24, 24⟩
def HIVE_LINK_CORR_COUNT (n : Nat) : Fld := ⟨0x110 + 0x4 * n, 15, 0⟩
def MEMWIN_SEL_SUPER : Fld := ⟨0x200, 3, 0⟩
def HIVE_TAKE_CTRL_TURN_REC : Fld := ⟨0x300, 1, 1⟩
def HIVE_TAKE_CTRL_FULL_PRE : Fld := ⟨0x300, 0, 0⟩
def HIVE_TAKE_PRE_LO_PRE : Fld := ⟨0x304, 31, 0⟩
def HIVE_TAKE_PRE_HI_PRE : Fld := ⟨0x308, 7, 0⟩
def HIVE_TAKE_POST_LO_POST : Fld := ⟨0x30C, 31, 0⟩
def HIVE_TAKE_POST_HI_POST : Fld := ⟨0x310, 15, 0⟩
def HIVE_TAKE_SEGS_SEGS_M1 : Fld := ⟨0x314, 15, 0⟩
def HIVE_TAKE_START_LO_START : Fld := ⟨0x318, 31, 0⟩
def HIVE_TAKE_START_HI_START : Fld := ⟨0x31C, 31, 0⟩
def HIVE_TAKE_TURN_DIV : Fld := ⟨0x320, 15, 0⟩
def HIVE_TAKE_MARK_AGE_US : Fld := ⟨0x324, 15, 0⟩
def HIVE_TAKE_STATE_STATE : Fld := ⟨0x330, 31, 28⟩
def HIVE_TAKE_STATE_REASON : Fld := ⟨0x330, 27, 24⟩
def HIVE_TAKE_STATE_SEGMENT : Fld := ⟨0x330, 15, 0⟩
def HIVE_TAKE_ID_ID : Fld := ⟨0x334, 31, 0⟩
def HIVE_TAKE_REFUSE_SUPER : Fld := ⟨0x338, 15, 8⟩
def HIVE_TAKE_REFUSE_CODE : Fld := ⟨0x338, 7, 0⟩
def HIVE_TAKE_FIRST_LO_TIME : Fld := ⟨0x340, 31, 0⟩
def HIVE_TAKE_FIRST_HI_TIME : Fld := ⟨0x344, 31, 0⟩
def HIVE_TAKE_END_LO_TIME : Fld := ⟨0x348, 31, 0⟩
def HIVE_TAKE_END_HI_TIME : Fld := ⟨0x34C, 31, 0⟩
def HIVE_TAKE_TRIGS_COUNT : Fld := ⟨0x350, 31, 0⟩
def HIVE_STORE_LIMIT_SLOT (n : Nat) : Fld := ⟨0x380 + 0x4 * n, 26, 0⟩
def HIVE_STORE_OLDEST_SLOT (n : Nat) : Fld := ⟨0x3A0 + 0x4 * n, 26, 0⟩
def HIVE_STORE_NEXT_SLOT (n : Nat) : Fld := ⟨0x3C0 + 0x4 * n, 26, 0⟩
def HIVE_HOLD_CTRL_IDLE : Fld := ⟨0x240, 15, 8⟩
def HIVE_HOLD_CTRL_FORCE : Fld := ⟨0x240, 7, 0⟩
def HIVE_HOLD_STATE_PIN : Fld := ⟨0x244, 23, 16⟩
def HIVE_HOLD_STATE_DRIVE : Fld := ⟨0x244, 15, 8⟩
def HIVE_HOLD_STATE_QUEUE : Fld := ⟨0x244, 7, 0⟩
def HIVE_HOLD_CNT_HI (n : Nat) : Fld := ⟨0x248 + 0x4 * n, 31, 16⟩
def HIVE_HOLD_CNT_LO (n : Nat) : Fld := ⟨0x248 + 0x4 * n, 15, 0⟩
def HIVE_RESET_CTRL_SOFT : Fld := ⟨0x260, 31, 31⟩
def HIVE_RESET_CTRL_SOFT_REFUSED : Fld := ⟨0x260, 30, 30⟩
def HIVE_RESET_CTRL_SOFT_BUSY : Fld := ⟨0x260, 29, 29⟩
def HIVE_RESET_CTRL_KEY : Fld := ⟨0x260, 15, 8⟩
def HIVE_BOOT_STAGE : Fld := ⟨0x264, 31, 28⟩
def HIVE_BOOT_LAST_RESET : Fld := ⟨0x264, 27, 24⟩
def HIVE_BOOT_FAULT_STOP : Fld := ⟨0x264, 23, 16⟩
def HIVE_BOOT_BOOT_MS : Fld := ⟨0x264, 15, 0⟩
def HIVE_READY_ALL : Fld := ⟨0x268, 31, 31⟩
def HIVE_READY_STORE : Fld := ⟨0x268, 15, 8⟩
def HIVE_READY_DRAM : Fld := ⟨0x268, 4, 4⟩
def HIVE_READY_SRAM : Fld := ⟨0x268, 3, 3⟩
def HIVE_READY_BOOTED : Fld := ⟨0x268, 2, 2⟩
def HIVE_READY_CLOCKS : Fld := ⟨0x268, 1, 1⟩
def HIVE_READY_POWER : Fld := ⟨0x268, 0, 0⟩
def HIVE_RESET_COUNT_RESET_N : Fld := ⟨0x26C, 31, 24⟩
def HIVE_RESET_COUNT_PERST_N : Fld := ⟨0x26C, 23, 16⟩
def HIVE_RESET_COUNT_SOFT : Fld := ⟨0x26C, 15, 8⟩
def HIVE_RESET_COUNT_FAULT_STOPS : Fld := ⟨0x26C, 7, 0⟩
def HIVE_PATCH_COPY_A : Fld := ⟨0x270, 31, 28⟩
def HIVE_PATCH_COPY_B : Fld := ⟨0x270, 27, 24⟩
def HIVE_PATCH_PATCHED : Fld := ⟨0x270, 23, 23⟩
def HIVE_PATCH_USED_B : Fld := ⟨0x270, 22, 22⟩
def HIVE_PATCH_PSEQ : Fld := ⟨0x270, 15, 0⟩
def PAGE_ID_TYPE : Fld := ⟨0x0, 31, 24⟩
def PAGE_ID_INSTANCE : Fld := ⟨0x0, 23, 16⟩
def PAGE_ID_SUPER : Fld := ⟨0x0, 15, 12⟩
def PAGE_ID_LAYOUT_MAJOR : Fld := ⟨0x0, 11, 8⟩
def PAGE_ID_LAYOUT_MINOR : Fld := ⟨0x0, 7, 4⟩
def PAGE_CAP_BLOCK_CAP : Fld := ⟨0x4, 31, 16⟩
def PAGE_CAP_LIVE : Fld := ⟨0x4, 12, 12⟩
def PAGE_CAP_EV_SOURCES : Fld := ⟨0x4, 4, 0⟩
def PAGE_CTRL_PAGE_RESET : Fld := ⟨0x8, 1, 1⟩
def PAGE_CTRL_ENABLE : Fld := ⟨0x8, 0, 0⟩
def PAGE_STATUS_BLOCK_STATUS : Fld := ⟨0xC, 31, 16⟩
def PAGE_STATUS_RESET_REFUSED : Fld := ⟨0xC, 3, 3⟩
def PAGE_STATUS_RESET_BUSY : Fld := ⟨0xC, 2, 2⟩
def PAGE_STATUS_FAULT : Fld := ⟨0xC, 1, 1⟩
def PAGE_STATUS_READY : Fld := ⟨0xC, 0, 0⟩
def COMMIT_DISCARD : Fld := ⟨0x44, 1, 1⟩
def COMMIT_COMMIT : Fld := ⟨0x44, 0, 0⟩
def SHADOW_STATUS_APPLY_COUNT : Fld := ⟨0x40, 31, 24⟩
def SHADOW_STATUS_COMMIT_WAIT : Fld := ⟨0x40, 3, 3⟩
def SHADOW_STATUS_HELD : Fld := ⟨0x40, 2, 2⟩
def SHADOW_STATUS_LIVE_PENDING : Fld := ⟨0x40, 1, 1⟩
def SHADOW_STATUS_DIRTY : Fld := ⟨0x40, 0, 0⟩
def PLL_DIV_P : Fld := ⟨0x100, 28, 24⟩
def PLL_DIV_M : Fld := ⟨0x100, 23, 16⟩
def PLL_DIV_N : Fld := ⟨0x100, 11, 0⟩
def PLL_CTRL_REF_SEL : Fld := ⟨0x104, 0, 0⟩
def PLL_SSC_MODE : Fld := ⟨0x108, 5, 4⟩
def PLL_SSC_DEPTH : Fld := ⟨0x108, 3, 0⟩
def PLL_COAST_COAST_MAX : Fld := ⟨0x10C, 16, 0⟩
def PLL_STATUS_STATE : Fld := ⟨0x110, 31, 28⟩
def PLL_STATUS_BAND : Fld := ⟨0x110, 27, 23⟩
def PLL_STATUS_LOCK : Fld := ⟨0x110, 22, 22⟩
def PLL_STATUS_REF_PRESENT : Fld := ⟨0x110, 21, 21⟩
def PLL_STATUS_SSC_ACTIVE : Fld := ⟨0x110, 20, 20⟩
def PLL_STATUS_COAST_TIME : Fld := ⟨0x110, 19, 0⟩
def PLL_FLAGS_SSC_REFUSED : Fld := ⟨0x114, 3, 3⟩
def PLL_FLAGS_DIV_REFUSED : Fld := ⟨0x114, 2, 2⟩
def PLL_FLAGS_COAST_LIMIT : Fld := ⟨0x114, 1, 1⟩
def PLL_FLAGS_LOCK_LOST : Fld := ⟨0x114, 0, 0⟩
def PLL_COUNTS_COASTS : Fld := ⟨0x118, 31, 16⟩
def PLL_COUNTS_RELOCKS : Fld := ⟨0x118, 15, 0⟩
def PLL_LOCKMON_SEL_SEL : Fld := ⟨0x200, 7, 0⟩
def PLL_TIME_NOW_LO_TIME : Fld := ⟨0x208, 31, 0⟩
def PLL_TIME_NOW_HI_TIME : Fld := ⟨0x20C, 31, 0⟩
def PLL_TIME_LOAD_LO_VALUE : Fld := ⟨0x210, 31, 0⟩
def PLL_TIME_LOAD_HI_VALUE : Fld := ⟨0x214, 31, 0⟩
def PLL_TIME_CTRL_TURN_EARLY : Fld := ⟨0x218, 31, 16⟩
def PLL_TIME_CTRL_LOAD_REFUSED : Fld := ⟨0x218, 1, 1⟩
def PLL_TIME_CTRL_LOAD : Fld := ⟨0x218, 0, 0⟩
def PLL_TIME_TURN_LO_TIME : Fld := ⟨0x220, 31, 0⟩
def PLL_TIME_TURN_HI_TIME : Fld := ⟨0x224, 31, 0⟩
def PLL_TIME_TURN_COUNT_COUNT : Fld := ⟨0x228, 31, 0⟩
def PLL_TIME_STATUS_ALIGNED : Fld := ⟨0x200, 31, 31⟩
def PLL_TIME_STATUS_TIME_STEP : Fld := ⟨0x200, 23, 0⟩
def POD_LINK_CTRL_AUTO_RETRAIN : Fld := ⟨0x100, 5, 5⟩
def POD_LINK_CTRL_LANE_B_OFF : Fld := ⟨0x100, 4, 4⟩
def POD_LINK_CTRL_VERSIONS : Fld := ⟨0x100, 3, 2⟩
def POD_LINK_CTRL_MODE : Fld := ⟨0x100, 1, 0⟩
def POD_LINK_TIMING_RETRY_MS : Fld := ⟨0x104, 31, 16⟩
def POD_LINK_TIMING_REPLY_US : Fld := ⟨0x104, 15, 0⟩
def POD_LINK_STATUS_STATE : Fld := ⟨0x108, 31, 28⟩
def POD_LINK_STATUS_VERSION : Fld := ⟨0x108, 27, 26⟩
def POD_LINK_STATUS_MODE : Fld := ⟨0x108, 25, 24⟩
def POD_LINK_STATUS_LANE_A_UP : Fld := ⟨0x108, 23, 23⟩
def POD_LINK_STATUS_LANE_B_UP : Fld := ⟨0x108, 22, 22⟩
def POD_LINK_STATUS_SWAPPED : Fld := ⟨0x108, 21, 21⟩
def POD_LINK_STATUS_POD_SET : Fld := ⟨0x108, 15, 8⟩
def POD_SKEW_SKEW : Fld := ⟨0x10C, 15, 0⟩
def POD_SYNC_ERR_COUNT (n : Nat) : Fld := ⟨0x110 + 0x4 * n, 31, 0⟩
def POD_LANE_ERR_LOCK_LOSS (n : Nat) : Fld := ⟨0x118 + 0x4 * n, 31, 24⟩
def POD_LANE_ERR_SLIP (n : Nat) : Fld := ⟨0x118 + 0x4 * n, 23, 16⟩
def POD_LANE_ERR_TYPE_ERR (n : Nat) : Fld := ⟨0x118 + 0x4 * n, 15, 8⟩
def POD_LANE_ERR_BUF_ERR (n : Nat) : Fld := ⟨0x118 + 0x4 * n, 7, 0⟩
def POD_STATUS_ERR_CRC_ERR : Fld := ⟨0x120, 31, 16⟩
def POD_STATUS_ERR_STATE_OVER : Fld := ⟨0x120, 15, 0⟩
def POD_CMD_WORD_WORD : Fld := ⟨0x130, 31, 0⟩
def POD_CMD_CTRL_BUSY : Fld := ⟨0x134, 31, 31⟩
def POD_CMD_CTRL_RESULT : Fld := ⟨0x134, 30, 28⟩
def POD_CMD_CTRL_TALLY : Fld := ⟨0x134, 27, 16⟩
def POD_CMD_CTRL_SEND : Fld := ⟨0x134, 0, 0⟩
def POD_CMD_REPLY_DATA : Fld := ⟨0x138, 31, 0⟩
def POD_CMD_UNSOL_DATA : Fld := ⟨0x13C, 31, 0⟩
def FRAME_CELL_EN_EN : Fld := ⟨0x100, 31, 0⟩
def FRAME_CELL_ABSENT_ABSENT : Fld := ⟨0x104, 31, 0⟩
def FRAME_ALIGN_STATUS_VALID_B : Fld := ⟨0x108, 31, 31⟩
def FRAME_ALIGN_STATUS_VALID_A : Fld := ⟨0x108, 30, 30⟩
def FRAME_ALIGN_STATUS_PHASE_B : Fld := ⟨0x108, 10, 8⟩
def FRAME_ALIGN_STATUS_PHASE_A : Fld := ⟨0x108, 2, 0⟩
def FRAME_CELL_LATE_COUNT : Fld := ⟨0x10C, 31, 0⟩
def FRAME_DESKEW_D3 (n : Nat) : Fld := ⟨0x110 + 0x4 * n, 31, 24⟩
def FRAME_DESKEW_D2 (n : Nat) : Fld := ⟨0x110 + 0x4 * n, 23, 16⟩
def FRAME_DESKEW_D1 (n : Nat) : Fld := ⟨0x110 + 0x4 * n, 15, 8⟩
def FRAME_DESKEW_D0 (n : Nat) : Fld := ⟨0x110 + 0x4 * n, 7, 0⟩
def FRAME_DESKEW_REFUSED_REFUSED : Fld := ⟨0x130, 31, 0⟩
def FRAME_STATE_ERR_MISMATCH : Fld := ⟨0x134, 15, 0⟩
def FRAME_PW_MASK_MASK (n : Nat) : Fld := ⟨0x200 + 0x20 * n, 31, 0⟩
def FRAME_PW_VALUE_VALUE (n : Nat) : Fld := ⟨0x204 + 0x20 * n, 31, 0⟩
def FRAME_PW_EDGE_LO_EDGE (n : Nat) : Fld := ⟨0x208 + 0x20 * n, 31, 0⟩
def FRAME_PW_EDGE_HI_EDGE (n : Nat) : Fld := ⟨0x20C + 0x20 * n, 31, 0⟩
def FRAME_PW_CTRL_FRESH (n : Nat) : Fld := ⟨0x210 + 0x20 * n, 15, 15⟩
def FRAME_PW_CTRL_DUR_BASE (n : Nat) : Fld := ⟨0x210 + 0x20 * n, 14, 14⟩
def FRAME_PW_CTRL_DUR_MODE (n : Nat) : Fld := ⟨0x210 + 0x20 * n, 13, 13⟩
def FRAME_PW_CTRL_INVERT (n : Nat) : Fld := ⟨0x210 + 0x20 * n, 12, 12⟩
def FRAME_PW_CTRL_RANGE_GRP (n : Nat) : Fld := ⟨0x210 + 0x20 * n, 9, 8⟩
def FRAME_PW_CTRL_RANGE_OP (n : Nat) : Fld := ⟨0x210 + 0x20 * n, 5, 4⟩
def FRAME_PW_CTRL_EDGE_JOIN (n : Nat) : Fld := ⟨0x210 + 0x20 * n, 0, 0⟩
def FRAME_PW_DUR_N (n : Nat) : Fld := ⟨0x214 + 0x20 * n, 15, 0⟩
def FRAME_PW_LO_BOUND (n : Nat) : Fld := ⟨0x218 + 0x20 * n, 31, 0⟩
def FRAME_PW_HI_BOUND (n : Nat) : Fld := ⟨0x21C + 0x20 * n, 31, 0⟩
def FRAME_BG_MASK_MASK (n : Nat) : Fld := ⟨0x300 + 0x8 * n, 31, 0⟩
def FRAME_BG_CTRL_ORDER (n : Nat) : Fld := ⟨0x304 + 0x8 * n, 0, 0⟩
def FRAME_CNT_CTRL_START_PAUSED (n : Nat) : Fld := ⟨0x340 + 0x20 * n, 11, 11⟩
def FRAME_CNT_CTRL_MODE (n : Nat) : Fld := ⟨0x340 + 0x20 * n, 8, 8⟩
def FRAME_CNT_CTRL_INC_KIND (n : Nat) : Fld := ⟨0x340 + 0x20 * n, 5, 4⟩
def FRAME_CNT_CTRL_INC_WORD (n : Nat) : Fld := ⟨0x340 + 0x20 * n, 2, 0⟩
def FRAME_CNT_CMP_LO_CMP (n : Nat) : Fld := ⟨0x348 + 0x20 * n, 31, 0⟩
def FRAME_CNT_CMP_HI_CMP (n : Nat) : Fld := ⟨0x34C + 0x20 * n, 15, 0⟩
def FRAME_CNT_INIT_LO_INIT (n : Nat) : Fld := ⟨0x350 + 0x20 * n, 31, 0⟩
def FRAME_CNT_INIT_HI_INIT (n : Nat) : Fld := ⟨0x354 + 0x20 * n, 15, 0⟩
def FRAME_CNT_VAL_LO_VAL (n : Nat) : Fld := ⟨0x358 + 0x20 * n, 31, 0⟩
def FRAME_CNT_VAL_HI_VAL (n : Nat) : Fld := ⟨0x35C + 0x20 * n, 15, 0⟩
def FRAME_TMR_CTRL_MODE (n : Nat) : Fld := ⟨0x3C0 + 0x20 * n, 12, 12⟩
def FRAME_TMR_CTRL_STOP_KIND (n : Nat) : Fld := ⟨0x3C0 + 0x20 * n, 11, 10⟩
def FRAME_TMR_CTRL_STOP_WORD (n : Nat) : Fld := ⟨0x3C0 + 0x20 * n, 9, 7⟩
def FRAME_TMR_CTRL_START_KIND (n : Nat) : Fld := ⟨0x3C0 + 0x20 * n, 4, 3⟩
def FRAME_TMR_CTRL_START_WORD (n : Nat) : Fld := ⟨0x3C0 + 0x20 * n, 2, 0⟩
def FRAME_TMR_STATUS_RUNNING (n : Nat) : Fld := ⟨0x3C4 + 0x20 * n, 31, 31⟩
def FRAME_TMR_LIM_LO_LIM (n : Nat) : Fld := ⟨0x3C8 + 0x20 * n, 31, 0⟩
def FRAME_TMR_LIM_HI_LIM (n : Nat) : Fld := ⟨0x3CC + 0x20 * n, 15, 0⟩
def FRAME_TMR_VAL_LO_VAL (n : Nat) : Fld := ⟨0x3D0 + 0x20 * n, 31, 0⟩
def FRAME_TMR_VAL_HI_VAL (n : Nat) : Fld := ⟨0x3D4 + 0x20 * n, 15, 0⟩
def FRAME_FLAGS_RAW : Fld := ⟨0x440, 23, 16⟩
def FRAME_FLAGS_FLAGS : Fld := ⟨0x440, 15, 0⟩
def FRAME_CNT_WRAP_COUNT : Fld := ⟨0x444, 31, 16⟩
def FRAME_CNT_WRAP_WRAPPED : Fld := ⟨0x444, 3, 0⟩
def FRAME_CNT_STATUS_PAUSED : Fld := ⟨0x448, 3, 0⟩
def FRAME_STORE_CTRL_QUAL_WORD : Fld := ⟨0x500, 6, 4⟩
def FRAME_STORE_CTRL_MODE : Fld := ⟨0x500, 1, 0⟩
def FRAME_STORE_BLOCKS_COUNT : Fld := ⟨0x504, 31, 0⟩
def FRAME_STORE_LOST_COUNT : Fld := ⟨0x508, 31, 0⟩
def SCOUT_IN_TERM : Fld := ⟨0x100, 16, 16⟩
def SCOUT_IN_HYST : Fld := ⟨0x100, 9, 8⟩
def SCOUT_IN_OFFSET : Fld := ⟨0x100, 7, 0⟩
def SCOUT_DESKEW_DESKEW : Fld := ⟨0x104, 7, 0⟩
def SCOUT_TRIG_EDGE : Fld := ⟨0x108, 1, 0⟩
def SCOUT_BUDGET_BURST : Fld := ⟨0x10C, 31, 16⟩
def SCOUT_BUDGET_ALLOW : Fld := ⟨0x10C, 9, 0⟩
def SCOUT_RESUME_LEVEL : Fld := ⟨0x110, 15, 0⟩
def SCOUT_STATUS_LEVEL : Fld := ⟨0x114, 31, 31⟩
def SCOUT_STATUS_IN_OVERRUN : Fld := ⟨0x114, 30, 30⟩
def SCOUT_STATUS_SETTLING : Fld := ⟨0x114, 29, 29⟩
def SCOUT_STATUS_TOKENS : Fld := ⟨0x114, 15, 0⟩
def SCOUT_OVERRUN_COUNT : Fld := ⟨0x118, 31, 16⟩
def SCOUT_LOST_COUNT : Fld := ⟨0x11C, 31, 0⟩
def SCOUT_FLAGS_SET_REFUSED : Fld := ⟨0x120, 0, 0⟩
def SEQ_CTRL_START_LEVEL : Fld := ⟨0x100, 3, 0⟩
def SEQ_STATUS_LEVEL : Fld := ⟨0x108, 31, 28⟩
def SEQ_STATUS_RUNNING : Fld := ⟨0x108, 27, 27⟩
def SEQ_STATUS_TOUT : Fld := ⟨0x108, 19, 16⟩
def SEQ_EXIT_COUNT_COUNT : Fld := ⟨0x10C, 31, 0⟩
def SEQ_LAST_FROM : Fld := ⟨0x110, 31, 28⟩
def SEQ_LAST_EXIT : Fld := ⟨0x110, 27, 26⟩
def SEQ_LAST_TO : Fld := ⟨0x110, 25, 22⟩
def SEQ_LAST_ORIGIN_LO_ORIGIN : Fld := ⟨0x114, 31, 0⟩
def SEQ_LAST_ORIGIN_HI_ORIGIN : Fld := ⟨0x118, 31, 0⟩
def SEQ_MARKS_LOST : Fld := ⟨0x11C, 31, 16⟩
def SEQ_MARKS_DEPTH : Fld := ⟨0x11C, 6, 0⟩
def SEQ_OPS_TMR3 (n : Nat) : Fld := ⟨0x200 + 0x4 * n, 23, 21⟩
def SEQ_OPS_TMR2 (n : Nat) : Fld := ⟨0x200 + 0x4 * n, 20, 18⟩
def SEQ_OPS_TMR1 (n : Nat) : Fld := ⟨0x200 + 0x4 * n, 17, 15⟩
def SEQ_OPS_TMR0 (n : Nat) : Fld := ⟨0x200 + 0x4 * n, 14, 12⟩
def SEQ_OPS_CNT3 (n : Nat) : Fld := ⟨0x200 + 0x4 * n, 11, 9⟩
def SEQ_OPS_CNT2 (n : Nat) : Fld := ⟨0x200 + 0x4 * n, 8, 6⟩
def SEQ_OPS_CNT1 (n : Nat) : Fld := ⟨0x200 + 0x4 * n, 5, 3⟩
def SEQ_OPS_CNT0 (n : Nat) : Fld := ⟨0x200 + 0x4 * n, 2, 0⟩
def SEQ_TERMS_T3 (n : Nat) : Fld := ⟨0x400 + 0x10 * n, 31, 24⟩
def SEQ_TERMS_T2 (n : Nat) : Fld := ⟨0x400 + 0x10 * n, 23, 16⟩
def SEQ_TERMS_T1 (n : Nat) : Fld := ⟨0x400 + 0x10 * n, 15, 8⟩
def SEQ_TERMS_T0 (n : Nat) : Fld := ⟨0x400 + 0x10 * n, 7, 0⟩
def SEQ_COND_TT (n : Nat) : Fld := ⟨0x404 + 0x10 * n, 31, 16⟩
def SEQ_COND_EN (n : Nat) : Fld := ⟨0x404 + 0x10 * n, 15, 15⟩
def SEQ_COND_NEXT (n : Nat) : Fld := ⟨0x404 + 0x10 * n, 3, 0⟩
def SEQ_ACT_WF_OP (n : Nat) : Fld := ⟨0x408 + 0x10 * n, 31, 30⟩
def SEQ_ACT_WF_SEL (n : Nat) : Fld := ⟨0x408 + 0x10 * n, 29, 27⟩
def SEQ_ACT_OPSET_EN (n : Nat) : Fld := ⟨0x408 + 0x10 * n, 26, 26⟩
def SEQ_ACT_OPSET (n : Nat) : Fld := ⟨0x408 + 0x10 * n, 25, 22⟩
def SEQ_ACT_MARK_EN (n : Nat) : Fld := ⟨0x408 + 0x10 * n, 21, 21⟩
def SEQ_ACT_MARK (n : Nat) : Fld := ⟨0x408 + 0x10 * n, 20, 13⟩
def SEQ_ACT_EVENT_EN (n : Nat) : Fld := ⟨0x408 + 0x10 * n, 12, 12⟩
def SEQ_ACT_EVENT (n : Nat) : Fld := ⟨0x408 + 0x10 * n, 11, 9⟩
def SEQ_ACT_GATE_OP (n : Nat) : Fld := ⟨0x408 + 0x10 * n, 8, 7⟩
def SEQ_GATE_SCOUT (n : Nat) : Fld := ⟨0x40C + 0x10 * n, 8, 8⟩
def SEQ_GATE_FRAMES (n : Nat) : Fld := ⟨0x40C + 0x10 * n, 7, 0⟩
def SEQ_FORCE_TRIG : Fld := ⟨0x104, 0, 0⟩
def SEQ_TIN_KIND (n : Nat) : Fld := ⟨0x120 + 0x4 * n, 2, 0⟩
def SEQ_TOUT_INVERT (n : Nat) : Fld := ⟨0x130 + 0x4 * n, 8, 8⟩
def SEQ_TOUT_WIDTH (n : Nat) : Fld := ⟨0x130 + 0x4 * n, 7, 0⟩
def SEQ_HT_CTRL_ONESHOT (n : Nat) : Fld := ⟨0x140 + 0x20 * n, 1, 1⟩
def SEQ_HT_CTRL_MODE (n : Nat) : Fld := ⟨0x140 + 0x20 * n, 0, 0⟩
def SEQ_HT_LIM_LO_LIM (n : Nat) : Fld := ⟨0x144 + 0x20 * n, 31, 0⟩
def SEQ_HT_LIM_HI_LIM (n : Nat) : Fld := ⟨0x148 + 0x20 * n, 15, 0⟩
def SEQ_HT_VAL_LO_VAL (n : Nat) : Fld := ⟨0x14C + 0x20 * n, 31, 0⟩
def SEQ_HT_VAL_HI_VAL (n : Nat) : Fld := ⟨0x150 + 0x20 * n, 15, 0⟩
def SEQ_HT_STATUS_RUNNING (n : Nat) : Fld := ⟨0x154 + 0x20 * n, 31, 31⟩
def SEQ_TRIG_COUNT_COUNT : Fld := ⟨0x1C0, 31, 0⟩
def SEQ_TRIG_TIME_LO_TIME : Fld := ⟨0x1C4, 31, 0⟩
def SEQ_TRIG_TIME_HI_TIME : Fld := ⟨0x1C8, 31, 0⟩
def SEQ_HACT_TRIG (n : Nat) : Fld := ⟨0x408 + 0x10 * n, 31, 31⟩
def SEQ_HACT_WINDOW (n : Nat) : Fld := ⟨0x408 + 0x10 * n, 30, 29⟩
def SEQ_HACT_TO_OP (n : Nat) : Fld := ⟨0x408 + 0x10 * n, 28, 27⟩
def SEQ_HACT_TO_SEL (n : Nat) : Fld := ⟨0x408 + 0x10 * n, 26, 25⟩
def SEQ_HACT_AF_OP (n : Nat) : Fld := ⟨0x408 + 0x10 * n, 24, 23⟩
def SEQ_HACT_AF_SEL (n : Nat) : Fld := ⟨0x408 + 0x10 * n, 22, 19⟩
def SEQ_HACT_WI_OP (n : Nat) : Fld := ⟨0x408 + 0x10 * n, 18, 17⟩
def SEQ_HACT_WI_SEL (n : Nat) : Fld := ⟨0x408 + 0x10 * n, 16, 14⟩
def SEQ_HACT_MARK_EN (n : Nat) : Fld := ⟨0x408 + 0x10 * n, 13, 13⟩
def SEQ_HACT_MARK (n : Nat) : Fld := ⟨0x408 + 0x10 * n, 12, 5⟩
def SEQ_HACT_EVENT_EN (n : Nat) : Fld := ⟨0x408 + 0x10 * n, 4, 4⟩
def SEQ_HACT_EVENT (n : Nat) : Fld := ⟨0x408 + 0x10 * n, 3, 1⟩
def SEQ_HTOP_HT3_OP (n : Nat) : Fld := ⟨0x40C + 0x10 * n, 11, 9⟩
def SEQ_HTOP_HT2_OP (n : Nat) : Fld := ⟨0x40C + 0x10 * n, 8, 6⟩
def SEQ_HTOP_HT1_OP (n : Nat) : Fld := ⟨0x40C + 0x10 * n, 5, 3⟩
def SEQ_HTOP_HT0_OP (n : Nat) : Fld := ⟨0x40C + 0x10 * n, 2, 0⟩
def WAGGLE_FLAGS_IN : Fld := ⟨0x100, 15, 8⟩
def WAGGLE_FLAGS_OUT : Fld := ⟨0x100, 7, 0⟩
def WAGGLE_LOST_OUT : Fld := ⟨0x104, 31, 16⟩
def WAGGLE_LOST_IN : Fld := ⟨0x104, 15, 0⟩
def PRESS_CTRL_TABLE_FORM : Fld := ⟨0x100, 17, 16⟩
def PRESS_CTRL_S_CODING : Fld := ⟨0x100, 13, 12⟩
def PRESS_CTRL_F_CODING : Fld := ⟨0x100, 9, 8⟩
def PRESS_CTRL_S_LEVEL : Fld := ⟨0x100, 7, 4⟩
def PRESS_CTRL_LEVEL : Fld := ⟨0x100, 3, 0⟩
def PRESS_LOSSY_F_EN : Fld := ⟨0x104, 31, 24⟩
def PRESS_LOSSY_S_EN : Fld := ⟨0x104, 23, 23⟩
def PRESS_LOSSY_K : Fld := ⟨0x104, 18, 16⟩
def PRESS_LOSSY_G : Fld := ⟨0x104, 7, 0⟩
def PRESS_SLIP_HI : Fld := ⟨0x108, 25, 16⟩
def PRESS_SLIP_MID : Fld := ⟨0x108, 9, 0⟩
def PRESS_STATUS_CAP : Fld := ⟨0x10C, 31, 28⟩
def PRESS_STATUS_LAST_LEVEL : Fld := ⟨0x10C, 27, 24⟩
def PRESS_STATUS_BACKLOG : Fld := ⟨0x10C, 9, 0⟩
def PRESS_BACKLOG_MAX_MAX : Fld := ⟨0x110, 9, 0⟩
def PRESS_CODED_COUNT : Fld := ⟨0x114, 31, 0⟩
def PRESS_RAWN_COUNT : Fld := ⟨0x118, 31, 0⟩
def PRESS_RAWV_COUNT : Fld := ⟨0x11C, 31, 0⟩
def PRESS_SLIPPED_COUNT : Fld := ⟨0x120, 31, 0⟩
def PRESS_IN_LO_BYTES : Fld := ⟨0x124, 31, 0⟩
def PRESS_IN_HI_BYTES : Fld := ⟨0x128, 31, 0⟩
def PRESS_OUT_LO_BYTES : Fld := ⟨0x12C, 31, 0⟩
def PRESS_OUT_HI_BYTES : Fld := ⟨0x130, 31, 0⟩
def PRESS_FLAGS_LOSSY_IGNORED : Fld := ⟨0x134, 1, 1⟩
def PRESS_FLAGS_SET_REFUSED : Fld := ⟨0x134, 0, 0⟩
def PRESS_RAWV_AT_STREAM_ID : Fld := ⟨0x138, 15, 0⟩
def PRESS_RAWV_SEQ_SEQ : Fld := ⟨0x13C, 31, 0⟩
def PRESS_SELFTEST_FAIL : Fld := ⟨0x140, 0, 0⟩
def QUEUE_INFO_DUAL : Fld := ⟨0x100, 31, 31⟩
def QUEUE_INFO_ENTRY : Fld := ⟨0x100, 27, 24⟩
def QUEUE_INFO_USABLE : Fld := ⟨0x100, 17, 0⟩
def QUEUE_HWM_LEVEL : Fld := ⟨0x104, 17, 0⟩
def QUEUE_LWM_LEVEL : Fld := ⟨0x108, 17, 0⟩
def QUEUE_HOLD_MAP_MAP : Fld := ⟨0x10C, 7, 0⟩
def QUEUE_DEPTH_WM : Fld := ⟨0x110, 31, 31⟩
def QUEUE_DEPTH_FULL : Fld := ⟨0x110, 30, 30⟩
def QUEUE_DEPTH_EMPTY : Fld := ⟨0x110, 29, 29⟩
def QUEUE_DEPTH_FORCED : Fld := ⟨0x110, 28, 28⟩
def QUEUE_DEPTH_DEPTH : Fld := ⟨0x110, 17, 0⟩
def QUEUE_PACKETS_COUNT : Fld := ⟨0x114, 17, 0⟩
def QUEUE_PEAK_COUNT : Fld := ⟨0x118, 17, 0⟩
def QUEUE_CROSS_UP_COUNT : Fld := ⟨0x11C, 31, 16⟩
def QUEUE_CROSS_DOWN_COUNT : Fld := ⟨0x11C, 15, 0⟩
def QUEUE_NOTICE_SET_REFUSED : Fld := ⟨0x120, 2, 2⟩
def QUEUE_NOTICE_DOWN : Fld := ⟨0x120, 1, 1⟩
def QUEUE_NOTICE_UP : Fld := ⟨0x120, 0, 0⟩
def QUEUE_FULL_HITS_COUNT : Fld := ⟨0x124, 31, 0⟩
def QUEUE_UNDERFLOW_COUNT : Fld := ⟨0x128, 31, 0⟩
def QUEUE_ECC_CORR : Fld := ⟨0x12C, 31, 16⟩
def QUEUE_ECC_UNCORR : Fld := ⟨0x12C, 15, 0⟩
def DRAM_CFG_CAP_GIB : Fld := ⟨0x100, 31, 24⟩
def DRAM_CFG_DENSITY : Fld := ⟨0x100, 23, 20⟩
def DRAM_CFG_RANKS : Fld := ⟨0x100, 19, 18⟩
def DRAM_CFG_GRADE : Fld := ⟨0x100, 17, 16⟩
def DRAM_CFG_DRFM : Fld := ⟨0x100, 15, 15⟩
def DRAM_SCHED_WR_HI : Fld := ⟨0x104, 22, 16⟩
def DRAM_SCHED_WR_LO : Fld := ⟨0x104, 6, 0⟩
def DRAM_PANIC_ON_LEVEL : Fld := ⟨0x108, 17, 0⟩
def DRAM_PANIC_OFF_LEVEL : Fld := ⟨0x10C, 17, 0⟩
def DRAM_PANIC_STAT_PANIC : Fld := ⟨0x110, 31, 31⟩
def DRAM_PANIC_STAT_ENTRIES : Fld := ⟨0x110, 15, 0⟩
def DRAM_PANIC_US_TIME : Fld := ⟨0x114, 31, 0⟩
def DRAM_REF_STATUS_HOT : Fld := ⟨0x118, 31, 31⟩
def DRAM_REF_STATUS_ASSUMED : Fld := ⟨0x118, 30, 30⟩
def DRAM_REF_STATUS_OWED : Fld := ⟨0x118, 27, 25⟩
def DRAM_REF_STATUS_MR4 : Fld := ⟨0x118, 24, 22⟩
def DRAM_REF_STATUS_INTERVAL : Fld := ⟨0x118, 15, 0⟩
def DRAM_REF_COUNT_FORCED : Fld := ⟨0x11C, 31, 16⟩
def DRAM_REF_COUNT_POSTPONED : Fld := ⟨0x11C, 15, 0⟩
def DRAM_PD_PD_EN : Fld := ⟨0x120, 31, 31⟩
def DRAM_PD_PD_TIMER : Fld := ⟨0x120, 15, 0⟩
def DRAM_SR_SR_EN : Fld := ⟨0x124, 31, 31⟩
def DRAM_SR_IDLE_US : Fld := ⟨0x124, 15, 0⟩
def DRAM_LTR_HOSTWIN_US : Fld := ⟨0x128, 15, 0⟩
def DRAM_LTR_STATUS_SR : Fld := ⟨0x12C, 31, 31⟩
def DRAM_LTR_STATUS_BLK_TAKE : Fld := ⟨0x12C, 30, 30⟩
def DRAM_LTR_STATUS_BLK_LTR : Fld := ⟨0x12C, 29, 29⟩
def DRAM_LTR_STATUS_BLK_OTHER : Fld := ⟨0x12C, 28, 28⟩
def DRAM_LTR_STATUS_MIN_US : Fld := ⟨0x12C, 15, 0⟩
def DRAM_ACT_CTRL_WIN_US : Fld := ⟨0x130, 23, 16⟩
def DRAM_ACT_CTRL_MAX : Fld := ⟨0x130, 7, 0⟩
def DRAM_ACT_HELD_DR : Fld := ⟨0x134, 31, 24⟩
def DRAM_ACT_HELD_NB : Fld := ⟨0x134, 23, 16⟩
def DRAM_ACT_HELD_HW : Fld := ⟨0x134, 15, 8⟩
def DRAM_ACT_HELD_SC : Fld := ⟨0x134, 7, 0⟩
def DRAM_RH_CTRL_USE_DRFM : Fld := ⟨0x138, 16, 16⟩
def DRAM_RH_CTRL_THRESH : Fld := ⟨0x138, 15, 0⟩
def DRAM_RH_COUNT_DRFM : Fld := ⟨0x13C, 31, 16⟩
def DRAM_RH_COUNT_RFM : Fld := ⟨0x13C, 15, 0⟩
def DRAM_SCRUB_EN : Fld := ⟨0x140, 31, 31⟩
def DRAM_SCRUB_PACE : Fld := ⟨0x140, 7, 0⟩
def DRAM_KNOBS_SCRUB_PAUSED : Fld := ⟨0x144, 31, 31⟩
def DRAM_KNOBS_RT_PACE : Fld := ⟨0x144, 25, 16⟩
def DRAM_KNOBS_DRAIN_PACE : Fld := ⟨0x144, 9, 0⟩
def DRAM_QUEUES_WQ_B : Fld := ⟨0x148, 31, 24⟩
def DRAM_QUEUES_RQ_B : Fld := ⟨0x148, 23, 16⟩
def DRAM_QUEUES_WQ_A : Fld := ⟨0x148, 15, 8⟩
def DRAM_QUEUES_RQ_A : Fld := ⟨0x148, 7, 0⟩
def DRAM_FLAGS_SET_REFUSED : Fld := ⟨0x14C, 0, 0⟩
def DRAM_TRAIN_CTRL_RETRAIN : Fld := ⟨0x200, 31, 31⟩
def DRAM_TRAIN_CTRL_RETRAIN_REFUSED : Fld := ⟨0x200, 30, 30⟩
def DRAM_TRAIN_CTRL_FALLBACK : Fld := ⟨0x200, 4, 4⟩
def DRAM_TRAIN_CTRL_MAX_GRADE : Fld := ⟨0x200, 1, 0⟩
def DRAM_TRAIN_PERIOD_PERIOD_MS : Fld := ⟨0x204, 15, 0⟩
def DRAM_TRAIN_STATUS_STATE : Fld := ⟨0x208, 31, 28⟩
def DRAM_TRAIN_STATUS_STEP : Fld := ⟨0x208, 27, 24⟩
def DRAM_TRAIN_STATUS_TRIES : Fld := ⟨0x208, 23, 22⟩
def DRAM_TRAIN_STATUS_PERIODIC : Fld := ⟨0x208, 21, 21⟩
def DRAM_TRAIN_STATUS_REMAP : Fld := ⟨0x208, 20, 20⟩
def DRAM_TRAIN_COUNT_PERIODIC : Fld := ⟨0x20C, 31, 16⟩
def DRAM_TRAIN_COUNT_ABANDONED : Fld := ⟨0x20C, 15, 8⟩
def DRAM_TRAIN_COUNT_NO_SETTING : Fld := ⟨0x20C, 7, 0⟩
def DRAM_EYE_READ_MIN : Fld := ⟨0x210, 31, 24⟩
def DRAM_EYE_WRITE_MIN : Fld := ⟨0x210, 23, 16⟩
def DRAM_ECC_CTRL_LOG_CE : Fld := ⟨0x220, 31, 31⟩
def DRAM_ECC_CTRL_UE_LIMIT : Fld := ⟨0x220, 7, 0⟩
def DRAM_ECC_CE_COUNT : Fld := ⟨0x224, 31, 0⟩
def DRAM_ECC_UE_COUNT : Fld := ⟨0x228, 31, 0⟩
def DRAM_ECC_POISON_COUNT : Fld := ⟨0x22C, 31, 0⟩
def DRAM_CA_REPLAYS : Fld := ⟨0x230, 31, 16⟩
def DRAM_CA_FAILED_REPLAYS : Fld := ⟨0x230, 15, 8⟩
def DRAM_FAIL_CAUSE : Fld := ⟨0x234, 31, 28⟩
def DRAM_FAIL_TIME_LO_TIME : Fld := ⟨0x238, 31, 0⟩
def DRAM_FAIL_TIME_HI_TIME : Fld := ⟨0x23C, 31, 0⟩
def DRAM_ECC_LOG_HEAD_WRITTEN : Fld := ⟨0x240, 15, 0⟩
def DRAM_ECC_LOG_INFO_KIND (n : Nat) : Fld := ⟨0x300 + 0x10 * n, 31, 29⟩
def DRAM_ECC_LOG_INFO_PORT (n : Nat) : Fld := ⟨0x300 + 0x10 * n, 28, 26⟩
def DRAM_ECC_LOG_INFO_SUB (n : Nat) : Fld := ⟨0x300 + 0x10 * n, 25, 25⟩
def DRAM_ECC_LOG_INFO_RANK (n : Nat) : Fld := ⟨0x300 + 0x10 * n, 24, 24⟩
def DRAM_ECC_LOG_INFO_BG (n : Nat) : Fld := ⟨0x300 + 0x10 * n, 23, 21⟩
def DRAM_ECC_LOG_INFO_BANK (n : Nat) : Fld := ⟨0x300 + 0x10 * n, 20, 19⟩
def DRAM_ECC_LOG_INFO_BIT (n : Nat) : Fld := ⟨0x300 + 0x10 * n, 7, 0⟩
def DRAM_ECC_LOG_ADDR_ROW (n : Nat) : Fld := ⟨0x304 + 0x10 * n, 31, 15⟩
def DRAM_ECC_LOG_ADDR_WORD (n : Nat) : Fld := ⟨0x304 + 0x10 * n, 13, 11⟩
def DRAM_ECC_LOG_ADDR_COLUMN (n : Nat) : Fld := ⟨0x304 + 0x10 * n, 10, 0⟩
def DRAM_ECC_LOG_TIME_LO_TIME (n : Nat) : Fld := ⟨0x308 + 0x10 * n, 31, 0⟩
def DRAM_ECC_LOG_TIME_HI_TIME (n : Nat) : Fld := ⟨0x30C + 0x10 * n, 31, 0⟩
def SRAM_MARCH_CTRL_START : Fld := ⟨0x100, 31, 31⟩
def SRAM_MARCH_CTRL_START_REFUSED : Fld := ⟨0x100, 30, 30⟩
def SRAM_MARCH_CTRL_BOOT : Fld := ⟨0x100, 9, 8⟩
def SRAM_MARCH_CTRL_MODE : Fld := ⟨0x100, 4, 4⟩
def SRAM_MARCH_CTRL_TARGET : Fld := ⟨0x100, 0, 0⟩
def SRAM_MARCH_STATUS_STATE : Fld := ⟨0x104, 31, 28⟩
def SRAM_MARCH_STATUS_BACKGROUND : Fld := ⟨0x104, 27, 26⟩
def SRAM_MARCH_STATUS_MEMORY : Fld := ⟨0x104, 25, 21⟩
def SRAM_MARCH_STATUS_WORD : Fld := ⟨0x104, 14, 0⟩
def SRAM_MARCH_FAIL_LINES : Fld := ⟨0x108, 31, 24⟩
def SRAM_MARCH_FAIL_UNREPAIRED : Fld := ⟨0x108, 23, 23⟩
def SRAM_MARCH_FAIL_MEMORY : Fld := ⟨0x108, 22, 18⟩
def SRAM_MARCH_FAIL_LINE : Fld := ⟨0x108, 11, 0⟩
def SRAM_MARCH_WEAK_COUNT : Fld := ⟨0x10C, 31, 16⟩
def SRAM_REPAIR_MEMORIES : Fld := ⟨0x110, 24, 0⟩
def SRAM_UNREPAIRED_MEMORIES : Fld := ⟨0x114, 24, 0⟩
def SRAM_ECC_CE : Fld := ⟨0x118, 31, 16⟩
def SRAM_ECC_UE : Fld := ⟨0x118, 15, 0⟩
def SRAM_ECC_LAST_KIND : Fld := ⟨0x11C, 31, 29⟩
def SRAM_ECC_LAST_MASTER : Fld := ⟨0x11C, 28, 26⟩
def SRAM_ECC_LAST_MEMORY : Fld := ⟨0x11C, 25, 21⟩
def SRAM_ECC_LAST_WORD : Fld := ⟨0x11C, 14, 12⟩
def SRAM_ECC_LAST_LINE : Fld := ⟨0x11C, 11, 0⟩
def SRAM_CONFLICT_COUNT (n : Nat) : Fld := ⟨0x120 + 0x4 * n, 31, 0⟩
def SRAM_WIN_REFUSED : Fld := ⟨0x138, 31, 16⟩
def HOST_LINK_UP : Fld := ⟨0x100, 31, 31⟩
def HOST_LINK_FLIT : Fld := ⟨0x100, 30, 30⟩
def HOST_LINK_SPEED : Fld := ⟨0x100, 29, 27⟩
def HOST_LINK_WIDTH : Fld := ⟨0x100, 26, 22⟩
def HOST_LINK_REVERSED : Fld := ⟨0x100, 21, 21⟩
def HOST_LINK_COUNT_DOWNS : Fld := ⟨0x104, 31, 16⟩
def HOST_LINK_COUNT_RETRAINS : Fld := ⟨0x104, 15, 0⟩
def HOST_HIF_ACTIVE_MAJOR : Fld := ⟨0x108, 31, 28⟩
def HOST_HIF_ACTIVE_MINOR : Fld := ⟨0x108, 27, 24⟩
def HOST_HIF_REQ_MAJOR : Fld := ⟨0x108, 19, 16⟩
def HOST_HIF_SUP_HIF3 : Fld := ⟨0x108, 1, 1⟩
def HOST_HIF_SUP_HIF2 : Fld := ⟨0x108, 0, 0⟩
def HOST_BAR2_BASE_LO_BASE : Fld := ⟨0x10C, 31, 0⟩
def HOST_BAR2_BASE_HI_BASE : Fld := ⟨0x110, 31, 0⟩
def HOST_RING_CTRL_QUIESCED : Fld := ⟨0x114, 31, 31⟩
def HOST_RING_CTRL_EN_REFUSED : Fld := ⟨0x114, 30, 30⟩
def HOST_RING_CTRL_DRN_HALT : Fld := ⟨0x114, 9, 9⟩
def HOST_RING_CTRL_CMD_HALT : Fld := ⟨0x114, 8, 8⟩
def HOST_RING_CTRL_CPL_EN : Fld := ⟨0x114, 2, 2⟩
def HOST_RING_CTRL_DRN_EN : Fld := ⟨0x114, 1, 1⟩
def HOST_RING_CTRL_CMD_EN : Fld := ⟨0x114, 0, 0⟩
def HOST_HALT_CMD_REASON : Fld := ⟨0x118, 31, 28⟩
def HOST_HALT_DRN_REASON : Fld := ⟨0x118, 27, 24⟩
def HOST_CMD_BASE_LO_BASE : Fld := ⟨0x120, 31, 0⟩
def HOST_CMD_BASE_HI_BASE : Fld := ⟨0x124, 31, 0⟩
def HOST_DRN_BASE_LO_BASE : Fld := ⟨0x130, 31, 0⟩
def HOST_DRN_BASE_HI_BASE : Fld := ⟨0x134, 31, 0⟩
def HOST_CPL_BASE_LO_BASE : Fld := ⟨0x140, 31, 0⟩
def HOST_CPL_BASE_HI_BASE : Fld := ⟨0x144, 31, 0⟩
def HOST_CMD_SIZE_LOG2 : Fld := ⟨0x128, 4, 0⟩
def HOST_DRN_SIZE_LOG2 : Fld := ⟨0x138, 4, 0⟩
def HOST_CPL_SIZE_LOG2 : Fld := ⟨0x148, 4, 0⟩
def HOST_CMD_POSTED_TALLY : Fld := ⟨0x150, 31, 0⟩
def HOST_CMD_ACCEPTED_TALLY : Fld := ⟨0x154, 31, 0⟩
def HOST_CMD_DONE_TALLY : Fld := ⟨0x158, 31, 0⟩
def HOST_DRN_POSTED_TALLY : Fld := ⟨0x160, 31, 0⟩
def HOST_DRN_ACCEPTED_TALLY : Fld := ⟨0x164, 31, 0⟩
def HOST_DRN_DONE_TALLY : Fld := ⟨0x168, 31, 0⟩
def HOST_CPL_PRODUCED_SEQ : Fld := ⟨0x170, 31, 0⟩
def HOST_CPL_FREED_SEQ : Fld := ⟨0x174, 31, 0⟩
def HOST_EVT_PRODUCED_SEQ : Fld := ⟨0x178, 31, 0⟩
def HOST_RESETS_FLR : Fld := ⟨0x17C, 31, 16⟩
def HOST_RESETS_LINK : Fld := ⟨0x17C, 15, 0⟩
def HOST_BAD_BAR0 : Fld := ⟨0x180, 31, 16⟩
def HOST_BAD_BAR2 : Fld := ⟨0x180, 15, 0⟩
def HOST_DRN_BUSY_SUPERS : Fld := ⟨0x184, 7, 0⟩
def HOST_DRN_LAST_TALLY : Fld := ⟨0x188, 31, 0⟩
def HOST_CPL_ECHO_WORD (n : Nat) : Fld := ⟨0x280 + 0x4 * n, 31, 0⟩
def EVENTS_RING_BASE_LO_BASE : Fld := ⟨0x100, 31, 0⟩
def EVENTS_RING_BASE_HI_BASE : Fld := ⟨0x104, 31, 0⟩
def EVENTS_RING_SIZE_LOG2 : Fld := ⟨0x108, 4, 0⟩
def EVENTS_RING_CTRL_EN_REFUSED : Fld := ⟨0x10C, 31, 31⟩
def EVENTS_RING_CTRL_EN : Fld := ⟨0x10C, 0, 0⟩
def EVENTS_FREED_TALLY : Fld := ⟨0x110, 31, 0⟩
def EVENTS_WRITTEN_TALLY : Fld := ⟨0x114, 31, 0⟩
def EVENTS_LOST_COUNT : Fld := ⟨0x118, 31, 0⟩
def EVENTS_COALESCE_HOLDOFF_US : Fld := ⟨0x11C, 15, 0⟩
def EVENTS_IRQ_MOD_MIN_US : Fld := ⟨0x120, 15, 0⟩
def EVENTS_GROUP_RECORD (n : Nat) : Fld := ⟨0x140 + 0x4 * n, 8, 8⟩
def EVENTS_GROUP_VECTOR (n : Nat) : Fld := ⟨0x140 + 0x4 * n, 5, 0⟩
def EVENTS_LINK_RAW_BITS : Fld := ⟨0x240, 29, 0⟩
def EVENTS_LINK_STICKY_BITS : Fld := ⟨0x244, 29, 0⟩
def EVENTS_LINK_ENABLE_BITS : Fld := ⟨0x248, 29, 0⟩
def EVENTS_LINK_FORCE_BITS : Fld := ⟨0x24C, 29, 0⟩
def EVENTS_LINK_COUNT_HI (n : Nat) : Fld := ⟨0x250 + 0x4 * n, 31, 16⟩
def EVENTS_LINK_COUNT_LO (n : Nat) : Fld := ⟨0x250 + 0x4 * n, 15, 0⟩
def RING_CTRL_BYPASS : Fld := ⟨0x100, 31, 31⟩
def RING_CTRL_VERSIONS : Fld := ⟨0x100, 17, 16⟩
def RING_CTRL_PRIORITY : Fld := ⟨0x100, 15, 8⟩
def RING_CTRL_LEADER_OK : Fld := ⟨0x100, 0, 0⟩
def RING_AF_DELAY_BEATS : Fld := ⟨0x104, 15, 0⟩
def RING_STATUS_STATE : Fld := ⟨0x108, 31, 28⟩
def RING_STATUS_LEADER : Fld := ⟨0x108, 27, 27⟩
def RING_STATUS_POSITION : Fld := ⟨0x108, 26, 22⟩
def RING_STATUS_HIVES : Fld := ⟨0x108, 21, 16⟩
def RING_STATUS_AF_DELAY : Fld := ⟨0x108, 15, 0⟩
def RING_HOP_UP (n : Nat) : Fld := ⟨0x10C + 0x4 * n, 31, 31⟩
def RING_HOP_VERSION (n : Nat) : Fld := ⟨0x10C + 0x4 * n, 30, 29⟩
def RING_HOP_CAUSE (n : Nat) : Fld := ⟨0x10C + 0x4 * n, 28, 26⟩
def RING_HOP_DELAY (n : Nat) : Fld := ⟨0x10C + 0x4 * n, 19, 0⟩
def RING_LOOP_K : Fld := ⟨0x114, 31, 22⟩
def RING_LOOP_LOOP_NS : Fld := ⟨0x114, 15, 0⟩
def RING_TIME_OFFSET_OUT_OF_STEP : Fld := ⟨0x118, 31, 31⟩
def RING_TIME_OFFSET_OFFSET : Fld := ⟨0x118, 23, 0⟩
def RING_AF_STATE_OWN : Fld := ⟨0x11C, 31, 16⟩
def RING_AF_STATE_VALUE : Fld := ⟨0x11C, 15, 0⟩
def RING_UID_LO_UID : Fld := ⟨0x120, 31, 0⟩
def RING_UID_HI_PRIORITY : Fld := ⟨0x124, 23, 16⟩
def RING_UID_HI_UID : Fld := ⟨0x124, 15, 0⟩
def RING_LEADER_LO_UID : Fld := ⟨0x128, 31, 0⟩
def RING_LEADER_HI_PRIORITY : Fld := ⟨0x12C, 23, 16⟩
def RING_LEADER_HI_UID : Fld := ⟨0x12C, 15, 0⟩
def RING_LOST_A : Fld := ⟨0x130, 31, 16⟩
def RING_LOST_B : Fld := ⟨0x130, 15, 0⟩
def RING_FLAG_COUNTS_STALE : Fld := ⟨0x134, 31, 24⟩
def RING_FLAG_COUNTS_LATE : Fld := ⟨0x134, 23, 12⟩
def RING_FLAG_COUNTS_GAP : Fld := ⟨0x134, 11, 0⟩
def RING_EPOCH_GO : Fld := ⟨0x138, 31, 31⟩
def RING_EPOCH_REFUSED : Fld := ⟨0x138, 30, 30⟩
def RING_EPOCH_COUNT : Fld := ⟨0x138, 15, 0⟩
def RING_MAIL_OUT_SEND : Fld := ⟨0x140, 31, 31⟩
def RING_MAIL_OUT_BUSY : Fld := ⟨0x140, 30, 30⟩
def RING_MAIL_OUT_TO : Fld := ⟨0x140, 20, 16⟩
def RING_MAIL_OUT_ARG_HI : Fld := ⟨0x140, 15, 0⟩
def RING_MAIL_OUT_ARG_ARG : Fld := ⟨0x144, 31, 0⟩
def RING_MAIL_IN_VALID : Fld := ⟨0x148, 31, 31⟩
def RING_MAIL_IN_FROM : Fld := ⟨0x148, 20, 16⟩
def RING_MAIL_IN_ARG_HI : Fld := ⟨0x148, 15, 0⟩
def RING_MAIL_IN_ARG_ARG : Fld := ⟨0x14C, 31, 0⟩
def REEVE_SUSTAIN_QW : Fld := ⟨0x100, 15, 0⟩
def REEVE_RESERVE_RESERVE_J : Fld := ⟨0x104, 13, 0⟩
def REEVE_POLICY_SHED : Fld := ⟨0x108, 0, 0⟩
def REEVE_RUN_MS_RUN_MS : Fld := ⟨0x10C, 31, 0⟩
def REEVE_SHED_DRAIN_GBPS : Fld := ⟨0x110, 25, 16⟩
def REEVE_SHED_RT_GBPS : Fld := ⟨0x110, 9, 0⟩
def REEVE_RECOVER_RECOVER_J : Fld := ⟨0x114, 13, 0⟩
def REEVE_STATUS_HISTORY_OK : Fld := ⟨0x118, 31, 31⟩
def REEVE_STATUS_PRESSED : Fld := ⟨0x118, 30, 30⟩
def REEVE_STATUS_THROTTLED : Fld := ⟨0x118, 29, 29⟩
def REEVE_STATUS_NEAR_LIMIT : Fld := ⟨0x118, 28, 28⟩
def REEVE_STATUS_STEP : Fld := ⟨0x118, 27, 25⟩
def REEVE_STATUS_POWER_STOP : Fld := ⟨0x118, 24, 24⟩
def REEVE_STATUS_RUN : Fld := ⟨0x118, 4, 0⟩
def REEVE_RES_NOW_E_MJ : Fld := ⟨0x11C, 23, 0⟩
def REEVE_PLAN_REFUSED : Fld := ⟨0x120, 31, 31⟩
def REEVE_PLAN_PEAK_USED : Fld := ⟨0x120, 30, 30⟩
def REEVE_PLAN_PLAN : Fld := ⟨0x120, 15, 0⟩
def REEVE_LEARN_LEARN : Fld := ⟨0x124, 15, 0⟩
def REEVE_TEMP_SUPER : Fld := ⟨0x128, 31, 28⟩
def REEVE_TEMP_TJ : Fld := ⟨0x128, 15, 0⟩
def REEVE_WEAR_CFG_BUDGET_S : Fld := ⟨0x12C, 15, 0⟩
def REEVE_WEAR_LOST : Fld := ⟨0x130, 31, 31⟩
def REEVE_WEAR_SPENT : Fld := ⟨0x130, 30, 30⟩
def REEVE_WEAR_SECONDS : Fld := ⟨0x130, 19, 0⟩
def REEVE_WEAR_LOAD_SECONDS : Fld := ⟨0x134, 19, 0⟩
def REEVE_TRAIN_GRANTED : Fld := ⟨0x138, 31, 16⟩
def REEVE_TRAIN_WAITED : Fld := ⟨0x138, 15, 0⟩
def REEVE_SHARED_MEAS : Fld := ⟨0x13C, 31, 16⟩
def REEVE_SHARED_GRANT : Fld := ⟨0x13C, 15, 0⟩
def REEVE_GRANT_MEAS (n : Nat) : Fld := ⟨0x140 + 0x4 * n, 31, 16⟩
def REEVE_GRANT_GRANT (n : Nat) : Fld := ⟨0x140 + 0x4 * n, 15, 0⟩
def REEVE_COST_PEAK (n : Nat) : Fld := ⟨0x180 + 0x4 * n, 31, 16⟩
def REEVE_COST_TYPICAL (n : Nat) : Fld := ⟨0x180 + 0x4 * n, 15, 0⟩
def IVR_VIN_VALUE : Fld := ⟨0x100, 15, 0⟩
def IVR_IIN_VALUE : Fld := ⟨0x104, 15, 0⟩
def IVR_PIN_VALUE : Fld := ⟨0x108, 15, 0⟩
def IVR_ILIM_AMPS : Fld := ⟨0x10C, 7, 0⟩
def IVR_RAILS_SUPER : Fld := ⟨0x110, 31, 4⟩
def IVR_RAILS_VAON_VSTBY : Fld := ⟨0x110, 3, 3⟩
def IVR_RAILS_VIO : Fld := ⟨0x110, 2, 2⟩
def IVR_RAILS_VHOST : Fld := ⟨0x110, 1, 1⟩
def IVR_RAILS_VAON : Fld := ⟨0x110, 0, 0⟩
def IVR_RAILS_S7_S7 : Fld := ⟨0x114, 3, 0⟩
def IVR_PHASE_DROPPED : Fld := ⟨0x118, 31, 0⟩
def BOARD_OUT_RATE : Fld := ⟨0x100, 17, 16⟩
def BOARD_OUT_LANES : Fld := ⟨0x100, 8, 8⟩
def BOARD_OUT_B_EN : Fld := ⟨0x100, 1, 1⟩
def BOARD_OUT_A_EN : Fld := ⟨0x100, 0, 0⟩
def BOARD_HTIM_TOTAL : Fld := ⟨0x104, 31, 16⟩
def BOARD_HTIM_ACTIVE : Fld := ⟨0x104, 15, 0⟩
def BOARD_VTIM_TOTAL : Fld := ⟨0x10C, 31, 16⟩
def BOARD_VTIM_ACTIVE : Fld := ⟨0x10C, 15, 0⟩
def BOARD_HSYNC_POL : Fld := ⟨0x108, 31, 31⟩
def BOARD_HSYNC_START : Fld := ⟨0x108, 27, 16⟩
def BOARD_HSYNC_WIDTH : Fld := ⟨0x108, 11, 0⟩
def BOARD_VSYNC_POL : Fld := ⟨0x110, 31, 31⟩
def BOARD_VSYNC_START : Fld := ⟨0x110, 27, 16⟩
def BOARD_VSYNC_WIDTH : Fld := ⟨0x110, 11, 0⟩
def BOARD_VPLL_P : Fld := ⟨0x114, 28, 24⟩
def BOARD_VPLL_M : Fld := ⟨0x114, 23, 16⟩
def BOARD_VPLL_N : Fld := ⟨0x114, 11, 0⟩
def BOARD_FB_SLOT_SLOT : Fld := ⟨0x118, 26, 0⟩
def BOARD_FB_FMT_FORMAT : Fld := ⟨0x11C, 16, 16⟩
def BOARD_FB_FMT_STRIDE : Fld := ⟨0x11C, 7, 0⟩
def BOARD_BG_RGB : Fld := ⟨0x120, 23, 0⟩
def BOARD_PAINT_COL_RGB (n : Nat) : Fld := ⟨0x13C + 0x4 * n, 23, 0⟩
def BOARD_REFRESH_LOWER_EN : Fld := ⟨0x124, 31, 31⟩
def BOARD_REFRESH_FLOOR_HZ : Fld := ⟨0x124, 23, 16⟩
def BOARD_REFRESH_N_FRAMES : Fld := ⟨0x124, 15, 0⟩
def BOARD_TE_SEL : Fld := ⟨0x128, 17, 16⟩
def BOARD_TE_EDGE : Fld := ⟨0x128, 8, 8⟩
def BOARD_TE_TIMEOUT_MS : Fld := ⟨0x128, 7, 0⟩
def BOARD_LB_LOW_KIB : Fld := ⟨0x12C, 23, 16⟩
def BOARD_LB_URGENT_KIB : Fld := ⟨0x12C, 7, 0⟩
def BOARD_CRC_CTRL_EXPECT_EN : Fld := ⟨0x130, 0, 0⟩
def BOARD_CRC_EXPECT_CRC : Fld := ⟨0x134, 31, 0⟩
def BOARD_PAINT_EN : Fld := ⟨0x138, 31, 31⟩
def BOARD_PAINT_DECIM : Fld := ⟨0x138, 4, 0⟩
def BOARD_STRIP_POS_EN (n : Nat) : Fld := ⟨0x400 + 0x10 * n, 31, 31⟩
def BOARD_STRIP_POS_Y (n : Nat) : Fld := ⟨0x400 + 0x10 * n, 26, 16⟩
def BOARD_STRIP_POS_X (n : Nat) : Fld := ⟨0x400 + 0x10 * n, 10, 0⟩
def BOARD_STRIP_SIZE_LEN (n : Nat) : Fld := ⟨0x404 + 0x10 * n, 26, 16⟩
def BOARD_STRIP_SIZE_HEIGHT_M1 (n : Nat) : Fld := ⟨0x404 + 0x10 * n, 5, 0⟩
def BOARD_STRIP_CELL_CELL (n : Nat) : Fld := ⟨0x408 + 0x10 * n, 10, 0⟩
def BOARD_STATUS_RUNNING : Fld := ⟨0x180, 31, 31⟩
def BOARD_STATUS_A_UP : Fld := ⟨0x180, 30, 30⟩
def BOARD_STATUS_B_UP : Fld := ⟨0x180, 29, 29⟩
def BOARD_STATUS_A_FAILED : Fld := ⟨0x180, 28, 28⟩
def BOARD_STATUS_B_FAILED : Fld := ⟨0x180, 27, 27⟩
def BOARD_STATUS_LOWERED : Fld := ⟨0x180, 26, 26⟩
def BOARD_STATUS_FLOOR : Fld := ⟨0x180, 25, 25⟩
def BOARD_STATUS_NO_FB : Fld := ⟨0x180, 24, 24⟩
def BOARD_STATUS_RELOCK : Fld := ⟨0x180, 23, 23⟩
def BOARD_STATUS_TE_WAIT : Fld := ⟨0x180, 22, 22⟩
def BOARD_STATUS_LINE : Fld := ⟨0x180, 15, 0⟩
def BOARD_FRAME_VALUE : Fld := ⟨0x184, 31, 0⟩
def BOARD_APPLIED_VALUE : Fld := ⟨0x188, 31, 0⟩
def BOARD_CRC_PRE_VALUE : Fld := ⟨0x18C, 31, 0⟩
def BOARD_CRC_A_VALUE : Fld := ⟨0x190, 31, 0⟩
def BOARD_CRC_B_VALUE : Fld := ⟨0x194, 31, 0⟩
def BOARD_ERR_UNDERRUN : Fld := ⟨0x198, 31, 16⟩
def BOARD_ERR_CRC_BAD : Fld := ⟨0x198, 15, 8⟩
def BOARD_ERR_TE_MISS : Fld := ⟨0x198, 7, 0⟩
def BOARD_ERR2_POISON : Fld := ⟨0x19C, 31, 16⟩
def BOARD_ERR2_EXPECT_BAD : Fld := ⟨0x19C, 15, 8⟩
def BOARD_ERR2_RETRAIN : Fld := ⟨0x19C, 7, 0⟩
def BOARD_LTR_LEVEL_KIB : Fld := ⟨0x1A0, 24, 16⟩
def BOARD_LTR_LTR_US : Fld := ⟨0x1A0, 15, 0⟩
def BOARD_FLAGS_SET_REFUSED : Fld := ⟨0x1A4, 0, 0⟩
def BOARD_AUX_CTRL_GO : Fld := ⟨0x1A8, 31, 31⟩
def BOARD_AUX_CTRL_BUSY : Fld := ⟨0x1A8, 30, 30⟩
def BOARD_AUX_CTRL_RESULT : Fld := ⟨0x1A8, 29, 28⟩
def BOARD_AUX_CTRL_PORT : Fld := ⟨0x1A8, 27, 27⟩
def BOARD_AUX_CTRL_KIND : Fld := ⟨0x1A8, 25, 24⟩
def BOARD_AUX_CTRL_LEN_M1 : Fld := ⟨0x1A8, 23, 20⟩
def BOARD_AUX_CTRL_ADDR : Fld := ⟨0x1A8, 19, 0⟩
def BOARD_AUX_DATA_DATA (n : Nat) : Fld := ⟨0x1AC + 0x4 * n, 31, 0⟩

/-! The six event words of the common header (R54, R492) and the counters beside them. -/
def EV_RAW : Fld := ⟨0x010, 15, 0⟩
def EV_STICKY : Fld := ⟨0x014, 15, 0⟩
def EV_ENABLE : Fld := ⟨0x018, 15, 0⟩
def EV_FORCE : Fld := ⟨0x01C, 15, 0⟩
/-- EV_COUNTm holds source 2m in bits 15:0 and source 2m + 1 in bits 31:16. -/
def EV_COUNT (n : Nat) : Fld := ⟨0x020 + 4 * (n / 2), 16 * (n % 2) + 15, 16 * (n % 2)⟩
/-- The MSI-X table in the HOST page (R453): address, upper address, data and vector control of entry `n`. -/
def MSIX_ADDR_LO (n : Nat) : Fld := ⟨0x400 + 16 * n, 31, 0⟩
def MSIX_ADDR_HI (n : Nat) : Fld := ⟨0x404 + 16 * n, 31, 0⟩
def MSIX_DATA (n : Nat) : Fld := ⟨0x408 + 16 * n, 31, 0⟩
def MSIX_MASK (n : Nat) : Fld := ⟨0x40C + 16 * n, 0, 0⟩
/-- The pending bit array of MSI-X (R453). -/
def MSIX_PBA (n : Nat) : Fld := ⟨0x380 + 4 * n, 31, 0⟩

end R

/-- The HIVE page. Part 0. -/
def hiveFieldsPart0 : List FieldDef := [
  ⟨R.HIVE_PART_FAMILY, 0, 1, .ro, .direct, 0x4C⟩,
  ⟨R.HIVE_PART_SUPERS, 0, 1, .ro, .direct, 0⟩,
  ⟨R.HIVE_PART_VARIANT, 0, 1, .ro, .direct, 0⟩,
  ⟨R.HIVE_PART_STEP_MAJOR, 0, 1, .ro, .direct, 0⟩,
  ⟨R.HIVE_PART_STEP_MINOR, 0, 1, .ro, .direct, 0⟩,
  ⟨R.HIVE_CAP0_DRAM_CH_MASK, 0, 1, .ro, .direct, 0⟩,
  ⟨R.HIVE_CAP0_SUPER_MASK, 0, 1, .ro, .direct, 0⟩,
  ⟨R.HIVE_CAP0_RING, 0, 1, .ro, .direct, 1⟩,
  ⟨R.HIVE_CAP0_BOARD, 0, 1, .ro, .direct, 0⟩,
  ⟨R.HIVE_CAP0_SCOUT, 0, 1, .ro, .direct, 0⟩,
  ⟨R.HIVE_CAP0_PRESS, 0, 1, .ro, .direct, 0⟩,
  ⟨R.HIVE_CAP1_SCOUTS_PER_SUPER, 0, 1, .ro, .direct, 0⟩,
  ⟨R.HIVE_CAP1_EVENT_SOURCES, 0, 1, .ro, .direct, 0⟩,
  ⟨R.HIVE_LINK_PRESENT 0, 0x4, 10, .ro, .direct, 0⟩,
  ⟨R.HIVE_LINK_UP 0, 0x4, 10, .ro, .direct, 0⟩,
  ⟨R.HIVE_LINK_SPARE_LH 0, 0x4, 10, .ro, .direct, 0⟩,
  ⟨R.HIVE_LINK_SPARE_HL 0, 0x4, 10, .ro, .direct, 0⟩,
  ⟨R.HIVE_LINK_HALF_LH 0, 0x4, 10, .ro, .direct, 0⟩,
  ⟨R.HIVE_LINK_HALF_HL 0, 0x4, 10, .ro, .direct, 0⟩,
  ⟨R.HIVE_LINK_WSB_ONE 0, 0x4, 10, .ro, .direct, 0⟩,
  ⟨R.HIVE_LINK_CLK_ONE 0, 0x4, 10, .ro, .direct, 0⟩,
  ⟨R.HIVE_LINK_CORR_COUNT 0, 0x4, 10, .ro, .direct, 0⟩,
  ⟨R.MEMWIN_SEL_SUPER, 0, 1, .rw, .direct, 0⟩,
  ⟨R.HIVE_TAKE_CTRL_TURN_REC, 0, 1, .rw, .shadow, 0⟩]

/-- The HIVE page. Part 1. -/
def hiveFieldsPart1 : List FieldDef := [
  ⟨R.HIVE_TAKE_CTRL_FULL_PRE, 0, 1, .rw, .shadow, 0⟩,
  ⟨R.HIVE_TAKE_PRE_LO_PRE, 0, 1, .rw, .shadow, 0x640⟩,
  ⟨R.HIVE_TAKE_PRE_HI_PRE, 0, 1, .rw, .shadow, 0⟩,
  ⟨R.HIVE_TAKE_POST_LO_POST, 0, 1, .rw, .shadow, 0x640⟩,
  ⟨R.HIVE_TAKE_POST_HI_POST, 0, 1, .rw, .shadow, 0⟩,
  ⟨R.HIVE_TAKE_SEGS_SEGS_M1, 0, 1, .rw, .shadow, 0⟩,
  ⟨R.HIVE_TAKE_START_LO_START, 0, 1, .rw, .shadow, 0⟩,
  ⟨R.HIVE_TAKE_START_HI_START, 0, 1, .rw, .shadow, 0⟩,
  ⟨R.HIVE_TAKE_TURN_DIV, 0, 1, .rw, .shadow, 1⟩,
  ⟨R.HIVE_TAKE_MARK_AGE_US, 0, 1, .rw, .shadow, 0x3E8⟩,
  ⟨R.HIVE_TAKE_STATE_STATE, 0, 1, .ro, .direct, 0⟩,
  ⟨R.HIVE_TAKE_STATE_REASON, 0, 1, .ro, .direct, 0⟩,
  ⟨R.HIVE_TAKE_STATE_SEGMENT, 0, 1, .ro, .direct, 0⟩,
  ⟨R.HIVE_TAKE_ID_ID, 0, 1, .ro, .direct, 0⟩,
  ⟨R.HIVE_TAKE_REFUSE_SUPER, 0, 1, .ro, .direct, 0⟩,
  ⟨R.HIVE_TAKE_REFUSE_CODE, 0, 1, .ro, .direct, 0⟩,
  ⟨R.HIVE_TAKE_FIRST_LO_TIME, 0, 1, .ro, .direct, 0⟩,
  ⟨R.HIVE_TAKE_FIRST_HI_TIME, 0, 1, .ro, .direct, 0⟩,
  ⟨R.HIVE_TAKE_END_LO_TIME, 0, 1, .ro, .direct, 0⟩,
  ⟨R.HIVE_TAKE_END_HI_TIME, 0, 1, .ro, .direct, 0⟩,
  ⟨R.HIVE_TAKE_TRIGS_COUNT, 0, 1, .ro, .direct, 0⟩,
  ⟨R.HIVE_STORE_LIMIT_SLOT 0, 0x4, 8, .rw, .shadow, 0⟩,
  ⟨R.HIVE_STORE_OLDEST_SLOT 0, 0x4, 8, .ro, .direct, 0⟩,
  ⟨R.HIVE_STORE_NEXT_SLOT 0, 0x4, 8, .ro, .direct, 0⟩]

/-- The HIVE page. Part 2. -/
def hiveFieldsPart2 : List FieldDef := [
  ⟨R.HIVE_HOLD_CTRL_IDLE, 0, 1, .rw, .direct, 0⟩,
  ⟨R.HIVE_HOLD_CTRL_FORCE, 0, 1, .rw, .direct, 0⟩,
  ⟨R.HIVE_HOLD_STATE_PIN, 0, 1, .ro, .direct, 0⟩,
  ⟨R.HIVE_HOLD_STATE_DRIVE, 0, 1, .ro, .direct, 0⟩,
  ⟨R.HIVE_HOLD_STATE_QUEUE, 0, 1, .ro, .direct, 0⟩,
  ⟨R.HIVE_HOLD_CNT_HI 0, 0x4, 4, .w1c, .direct, 0⟩,
  ⟨R.HIVE_HOLD_CNT_LO 0, 0x4, 4, .w1c, .direct, 0⟩,
  ⟨R.HIVE_RESET_CTRL_SOFT, 0, 1, .wo, .direct, 0⟩,
  ⟨R.HIVE_RESET_CTRL_SOFT_REFUSED, 0, 1, .w1c, .direct, 0⟩,
  ⟨R.HIVE_RESET_CTRL_SOFT_BUSY, 0, 1, .ro, .direct, 0⟩,
  ⟨R.HIVE_RESET_CTRL_KEY, 0, 1, .wo, .direct, 0⟩,
  ⟨R.HIVE_BOOT_STAGE, 0, 1, .ro, .direct, 1⟩,
  ⟨R.HIVE_BOOT_LAST_RESET, 0, 1, .ro, .direct, 1⟩,
  ⟨R.HIVE_BOOT_FAULT_STOP, 0, 1, .ro, .direct, 0⟩,
  ⟨R.HIVE_BOOT_BOOT_MS, 0, 1, .ro, .direct, 0⟩,
  ⟨R.HIVE_READY_ALL, 0, 1, .ro, .direct, 0⟩,
  ⟨R.HIVE_READY_STORE, 0, 1, .ro, .direct, 0⟩,
  ⟨R.HIVE_READY_DRAM, 0, 1, .ro, .direct, 0⟩,
  ⟨R.HIVE_READY_SRAM, 0, 1, .ro, .direct, 0⟩,
  ⟨R.HIVE_READY_BOOTED, 0, 1, .ro, .direct, 0⟩,
  ⟨R.HIVE_READY_CLOCKS, 0, 1, .ro, .direct, 0⟩,
  ⟨R.HIVE_READY_POWER, 0, 1, .ro, .direct, 0⟩,
  ⟨R.HIVE_RESET_COUNT_RESET_N, 0, 1, .w1c, .direct, 0⟩,
  ⟨R.HIVE_RESET_COUNT_PERST_N, 0, 1, .w1c, .direct, 0⟩]

/-- The HIVE page. Part 3. -/
def hiveFieldsPart3 : List FieldDef := [
  ⟨R.HIVE_RESET_COUNT_SOFT, 0, 1, .w1c, .direct, 0⟩,
  ⟨R.HIVE_RESET_COUNT_FAULT_STOPS, 0, 1, .w1c, .direct, 0⟩,
  ⟨R.HIVE_PATCH_COPY_A, 0, 1, .ro, .direct, 0⟩,
  ⟨R.HIVE_PATCH_COPY_B, 0, 1, .ro, .direct, 0⟩,
  ⟨R.HIVE_PATCH_PATCHED, 0, 1, .ro, .direct, 0⟩,
  ⟨R.HIVE_PATCH_USED_B, 0, 1, .ro, .direct, 0⟩,
  ⟨R.HIVE_PATCH_PSEQ, 0, 1, .ro, .direct, 0⟩]

/-- The HIVE page. -/
def hiveFields : List FieldDef := hiveFieldsPart0 ++ hiveFieldsPart1 ++ hiveFieldsPart2 ++ hiveFieldsPart3

/-- The common header of every page (R54). Part 0. -/
def headerFieldsPart0 : List FieldDef := [
  ⟨R.PAGE_ID_TYPE, 0, 1, .ro, .direct, 0⟩,
  ⟨R.PAGE_ID_INSTANCE, 0, 1, .ro, .direct, 0⟩,
  ⟨R.PAGE_ID_SUPER, 0, 1, .ro, .direct, 0⟩,
  ⟨R.PAGE_ID_LAYOUT_MAJOR, 0, 1, .ro, .direct, 1⟩,
  ⟨R.PAGE_ID_LAYOUT_MINOR, 0, 1, .ro, .direct, 0⟩,
  ⟨R.PAGE_CAP_BLOCK_CAP, 0, 1, .ro, .direct, 0⟩,
  ⟨R.PAGE_CAP_LIVE, 0, 1, .ro, .direct, 0⟩,
  ⟨R.PAGE_CAP_EV_SOURCES, 0, 1, .ro, .direct, 0⟩,
  ⟨R.PAGE_CTRL_PAGE_RESET, 0, 1, .wo, .direct, 0⟩,
  ⟨R.PAGE_CTRL_ENABLE, 0, 1, .rw, .direct, 0⟩,
  ⟨R.PAGE_STATUS_BLOCK_STATUS, 0, 1, .ro, .direct, 0⟩,
  ⟨R.PAGE_STATUS_RESET_REFUSED, 0, 1, .ro, .direct, 0⟩,
  ⟨R.PAGE_STATUS_RESET_BUSY, 0, 1, .ro, .direct, 0⟩,
  ⟨R.PAGE_STATUS_FAULT, 0, 1, .ro, .direct, 0⟩,
  ⟨R.PAGE_STATUS_READY, 0, 1, .ro, .direct, 0⟩,
  ⟨R.COMMIT_DISCARD, 0, 1, .w1s, .direct, 0⟩,
  ⟨R.COMMIT_COMMIT, 0, 1, .w1s, .direct, 0⟩,
  ⟨R.SHADOW_STATUS_APPLY_COUNT, 0, 1, .ro, .direct, 0⟩,
  ⟨R.SHADOW_STATUS_COMMIT_WAIT, 0, 1, .ro, .direct, 0⟩,
  ⟨R.SHADOW_STATUS_HELD, 0, 1, .ro, .direct, 0⟩,
  ⟨R.SHADOW_STATUS_LIVE_PENDING, 0, 1, .ro, .direct, 0⟩,
  ⟨R.SHADOW_STATUS_DIRTY, 0, 1, .ro, .direct, 0⟩,
  ⟨R.EV_RAW, 0, 1, .ro, .direct, 0⟩,
  ⟨R.EV_STICKY, 0, 1, .w1c, .direct, 0⟩]

/-- The common header of every page (R54). Part 1. -/
def headerFieldsPart1 : List FieldDef := [
  ⟨R.EV_ENABLE, 0, 1, .rw, .direct, 0⟩,
  ⟨R.EV_FORCE, 0, 1, .wo, .direct, 0⟩,
  ⟨R.EV_COUNT 0, 4, 8, .w1c, .direct, 0⟩,
  ⟨R.EV_COUNT 1, 4, 8, .w1c, .direct, 0⟩]

/-- The common header of every page (R54). -/
def headerFields : List FieldDef := headerFieldsPart0 ++ headerFieldsPart1

/-- The MPLL page. Part 0. -/
def mpllFieldsPart0 : List FieldDef := [
  ⟨R.PLL_DIV_P, 0, 1, .rw, .shadow, 0⟩,
  ⟨R.PLL_DIV_M, 0, 1, .rw, .shadow, 0⟩,
  ⟨R.PLL_DIV_N, 0, 1, .rw, .shadow, 0⟩,
  ⟨R.PLL_CTRL_REF_SEL, 0, 1, .rw, .shadow, 0⟩,
  ⟨R.PLL_SSC_MODE, 0, 1, .rw, .shadow, 0⟩,
  ⟨R.PLL_SSC_DEPTH, 0, 1, .rw, .shadow, 0⟩,
  ⟨R.PLL_COAST_COAST_MAX, 0, 1, .rw, .direct, 0x3E8⟩,
  ⟨R.PLL_STATUS_STATE, 0, 1, .ro, .direct, 1⟩,
  ⟨R.PLL_STATUS_BAND, 0, 1, .ro, .direct, 0⟩,
  ⟨R.PLL_STATUS_LOCK, 0, 1, .ro, .direct, 0⟩,
  ⟨R.PLL_STATUS_REF_PRESENT, 0, 1, .ro, .direct, 0⟩,
  ⟨R.PLL_STATUS_SSC_ACTIVE, 0, 1, .ro, .direct, 0⟩,
  ⟨R.PLL_STATUS_COAST_TIME, 0, 1, .ro, .direct, 0⟩,
  ⟨R.PLL_FLAGS_SSC_REFUSED, 0, 1, .w1c, .direct, 0⟩,
  ⟨R.PLL_FLAGS_DIV_REFUSED, 0, 1, .w1c, .direct, 0⟩,
  ⟨R.PLL_FLAGS_COAST_LIMIT, 0, 1, .w1c, .direct, 0⟩,
  ⟨R.PLL_FLAGS_LOCK_LOST, 0, 1, .w1c, .direct, 0⟩,
  ⟨R.PLL_COUNTS_COASTS, 0, 1, .ro, .direct, 0⟩,
  ⟨R.PLL_COUNTS_RELOCKS, 0, 1, .ro, .direct, 0⟩,
  ⟨R.PLL_LOCKMON_SEL_SEL, 0, 1, .rw, .direct, 0⟩,
  ⟨R.PLL_TIME_NOW_LO_TIME, 0, 1, .ro, .direct, 0⟩,
  ⟨R.PLL_TIME_NOW_HI_TIME, 0, 1, .ro, .direct, 0⟩,
  ⟨R.PLL_TIME_LOAD_LO_VALUE, 0, 1, .rw, .direct, 0⟩,
  ⟨R.PLL_TIME_LOAD_HI_VALUE, 0, 1, .rw, .direct, 0⟩]

/-- The MPLL page. Part 1. -/
def mpllFieldsPart1 : List FieldDef := [
  ⟨R.PLL_TIME_CTRL_TURN_EARLY, 0, 1, .ro, .direct, 0⟩,
  ⟨R.PLL_TIME_CTRL_LOAD_REFUSED, 0, 1, .w1c, .direct, 0⟩,
  ⟨R.PLL_TIME_CTRL_LOAD, 0, 1, .wo, .direct, 0⟩,
  ⟨R.PLL_TIME_TURN_LO_TIME, 0, 1, .ro, .direct, 0⟩,
  ⟨R.PLL_TIME_TURN_HI_TIME, 0, 1, .ro, .direct, 0⟩,
  ⟨R.PLL_TIME_TURN_COUNT_COUNT, 0, 1, .ro, .direct, 0⟩]

/-- The MPLL page. -/
def mpllFields : List FieldDef := mpllFieldsPart0 ++ mpllFieldsPart1

/-- An SPLL page. -/
def spllFields : List FieldDef := [
  ⟨R.PLL_DIV_P, 0, 1, .ro, .direct, 0⟩,
  ⟨R.PLL_DIV_M, 0, 1, .ro, .direct, 0⟩,
  ⟨R.PLL_DIV_N, 0, 1, .ro, .direct, 0⟩,
  ⟨R.PLL_CTRL_REF_SEL, 0, 1, .ro, .direct, 0⟩,
  ⟨R.PLL_SSC_MODE, 0, 1, .rw, .shadow, 0⟩,
  ⟨R.PLL_SSC_DEPTH, 0, 1, .rw, .shadow, 0⟩,
  ⟨R.PLL_COAST_COAST_MAX, 0, 1, .rw, .direct, 0x3E8⟩,
  ⟨R.PLL_STATUS_STATE, 0, 1, .ro, .direct, 1⟩,
  ⟨R.PLL_STATUS_BAND, 0, 1, .ro, .direct, 0⟩,
  ⟨R.PLL_STATUS_LOCK, 0, 1, .ro, .direct, 0⟩,
  ⟨R.PLL_STATUS_REF_PRESENT, 0, 1, .ro, .direct, 0⟩,
  ⟨R.PLL_STATUS_SSC_ACTIVE, 0, 1, .ro, .direct, 0⟩,
  ⟨R.PLL_STATUS_COAST_TIME, 0, 1, .ro, .direct, 0⟩,
  ⟨R.PLL_FLAGS_SSC_REFUSED, 0, 1, .w1c, .direct, 0⟩,
  ⟨R.PLL_FLAGS_DIV_REFUSED, 0, 1, .w1c, .direct, 0⟩,
  ⟨R.PLL_FLAGS_COAST_LIMIT, 0, 1, .w1c, .direct, 0⟩,
  ⟨R.PLL_FLAGS_LOCK_LOST, 0, 1, .w1c, .direct, 0⟩,
  ⟨R.PLL_COUNTS_COASTS, 0, 1, .ro, .direct, 0⟩,
  ⟨R.PLL_COUNTS_RELOCKS, 0, 1, .ro, .direct, 0⟩,
  ⟨R.PLL_TIME_STATUS_ALIGNED, 0, 1, .ro, .direct, 0⟩,
  ⟨R.PLL_TIME_STATUS_TIME_STEP, 0, 1, .ro, .direct, 0⟩]

/-- The page of any other PLL. -/
def pllxFields : List FieldDef := [
  ⟨R.PLL_DIV_P, 0, 1, .ro, .direct, 0⟩,
  ⟨R.PLL_DIV_M, 0, 1, .ro, .direct, 0⟩,
  ⟨R.PLL_DIV_N, 0, 1, .ro, .direct, 0⟩,
  ⟨R.PLL_CTRL_REF_SEL, 0, 1, .ro, .direct, 0⟩,
  ⟨R.PLL_SSC_MODE, 0, 1, .rw, .shadow, 0⟩,
  ⟨R.PLL_SSC_DEPTH, 0, 1, .rw, .shadow, 0⟩,
  ⟨R.PLL_COAST_COAST_MAX, 0, 1, .ro, .direct, 0⟩,
  ⟨R.PLL_STATUS_STATE, 0, 1, .ro, .direct, 1⟩,
  ⟨R.PLL_STATUS_BAND, 0, 1, .ro, .direct, 0⟩,
  ⟨R.PLL_STATUS_LOCK, 0, 1, .ro, .direct, 0⟩,
  ⟨R.PLL_STATUS_REF_PRESENT, 0, 1, .ro, .direct, 0⟩,
  ⟨R.PLL_STATUS_SSC_ACTIVE, 0, 1, .ro, .direct, 0⟩,
  ⟨R.PLL_STATUS_COAST_TIME, 0, 1, .ro, .direct, 0⟩,
  ⟨R.PLL_FLAGS_SSC_REFUSED, 0, 1, .w1c, .direct, 0⟩,
  ⟨R.PLL_FLAGS_DIV_REFUSED, 0, 1, .w1c, .direct, 0⟩,
  ⟨R.PLL_FLAGS_COAST_LIMIT, 0, 1, .w1c, .direct, 0⟩,
  ⟨R.PLL_FLAGS_LOCK_LOST, 0, 1, .w1c, .direct, 0⟩,
  ⟨R.PLL_COUNTS_COASTS, 0, 1, .ro, .direct, 0⟩,
  ⟨R.PLL_COUNTS_RELOCKS, 0, 1, .ro, .direct, 0⟩]

/-- A POD page. Part 0. -/
def podFieldsPart0 : List FieldDef := [
  ⟨R.POD_LINK_CTRL_AUTO_RETRAIN, 0, 1, .rw, .shadow, 1⟩,
  ⟨R.POD_LINK_CTRL_LANE_B_OFF, 0, 1, .rw, .shadow, 0⟩,
  ⟨R.POD_LINK_CTRL_VERSIONS, 0, 1, .rw, .shadow, 3⟩,
  ⟨R.POD_LINK_CTRL_MODE, 0, 1, .rw, .shadow, 0⟩,
  ⟨R.POD_LINK_TIMING_RETRY_MS, 0, 1, .rw, .shadow, 0xA⟩,
  ⟨R.POD_LINK_TIMING_REPLY_US, 0, 1, .rw, .shadow, 0xA⟩,
  ⟨R.POD_LINK_STATUS_STATE, 0, 1, .ro, .direct, 0⟩,
  ⟨R.POD_LINK_STATUS_VERSION, 0, 1, .ro, .direct, 0⟩,
  ⟨R.POD_LINK_STATUS_MODE, 0, 1, .ro, .direct, 0⟩,
  ⟨R.POD_LINK_STATUS_LANE_A_UP, 0, 1, .ro, .direct, 0⟩,
  ⟨R.POD_LINK_STATUS_LANE_B_UP, 0, 1, .ro, .direct, 0⟩,
  ⟨R.POD_LINK_STATUS_SWAPPED, 0, 1, .ro, .direct, 0⟩,
  ⟨R.POD_LINK_STATUS_POD_SET, 0, 1, .ro, .direct, 0⟩,
  ⟨R.POD_SKEW_SKEW, 0, 1, .ro, .direct, 0⟩,
  ⟨R.POD_SYNC_ERR_COUNT 0, 0x4, 2, .w1c, .direct, 0⟩,
  ⟨R.POD_LANE_ERR_LOCK_LOSS 0, 0x4, 2, .w1c, .direct, 0⟩,
  ⟨R.POD_LANE_ERR_SLIP 0, 0x4, 2, .w1c, .direct, 0⟩,
  ⟨R.POD_LANE_ERR_TYPE_ERR 0, 0x4, 2, .w1c, .direct, 0⟩,
  ⟨R.POD_LANE_ERR_BUF_ERR 0, 0x4, 2, .w1c, .direct, 0⟩,
  ⟨R.POD_STATUS_ERR_CRC_ERR, 0, 1, .w1c, .direct, 0⟩,
  ⟨R.POD_STATUS_ERR_STATE_OVER, 0, 1, .w1c, .direct, 0⟩,
  ⟨R.POD_CMD_WORD_WORD, 0, 1, .rw, .direct, 0⟩,
  ⟨R.POD_CMD_CTRL_BUSY, 0, 1, .ro, .direct, 0⟩,
  ⟨R.POD_CMD_CTRL_RESULT, 0, 1, .ro, .direct, 0⟩]

/-- A POD page. Part 1. -/
def podFieldsPart1 : List FieldDef := [
  ⟨R.POD_CMD_CTRL_TALLY, 0, 1, .ro, .direct, 0⟩,
  ⟨R.POD_CMD_CTRL_SEND, 0, 1, .wo, .direct, 0⟩,
  ⟨R.POD_CMD_REPLY_DATA, 0, 1, .ro, .direct, 0⟩,
  ⟨R.POD_CMD_UNSOL_DATA, 0, 1, .ro, .direct, 0⟩]

/-- A POD page. -/
def podFields : List FieldDef := podFieldsPart0 ++ podFieldsPart1

/-- A FRAME page. Part 0. -/
def frameFieldsPart0 : List FieldDef := [
  ⟨R.FRAME_CELL_EN_EN, 0, 1, .rw, .shadow, 0xFFFFFFFF⟩,
  ⟨R.FRAME_CELL_ABSENT_ABSENT, 0, 1, .ro, .direct, 0xFFFFFFFF⟩,
  ⟨R.FRAME_ALIGN_STATUS_VALID_B, 0, 1, .ro, .direct, 0⟩,
  ⟨R.FRAME_ALIGN_STATUS_VALID_A, 0, 1, .ro, .direct, 0⟩,
  ⟨R.FRAME_ALIGN_STATUS_PHASE_B, 0, 1, .ro, .direct, 0⟩,
  ⟨R.FRAME_ALIGN_STATUS_PHASE_A, 0, 1, .ro, .direct, 0⟩,
  ⟨R.FRAME_CELL_LATE_COUNT, 0, 1, .w1c, .direct, 0⟩,
  ⟨R.FRAME_DESKEW_D3 0, 0x4, 8, .rw, .shadow, 0⟩,
  ⟨R.FRAME_DESKEW_D2 0, 0x4, 8, .rw, .shadow, 0⟩,
  ⟨R.FRAME_DESKEW_D1 0, 0x4, 8, .rw, .shadow, 0⟩,
  ⟨R.FRAME_DESKEW_D0 0, 0x4, 8, .rw, .shadow, 0⟩,
  ⟨R.FRAME_DESKEW_REFUSED_REFUSED, 0, 1, .w1c, .direct, 0⟩,
  ⟨R.FRAME_STATE_ERR_MISMATCH, 0, 1, .w1c, .direct, 0⟩,
  ⟨R.FRAME_PW_MASK_MASK 0, 0x20, 8, .rw, .shadow, 0⟩,
  ⟨R.FRAME_PW_VALUE_VALUE 0, 0x20, 8, .rw, .shadow, 0⟩,
  ⟨R.FRAME_PW_EDGE_LO_EDGE 0, 0x20, 8, .rw, .shadow, 0⟩,
  ⟨R.FRAME_PW_EDGE_HI_EDGE 0, 0x20, 8, .rw, .shadow, 0⟩,
  ⟨R.FRAME_PW_CTRL_FRESH 0, 0x20, 8, .rw, .shadow, 0⟩,
  ⟨R.FRAME_PW_CTRL_DUR_BASE 0, 0x20, 8, .rw, .shadow, 0⟩,
  ⟨R.FRAME_PW_CTRL_DUR_MODE 0, 0x20, 8, .rw, .shadow, 0⟩,
  ⟨R.FRAME_PW_CTRL_INVERT 0, 0x20, 8, .rw, .shadow, 0⟩,
  ⟨R.FRAME_PW_CTRL_RANGE_GRP 0, 0x20, 8, .rw, .shadow, 0⟩,
  ⟨R.FRAME_PW_CTRL_RANGE_OP 0, 0x20, 8, .rw, .shadow, 0⟩,
  ⟨R.FRAME_PW_CTRL_EDGE_JOIN 0, 0x20, 8, .rw, .shadow, 0⟩]

/-- A FRAME page. Part 1. -/
def frameFieldsPart1 : List FieldDef := [
  ⟨R.FRAME_PW_DUR_N 0, 0x20, 8, .rw, .shadow, 0⟩,
  ⟨R.FRAME_PW_LO_BOUND 0, 0x20, 8, .rw, .shadow, 0⟩,
  ⟨R.FRAME_PW_HI_BOUND 0, 0x20, 8, .rw, .shadow, 0⟩,
  ⟨R.FRAME_BG_MASK_MASK 0, 0x8, 4, .rw, .shadow, 0⟩,
  ⟨R.FRAME_BG_CTRL_ORDER 0, 0x8, 4, .rw, .shadow, 0⟩,
  ⟨R.FRAME_CNT_CTRL_START_PAUSED 0, 0x20, 4, .rw, .shadow, 0⟩,
  ⟨R.FRAME_CNT_CTRL_MODE 0, 0x20, 4, .rw, .shadow, 0⟩,
  ⟨R.FRAME_CNT_CTRL_INC_KIND 0, 0x20, 4, .rw, .shadow, 0⟩,
  ⟨R.FRAME_CNT_CTRL_INC_WORD 0, 0x20, 4, .rw, .shadow, 0⟩,
  ⟨R.FRAME_CNT_CMP_LO_CMP 0, 0x20, 4, .rw, .shadow, 0xFFFFFFFF⟩,
  ⟨R.FRAME_CNT_CMP_HI_CMP 0, 0x20, 4, .rw, .shadow, 0xFFFF⟩,
  ⟨R.FRAME_CNT_INIT_LO_INIT 0, 0x20, 4, .rw, .shadow, 0⟩,
  ⟨R.FRAME_CNT_INIT_HI_INIT 0, 0x20, 4, .rw, .shadow, 0⟩,
  ⟨R.FRAME_CNT_VAL_LO_VAL 0, 0x20, 4, .ro, .direct, 0⟩,
  ⟨R.FRAME_CNT_VAL_HI_VAL 0, 0x20, 4, .ro, .direct, 0⟩,
  ⟨R.FRAME_TMR_CTRL_MODE 0, 0x20, 4, .rw, .shadow, 0⟩,
  ⟨R.FRAME_TMR_CTRL_STOP_KIND 0, 0x20, 4, .rw, .shadow, 0⟩,
  ⟨R.FRAME_TMR_CTRL_STOP_WORD 0, 0x20, 4, .rw, .shadow, 0⟩,
  ⟨R.FRAME_TMR_CTRL_START_KIND 0, 0x20, 4, .rw, .shadow, 0⟩,
  ⟨R.FRAME_TMR_CTRL_START_WORD 0, 0x20, 4, .rw, .shadow, 0⟩,
  ⟨R.FRAME_TMR_STATUS_RUNNING 0, 0x20, 4, .ro, .direct, 0⟩,
  ⟨R.FRAME_TMR_LIM_LO_LIM 0, 0x20, 4, .rw, .shadow, 0xFFFFFFFF⟩,
  ⟨R.FRAME_TMR_LIM_HI_LIM 0, 0x20, 4, .rw, .shadow, 0xFFFF⟩,
  ⟨R.FRAME_TMR_VAL_LO_VAL 0, 0x20, 4, .ro, .direct, 0⟩]

/-- A FRAME page. Part 2. -/
def frameFieldsPart2 : List FieldDef := [
  ⟨R.FRAME_TMR_VAL_HI_VAL 0, 0x20, 4, .ro, .direct, 0⟩,
  ⟨R.FRAME_FLAGS_RAW, 0, 1, .ro, .direct, 0⟩,
  ⟨R.FRAME_FLAGS_FLAGS, 0, 1, .ro, .direct, 0⟩,
  ⟨R.FRAME_CNT_WRAP_COUNT, 0, 1, .w1c, .direct, 0⟩,
  ⟨R.FRAME_CNT_WRAP_WRAPPED, 0, 1, .w1c, .direct, 0⟩,
  ⟨R.FRAME_CNT_STATUS_PAUSED, 0, 1, .ro, .direct, 0⟩,
  ⟨R.FRAME_STORE_CTRL_QUAL_WORD, 0, 1, .rw, .shadow, 0⟩,
  ⟨R.FRAME_STORE_CTRL_MODE, 0, 1, .rw, .shadow, 1⟩,
  ⟨R.FRAME_STORE_BLOCKS_COUNT, 0, 1, .ro, .direct, 0⟩,
  ⟨R.FRAME_STORE_LOST_COUNT, 0, 1, .ro, .direct, 0⟩]

/-- A FRAME page. -/
def frameFields : List FieldDef := frameFieldsPart0 ++ frameFieldsPart1 ++ frameFieldsPart2

/-- A SCOUT page. -/
def scoutFields : List FieldDef := [
  ⟨R.SCOUT_IN_TERM, 0, 1, .rw, .shadow, 1⟩,
  ⟨R.SCOUT_IN_HYST, 0, 1, .rw, .shadow, 1⟩,
  ⟨R.SCOUT_IN_OFFSET, 0, 1, .rw, .shadow, 0⟩,
  ⟨R.SCOUT_DESKEW_DESKEW, 0, 1, .rw, .shadow, 0⟩,
  ⟨R.SCOUT_TRIG_EDGE, 0, 1, .rw, .shadow, 3⟩,
  ⟨R.SCOUT_BUDGET_BURST, 0, 1, .rw, .shadow, 0x7FF⟩,
  ⟨R.SCOUT_BUDGET_ALLOW, 0, 1, .rw, .shadow, 0x62⟩,
  ⟨R.SCOUT_RESUME_LEVEL, 0, 1, .rw, .shadow, 0x400⟩,
  ⟨R.SCOUT_STATUS_LEVEL, 0, 1, .ro, .direct, 0⟩,
  ⟨R.SCOUT_STATUS_IN_OVERRUN, 0, 1, .ro, .direct, 0⟩,
  ⟨R.SCOUT_STATUS_SETTLING, 0, 1, .ro, .direct, 0⟩,
  ⟨R.SCOUT_STATUS_TOKENS, 0, 1, .ro, .direct, 0⟩,
  ⟨R.SCOUT_OVERRUN_COUNT, 0, 1, .w1c, .direct, 0⟩,
  ⟨R.SCOUT_LOST_COUNT, 0, 1, .w1c, .direct, 0⟩,
  ⟨R.SCOUT_FLAGS_SET_REFUSED, 0, 1, .w1c, .direct, 0⟩]

/-- A super sequencer's SEQ page. Part 0. -/
def seqSFieldsPart0 : List FieldDef := [
  ⟨R.SEQ_CTRL_START_LEVEL, 0, 1, .rw, .shadow, 0⟩,
  ⟨R.SEQ_STATUS_LEVEL, 0, 1, .ro, .direct, 0⟩,
  ⟨R.SEQ_STATUS_RUNNING, 0, 1, .ro, .direct, 0⟩,
  ⟨R.SEQ_STATUS_TOUT, 0, 1, .ro, .direct, 0⟩,
  ⟨R.SEQ_EXIT_COUNT_COUNT, 0, 1, .w1c, .direct, 0⟩,
  ⟨R.SEQ_LAST_FROM, 0, 1, .ro, .direct, 0⟩,
  ⟨R.SEQ_LAST_EXIT, 0, 1, .ro, .direct, 0⟩,
  ⟨R.SEQ_LAST_TO, 0, 1, .ro, .direct, 0⟩,
  ⟨R.SEQ_LAST_ORIGIN_LO_ORIGIN, 0, 1, .ro, .direct, 0⟩,
  ⟨R.SEQ_LAST_ORIGIN_HI_ORIGIN, 0, 1, .ro, .direct, 0⟩,
  ⟨R.SEQ_MARKS_LOST, 0, 1, .w1c, .direct, 0⟩,
  ⟨R.SEQ_MARKS_DEPTH, 0, 1, .ro, .direct, 0⟩,
  ⟨R.SEQ_OPS_TMR3 0, 0x4, 128, .rw, .shadow, 0⟩,
  ⟨R.SEQ_OPS_TMR2 0, 0x4, 128, .rw, .shadow, 0⟩,
  ⟨R.SEQ_OPS_TMR1 0, 0x4, 128, .rw, .shadow, 0⟩,
  ⟨R.SEQ_OPS_TMR0 0, 0x4, 128, .rw, .shadow, 0⟩,
  ⟨R.SEQ_OPS_CNT3 0, 0x4, 128, .rw, .shadow, 0⟩,
  ⟨R.SEQ_OPS_CNT2 0, 0x4, 128, .rw, .shadow, 0⟩,
  ⟨R.SEQ_OPS_CNT1 0, 0x4, 128, .rw, .shadow, 0⟩,
  ⟨R.SEQ_OPS_CNT0 0, 0x4, 128, .rw, .shadow, 0⟩,
  ⟨R.SEQ_TERMS_T3 0, 0x10, 64, .rw, .shadow, 0⟩,
  ⟨R.SEQ_TERMS_T2 0, 0x10, 64, .rw, .shadow, 0⟩,
  ⟨R.SEQ_TERMS_T1 0, 0x10, 64, .rw, .shadow, 0⟩,
  ⟨R.SEQ_TERMS_T0 0, 0x10, 64, .rw, .shadow, 0⟩]

/-- A super sequencer's SEQ page. Part 1. -/
def seqSFieldsPart1 : List FieldDef := [
  ⟨R.SEQ_COND_TT 0, 0x10, 64, .rw, .shadow, 0⟩,
  ⟨R.SEQ_COND_EN 0, 0x10, 64, .rw, .shadow, 0⟩,
  ⟨R.SEQ_COND_NEXT 0, 0x10, 64, .rw, .shadow, 0⟩,
  ⟨R.SEQ_ACT_WF_OP 0, 0x10, 64, .rw, .shadow, 0⟩,
  ⟨R.SEQ_ACT_WF_SEL 0, 0x10, 64, .rw, .shadow, 0⟩,
  ⟨R.SEQ_ACT_OPSET_EN 0, 0x10, 64, .rw, .shadow, 0⟩,
  ⟨R.SEQ_ACT_OPSET 0, 0x10, 64, .rw, .shadow, 0⟩,
  ⟨R.SEQ_ACT_MARK_EN 0, 0x10, 64, .rw, .shadow, 0⟩,
  ⟨R.SEQ_ACT_MARK 0, 0x10, 64, .rw, .shadow, 0⟩,
  ⟨R.SEQ_ACT_EVENT_EN 0, 0x10, 64, .rw, .shadow, 0⟩,
  ⟨R.SEQ_ACT_EVENT 0, 0x10, 64, .rw, .shadow, 0⟩,
  ⟨R.SEQ_ACT_GATE_OP 0, 0x10, 64, .rw, .shadow, 0⟩,
  ⟨R.SEQ_GATE_SCOUT 0, 0x10, 64, .rw, .shadow, 0⟩,
  ⟨R.SEQ_GATE_FRAMES 0, 0x10, 64, .rw, .shadow, 0⟩]

/-- A super sequencer's SEQ page. -/
def seqSFields : List FieldDef := seqSFieldsPart0 ++ seqSFieldsPart1

/-- The hive sequencer's SEQ page. Part 0. -/
def seqHFieldsPart0 : List FieldDef := [
  ⟨R.SEQ_CTRL_START_LEVEL, 0, 1, .rw, .shadow, 0⟩,
  ⟨R.SEQ_FORCE_TRIG, 0, 1, .wo, .direct, 0⟩,
  ⟨R.SEQ_STATUS_LEVEL, 0, 1, .ro, .direct, 0⟩,
  ⟨R.SEQ_STATUS_RUNNING, 0, 1, .ro, .direct, 0⟩,
  ⟨R.SEQ_STATUS_TOUT, 0, 1, .ro, .direct, 0⟩,
  ⟨R.SEQ_EXIT_COUNT_COUNT, 0, 1, .w1c, .direct, 0⟩,
  ⟨R.SEQ_LAST_FROM, 0, 1, .ro, .direct, 0⟩,
  ⟨R.SEQ_LAST_EXIT, 0, 1, .ro, .direct, 0⟩,
  ⟨R.SEQ_LAST_TO, 0, 1, .ro, .direct, 0⟩,
  ⟨R.SEQ_LAST_ORIGIN_LO_ORIGIN, 0, 1, .ro, .direct, 0⟩,
  ⟨R.SEQ_LAST_ORIGIN_HI_ORIGIN, 0, 1, .ro, .direct, 0⟩,
  ⟨R.SEQ_MARKS_LOST, 0, 1, .w1c, .direct, 0⟩,
  ⟨R.SEQ_MARKS_DEPTH, 0, 1, .ro, .direct, 0⟩,
  ⟨R.SEQ_TIN_KIND 0, 0x4, 4, .rw, .shadow, 0⟩,
  ⟨R.SEQ_TOUT_INVERT 0, 0x4, 4, .rw, .shadow, 0⟩,
  ⟨R.SEQ_TOUT_WIDTH 0, 0x4, 4, .rw, .shadow, 1⟩,
  ⟨R.SEQ_HT_CTRL_ONESHOT 0, 0x20, 4, .rw, .shadow, 0⟩,
  ⟨R.SEQ_HT_CTRL_MODE 0, 0x20, 4, .rw, .shadow, 0⟩,
  ⟨R.SEQ_HT_LIM_LO_LIM 0, 0x20, 4, .rw, .shadow, 0xFFFFFFFF⟩,
  ⟨R.SEQ_HT_LIM_HI_LIM 0, 0x20, 4, .rw, .shadow, 0xFFFF⟩,
  ⟨R.SEQ_HT_VAL_LO_VAL 0, 0x20, 4, .ro, .direct, 0⟩,
  ⟨R.SEQ_HT_VAL_HI_VAL 0, 0x20, 4, .ro, .direct, 0⟩,
  ⟨R.SEQ_HT_STATUS_RUNNING 0, 0x20, 4, .ro, .direct, 0⟩,
  ⟨R.SEQ_TRIG_COUNT_COUNT, 0, 1, .ro, .direct, 0⟩]

/-- The hive sequencer's SEQ page. Part 1. -/
def seqHFieldsPart1 : List FieldDef := [
  ⟨R.SEQ_TRIG_TIME_LO_TIME, 0, 1, .ro, .direct, 0⟩,
  ⟨R.SEQ_TRIG_TIME_HI_TIME, 0, 1, .ro, .direct, 0⟩,
  ⟨R.SEQ_TERMS_T3 0, 0x10, 64, .rw, .shadow, 0⟩,
  ⟨R.SEQ_TERMS_T2 0, 0x10, 64, .rw, .shadow, 0⟩,
  ⟨R.SEQ_TERMS_T1 0, 0x10, 64, .rw, .shadow, 0⟩,
  ⟨R.SEQ_TERMS_T0 0, 0x10, 64, .rw, .shadow, 0⟩,
  ⟨R.SEQ_COND_TT 0, 0x10, 64, .rw, .shadow, 0⟩,
  ⟨R.SEQ_COND_EN 0, 0x10, 64, .rw, .shadow, 0⟩,
  ⟨R.SEQ_COND_NEXT 0, 0x10, 64, .rw, .shadow, 0⟩,
  ⟨R.SEQ_HACT_TRIG 0, 0x10, 64, .rw, .shadow, 0⟩,
  ⟨R.SEQ_HACT_WINDOW 0, 0x10, 64, .rw, .shadow, 0⟩,
  ⟨R.SEQ_HACT_TO_OP 0, 0x10, 64, .rw, .shadow, 0⟩,
  ⟨R.SEQ_HACT_TO_SEL 0, 0x10, 64, .rw, .shadow, 0⟩,
  ⟨R.SEQ_HACT_AF_OP 0, 0x10, 64, .rw, .shadow, 0⟩,
  ⟨R.SEQ_HACT_AF_SEL 0, 0x10, 64, .rw, .shadow, 0⟩,
  ⟨R.SEQ_HACT_WI_OP 0, 0x10, 64, .rw, .shadow, 0⟩,
  ⟨R.SEQ_HACT_WI_SEL 0, 0x10, 64, .rw, .shadow, 0⟩,
  ⟨R.SEQ_HACT_MARK_EN 0, 0x10, 64, .rw, .shadow, 0⟩,
  ⟨R.SEQ_HACT_MARK 0, 0x10, 64, .rw, .shadow, 0⟩,
  ⟨R.SEQ_HACT_EVENT_EN 0, 0x10, 64, .rw, .shadow, 0⟩,
  ⟨R.SEQ_HACT_EVENT 0, 0x10, 64, .rw, .shadow, 0⟩,
  ⟨R.SEQ_HTOP_HT3_OP 0, 0x10, 64, .rw, .shadow, 0⟩,
  ⟨R.SEQ_HTOP_HT2_OP 0, 0x10, 64, .rw, .shadow, 0⟩,
  ⟨R.SEQ_HTOP_HT1_OP 0, 0x10, 64, .rw, .shadow, 0⟩]

/-- The hive sequencer's SEQ page. Part 2. -/
def seqHFieldsPart2 : List FieldDef := [
  ⟨R.SEQ_HTOP_HT0_OP 0, 0x10, 64, .rw, .shadow, 0⟩]

/-- The hive sequencer's SEQ page. -/
def seqHFields : List FieldDef := seqHFieldsPart0 ++ seqHFieldsPart1 ++ seqHFieldsPart2

/-- A WAGGLE page. -/
def waggleFields : List FieldDef := [
  ⟨R.WAGGLE_FLAGS_IN, 0, 1, .ro, .direct, 0⟩,
  ⟨R.WAGGLE_FLAGS_OUT, 0, 1, .ro, .direct, 0⟩,
  ⟨R.WAGGLE_LOST_OUT, 0, 1, .w1c, .direct, 0⟩,
  ⟨R.WAGGLE_LOST_IN, 0, 1, .w1c, .direct, 0⟩]

/-- A PRESS page. Part 0. -/
def pressFieldsPart0 : List FieldDef := [
  ⟨R.PRESS_CTRL_TABLE_FORM, 0, 1, .rw, .shadow, 0⟩,
  ⟨R.PRESS_CTRL_S_CODING, 0, 1, .rw, .shadow, 1⟩,
  ⟨R.PRESS_CTRL_F_CODING, 0, 1, .rw, .shadow, 1⟩,
  ⟨R.PRESS_CTRL_S_LEVEL, 0, 1, .rw, .shadow, 2⟩,
  ⟨R.PRESS_CTRL_LEVEL, 0, 1, .rw, .live, 4⟩,
  ⟨R.PRESS_LOSSY_F_EN, 0, 1, .rw, .shadow, 0⟩,
  ⟨R.PRESS_LOSSY_S_EN, 0, 1, .rw, .shadow, 0⟩,
  ⟨R.PRESS_LOSSY_K, 0, 1, .rw, .shadow, 0⟩,
  ⟨R.PRESS_LOSSY_G, 0, 1, .rw, .shadow, 0⟩,
  ⟨R.PRESS_SLIP_HI, 0, 1, .rw, .shadow, 0x100⟩,
  ⟨R.PRESS_SLIP_MID, 0, 1, .rw, .shadow, 0x80⟩,
  ⟨R.PRESS_STATUS_CAP, 0, 1, .ro, .direct, 9⟩,
  ⟨R.PRESS_STATUS_LAST_LEVEL, 0, 1, .ro, .direct, 0⟩,
  ⟨R.PRESS_STATUS_BACKLOG, 0, 1, .ro, .direct, 0⟩,
  ⟨R.PRESS_BACKLOG_MAX_MAX, 0, 1, .ro, .direct, 0⟩,
  ⟨R.PRESS_CODED_COUNT, 0, 1, .ro, .direct, 0⟩,
  ⟨R.PRESS_RAWN_COUNT, 0, 1, .ro, .direct, 0⟩,
  ⟨R.PRESS_RAWV_COUNT, 0, 1, .ro, .direct, 0⟩,
  ⟨R.PRESS_SLIPPED_COUNT, 0, 1, .ro, .direct, 0⟩,
  ⟨R.PRESS_IN_LO_BYTES, 0, 1, .ro, .direct, 0⟩,
  ⟨R.PRESS_IN_HI_BYTES, 0, 1, .ro, .direct, 0⟩,
  ⟨R.PRESS_OUT_LO_BYTES, 0, 1, .ro, .direct, 0⟩,
  ⟨R.PRESS_OUT_HI_BYTES, 0, 1, .ro, .direct, 0⟩,
  ⟨R.PRESS_FLAGS_LOSSY_IGNORED, 0, 1, .w1c, .direct, 0⟩]

/-- A PRESS page. Part 1. -/
def pressFieldsPart1 : List FieldDef := [
  ⟨R.PRESS_FLAGS_SET_REFUSED, 0, 1, .w1c, .direct, 0⟩,
  ⟨R.PRESS_RAWV_AT_STREAM_ID, 0, 1, .ro, .direct, 0⟩,
  ⟨R.PRESS_RAWV_SEQ_SEQ, 0, 1, .ro, .direct, 0⟩,
  ⟨R.PRESS_SELFTEST_FAIL, 0, 1, .ro, .direct, 0⟩]

/-- A PRESS page. -/
def pressFields : List FieldDef := pressFieldsPart0 ++ pressFieldsPart1

/-- A QUEUE page. -/
def queueFields : List FieldDef := [
  ⟨R.QUEUE_INFO_DUAL, 0, 1, .ro, .direct, 0⟩,
  ⟨R.QUEUE_INFO_ENTRY, 0, 1, .ro, .direct, 0⟩,
  ⟨R.QUEUE_INFO_USABLE, 0, 1, .ro, .direct, 0⟩,
  ⟨R.QUEUE_HWM_LEVEL, 0, 1, .rw, .shadow, 0⟩,
  ⟨R.QUEUE_LWM_LEVEL, 0, 1, .rw, .shadow, 0⟩,
  ⟨R.QUEUE_HOLD_MAP_MAP, 0, 1, .rw, .shadow, 0⟩,
  ⟨R.QUEUE_DEPTH_WM, 0, 1, .ro, .direct, 0⟩,
  ⟨R.QUEUE_DEPTH_FULL, 0, 1, .ro, .direct, 0⟩,
  ⟨R.QUEUE_DEPTH_EMPTY, 0, 1, .ro, .direct, 1⟩,
  ⟨R.QUEUE_DEPTH_FORCED, 0, 1, .ro, .direct, 0⟩,
  ⟨R.QUEUE_DEPTH_DEPTH, 0, 1, .ro, .direct, 0⟩,
  ⟨R.QUEUE_PACKETS_COUNT, 0, 1, .ro, .direct, 0⟩,
  ⟨R.QUEUE_PEAK_COUNT, 0, 1, .ro, .direct, 0⟩,
  ⟨R.QUEUE_CROSS_UP_COUNT, 0, 1, .w1c, .direct, 0⟩,
  ⟨R.QUEUE_CROSS_DOWN_COUNT, 0, 1, .w1c, .direct, 0⟩,
  ⟨R.QUEUE_NOTICE_SET_REFUSED, 0, 1, .w1c, .direct, 0⟩,
  ⟨R.QUEUE_NOTICE_DOWN, 0, 1, .w1c, .direct, 0⟩,
  ⟨R.QUEUE_NOTICE_UP, 0, 1, .w1c, .direct, 0⟩,
  ⟨R.QUEUE_FULL_HITS_COUNT, 0, 1, .w1c, .direct, 0⟩,
  ⟨R.QUEUE_UNDERFLOW_COUNT, 0, 1, .w1c, .direct, 0⟩,
  ⟨R.QUEUE_ECC_CORR, 0, 1, .w1c, .direct, 0⟩,
  ⟨R.QUEUE_ECC_UNCORR, 0, 1, .w1c, .direct, 0⟩]

/-- A DRAM page. Part 0. -/
def dramFieldsPart0 : List FieldDef := [
  ⟨R.DRAM_CFG_CAP_GIB, 0, 1, .ro, .direct, 0⟩,
  ⟨R.DRAM_CFG_DENSITY, 0, 1, .ro, .direct, 0⟩,
  ⟨R.DRAM_CFG_RANKS, 0, 1, .ro, .direct, 0⟩,
  ⟨R.DRAM_CFG_GRADE, 0, 1, .ro, .direct, 0⟩,
  ⟨R.DRAM_CFG_DRFM, 0, 1, .ro, .direct, 0⟩,
  ⟨R.DRAM_SCHED_WR_HI, 0, 1, .rw, .shadow, 0x30⟩,
  ⟨R.DRAM_SCHED_WR_LO, 0, 1, .rw, .shadow, 0x10⟩,
  ⟨R.DRAM_PANIC_ON_LEVEL, 0, 1, .rw, .shadow, 0x10000⟩,
  ⟨R.DRAM_PANIC_OFF_LEVEL, 0, 1, .rw, .shadow, 0x8000⟩,
  ⟨R.DRAM_PANIC_STAT_PANIC, 0, 1, .ro, .direct, 0⟩,
  ⟨R.DRAM_PANIC_STAT_ENTRIES, 0, 1, .w1c, .direct, 0⟩,
  ⟨R.DRAM_PANIC_US_TIME, 0, 1, .w1c, .direct, 0⟩,
  ⟨R.DRAM_REF_STATUS_HOT, 0, 1, .ro, .direct, 1⟩,
  ⟨R.DRAM_REF_STATUS_ASSUMED, 0, 1, .ro, .direct, 1⟩,
  ⟨R.DRAM_REF_STATUS_OWED, 0, 1, .ro, .direct, 0⟩,
  ⟨R.DRAM_REF_STATUS_MR4, 0, 1, .ro, .direct, 0⟩,
  ⟨R.DRAM_REF_STATUS_INTERVAL, 0, 1, .ro, .direct, 0xC10⟩,
  ⟨R.DRAM_REF_COUNT_FORCED, 0, 1, .w1c, .direct, 0⟩,
  ⟨R.DRAM_REF_COUNT_POSTPONED, 0, 1, .w1c, .direct, 0⟩,
  ⟨R.DRAM_PD_PD_EN, 0, 1, .rw, .shadow, 1⟩,
  ⟨R.DRAM_PD_PD_TIMER, 0, 1, .rw, .shadow, 0x400⟩,
  ⟨R.DRAM_SR_SR_EN, 0, 1, .rw, .shadow, 1⟩,
  ⟨R.DRAM_SR_IDLE_US, 0, 1, .rw, .shadow, 0x64⟩,
  ⟨R.DRAM_LTR_HOSTWIN_US, 0, 1, .rw, .direct, 0xA⟩]

/-- A DRAM page. Part 1. -/
def dramFieldsPart1 : List FieldDef := [
  ⟨R.DRAM_LTR_STATUS_SR, 0, 1, .ro, .direct, 0⟩,
  ⟨R.DRAM_LTR_STATUS_BLK_TAKE, 0, 1, .ro, .direct, 0⟩,
  ⟨R.DRAM_LTR_STATUS_BLK_LTR, 0, 1, .ro, .direct, 0⟩,
  ⟨R.DRAM_LTR_STATUS_BLK_OTHER, 0, 1, .ro, .direct, 0⟩,
  ⟨R.DRAM_LTR_STATUS_MIN_US, 0, 1, .ro, .direct, 0xFFFF⟩,
  ⟨R.DRAM_ACT_CTRL_WIN_US, 0, 1, .rw, .shadow, 8⟩,
  ⟨R.DRAM_ACT_CTRL_MAX, 0, 1, .rw, .shadow, 0x40⟩,
  ⟨R.DRAM_ACT_HELD_DR, 0, 1, .w1c, .direct, 0⟩,
  ⟨R.DRAM_ACT_HELD_NB, 0, 1, .w1c, .direct, 0⟩,
  ⟨R.DRAM_ACT_HELD_HW, 0, 1, .w1c, .direct, 0⟩,
  ⟨R.DRAM_ACT_HELD_SC, 0, 1, .w1c, .direct, 0⟩,
  ⟨R.DRAM_RH_CTRL_USE_DRFM, 0, 1, .rw, .shadow, 1⟩,
  ⟨R.DRAM_RH_CTRL_THRESH, 0, 1, .rw, .shadow, 0x400⟩,
  ⟨R.DRAM_RH_COUNT_DRFM, 0, 1, .w1c, .direct, 0⟩,
  ⟨R.DRAM_RH_COUNT_RFM, 0, 1, .w1c, .direct, 0⟩,
  ⟨R.DRAM_SCRUB_EN, 0, 1, .rw, .shadow, 1⟩,
  ⟨R.DRAM_SCRUB_PACE, 0, 1, .rw, .shadow, 8⟩,
  ⟨R.DRAM_KNOBS_SCRUB_PAUSED, 0, 1, .ro, .direct, 0⟩,
  ⟨R.DRAM_KNOBS_RT_PACE, 0, 1, .ro, .direct, 0⟩,
  ⟨R.DRAM_KNOBS_DRAIN_PACE, 0, 1, .ro, .direct, 0⟩,
  ⟨R.DRAM_QUEUES_WQ_B, 0, 1, .ro, .direct, 0⟩,
  ⟨R.DRAM_QUEUES_RQ_B, 0, 1, .ro, .direct, 0⟩,
  ⟨R.DRAM_QUEUES_WQ_A, 0, 1, .ro, .direct, 0⟩,
  ⟨R.DRAM_QUEUES_RQ_A, 0, 1, .ro, .direct, 0⟩]

/-- A DRAM page. Part 2. -/
def dramFieldsPart2 : List FieldDef := [
  ⟨R.DRAM_FLAGS_SET_REFUSED, 0, 1, .w1c, .direct, 0⟩,
  ⟨R.DRAM_TRAIN_CTRL_RETRAIN, 0, 1, .wo, .direct, 0⟩,
  ⟨R.DRAM_TRAIN_CTRL_RETRAIN_REFUSED, 0, 1, .w1c, .direct, 0⟩,
  ⟨R.DRAM_TRAIN_CTRL_FALLBACK, 0, 1, .rw, .shadow, 1⟩,
  ⟨R.DRAM_TRAIN_CTRL_MAX_GRADE, 0, 1, .rw, .shadow, 3⟩,
  ⟨R.DRAM_TRAIN_PERIOD_PERIOD_MS, 0, 1, .rw, .shadow, 0x100⟩,
  ⟨R.DRAM_TRAIN_STATUS_STATE, 0, 1, .ro, .direct, 0⟩,
  ⟨R.DRAM_TRAIN_STATUS_STEP, 0, 1, .ro, .direct, 0⟩,
  ⟨R.DRAM_TRAIN_STATUS_TRIES, 0, 1, .ro, .direct, 0⟩,
  ⟨R.DRAM_TRAIN_STATUS_PERIODIC, 0, 1, .ro, .direct, 0⟩,
  ⟨R.DRAM_TRAIN_STATUS_REMAP, 0, 1, .ro, .direct, 0⟩,
  ⟨R.DRAM_TRAIN_COUNT_PERIODIC, 0, 1, .ro, .direct, 0⟩,
  ⟨R.DRAM_TRAIN_COUNT_ABANDONED, 0, 1, .w1c, .direct, 0⟩,
  ⟨R.DRAM_TRAIN_COUNT_NO_SETTING, 0, 1, .w1c, .direct, 0⟩,
  ⟨R.DRAM_EYE_READ_MIN, 0, 1, .ro, .direct, 0⟩,
  ⟨R.DRAM_EYE_WRITE_MIN, 0, 1, .ro, .direct, 0⟩,
  ⟨R.DRAM_ECC_CTRL_LOG_CE, 0, 1, .rw, .shadow, 1⟩,
  ⟨R.DRAM_ECC_CTRL_UE_LIMIT, 0, 1, .rw, .shadow, 0x10⟩,
  ⟨R.DRAM_ECC_CE_COUNT, 0, 1, .w1c, .direct, 0⟩,
  ⟨R.DRAM_ECC_UE_COUNT, 0, 1, .w1c, .direct, 0⟩,
  ⟨R.DRAM_ECC_POISON_COUNT, 0, 1, .w1c, .direct, 0⟩,
  ⟨R.DRAM_CA_REPLAYS, 0, 1, .w1c, .direct, 0⟩,
  ⟨R.DRAM_CA_FAILED_REPLAYS, 0, 1, .w1c, .direct, 0⟩,
  ⟨R.DRAM_FAIL_CAUSE, 0, 1, .ro, .direct, 0⟩]

/-- A DRAM page. Part 3. -/
def dramFieldsPart3 : List FieldDef := [
  ⟨R.DRAM_FAIL_TIME_LO_TIME, 0, 1, .ro, .direct, 0⟩,
  ⟨R.DRAM_FAIL_TIME_HI_TIME, 0, 1, .ro, .direct, 0⟩,
  ⟨R.DRAM_ECC_LOG_HEAD_WRITTEN, 0, 1, .ro, .direct, 0⟩,
  ⟨R.DRAM_ECC_LOG_INFO_KIND 0, 0x10, 8, .ro, .direct, 0⟩,
  ⟨R.DRAM_ECC_LOG_INFO_PORT 0, 0x10, 8, .ro, .direct, 0⟩,
  ⟨R.DRAM_ECC_LOG_INFO_SUB 0, 0x10, 8, .ro, .direct, 0⟩,
  ⟨R.DRAM_ECC_LOG_INFO_RANK 0, 0x10, 8, .ro, .direct, 0⟩,
  ⟨R.DRAM_ECC_LOG_INFO_BG 0, 0x10, 8, .ro, .direct, 0⟩,
  ⟨R.DRAM_ECC_LOG_INFO_BANK 0, 0x10, 8, .ro, .direct, 0⟩,
  ⟨R.DRAM_ECC_LOG_INFO_BIT 0, 0x10, 8, .ro, .direct, 0⟩,
  ⟨R.DRAM_ECC_LOG_ADDR_ROW 0, 0x10, 8, .ro, .direct, 0⟩,
  ⟨R.DRAM_ECC_LOG_ADDR_WORD 0, 0x10, 8, .ro, .direct, 0⟩,
  ⟨R.DRAM_ECC_LOG_ADDR_COLUMN 0, 0x10, 8, .ro, .direct, 0⟩,
  ⟨R.DRAM_ECC_LOG_TIME_LO_TIME 0, 0x10, 8, .ro, .direct, 0⟩,
  ⟨R.DRAM_ECC_LOG_TIME_HI_TIME 0, 0x10, 8, .ro, .direct, 0⟩]

/-- A DRAM page. -/
def dramFields : List FieldDef := dramFieldsPart0 ++ dramFieldsPart1 ++ dramFieldsPart2 ++ dramFieldsPart3

/-- An SRAM page. Part 0. -/
def sramFieldsPart0 : List FieldDef := [
  ⟨R.SRAM_MARCH_CTRL_START, 0, 1, .wo, .direct, 0⟩,
  ⟨R.SRAM_MARCH_CTRL_START_REFUSED, 0, 1, .w1c, .direct, 0⟩,
  ⟨R.SRAM_MARCH_CTRL_BOOT, 0, 1, .rw, .direct, 0⟩,
  ⟨R.SRAM_MARCH_CTRL_MODE, 0, 1, .rw, .direct, 0⟩,
  ⟨R.SRAM_MARCH_CTRL_TARGET, 0, 1, .rw, .direct, 0⟩,
  ⟨R.SRAM_MARCH_STATUS_STATE, 0, 1, .ro, .direct, 0⟩,
  ⟨R.SRAM_MARCH_STATUS_BACKGROUND, 0, 1, .ro, .direct, 0⟩,
  ⟨R.SRAM_MARCH_STATUS_MEMORY, 0, 1, .ro, .direct, 0⟩,
  ⟨R.SRAM_MARCH_STATUS_WORD, 0, 1, .ro, .direct, 0⟩,
  ⟨R.SRAM_MARCH_FAIL_LINES, 0, 1, .ro, .direct, 0⟩,
  ⟨R.SRAM_MARCH_FAIL_UNREPAIRED, 0, 1, .ro, .direct, 0⟩,
  ⟨R.SRAM_MARCH_FAIL_MEMORY, 0, 1, .ro, .direct, 0⟩,
  ⟨R.SRAM_MARCH_FAIL_LINE, 0, 1, .ro, .direct, 0⟩,
  ⟨R.SRAM_MARCH_WEAK_COUNT, 0, 1, .ro, .direct, 0⟩,
  ⟨R.SRAM_REPAIR_MEMORIES, 0, 1, .ro, .direct, 0⟩,
  ⟨R.SRAM_UNREPAIRED_MEMORIES, 0, 1, .ro, .direct, 0⟩,
  ⟨R.SRAM_ECC_CE, 0, 1, .w1c, .direct, 0⟩,
  ⟨R.SRAM_ECC_UE, 0, 1, .w1c, .direct, 0⟩,
  ⟨R.SRAM_ECC_LAST_KIND, 0, 1, .ro, .direct, 0⟩,
  ⟨R.SRAM_ECC_LAST_MASTER, 0, 1, .ro, .direct, 0⟩,
  ⟨R.SRAM_ECC_LAST_MEMORY, 0, 1, .ro, .direct, 0⟩,
  ⟨R.SRAM_ECC_LAST_WORD, 0, 1, .ro, .direct, 0⟩,
  ⟨R.SRAM_ECC_LAST_LINE, 0, 1, .ro, .direct, 0⟩,
  ⟨R.SRAM_CONFLICT_COUNT 0, 0x4, 6, .w1c, .direct, 0⟩]

/-- An SRAM page. Part 1. -/
def sramFieldsPart1 : List FieldDef := [
  ⟨R.SRAM_WIN_REFUSED, 0, 1, .w1c, .direct, 0⟩]

/-- An SRAM page. -/
def sramFields : List FieldDef := sramFieldsPart0 ++ sramFieldsPart1

/-- The HOST page. Part 0. -/
def hostFieldsPart0 : List FieldDef := [
  ⟨R.HOST_LINK_UP, 0, 1, .ro, .direct, 0⟩,
  ⟨R.HOST_LINK_FLIT, 0, 1, .ro, .direct, 0⟩,
  ⟨R.HOST_LINK_SPEED, 0, 1, .ro, .direct, 0⟩,
  ⟨R.HOST_LINK_WIDTH, 0, 1, .ro, .direct, 0⟩,
  ⟨R.HOST_LINK_REVERSED, 0, 1, .ro, .direct, 0⟩,
  ⟨R.HOST_LINK_COUNT_DOWNS, 0, 1, .w1c, .direct, 0⟩,
  ⟨R.HOST_LINK_COUNT_RETRAINS, 0, 1, .w1c, .direct, 0⟩,
  ⟨R.HOST_HIF_ACTIVE_MAJOR, 0, 1, .ro, .direct, 0⟩,
  ⟨R.HOST_HIF_ACTIVE_MINOR, 0, 1, .ro, .direct, 0⟩,
  ⟨R.HOST_HIF_REQ_MAJOR, 0, 1, .rw, .direct, 0⟩,
  ⟨R.HOST_HIF_SUP_HIF3, 0, 1, .ro, .direct, 1⟩,
  ⟨R.HOST_HIF_SUP_HIF2, 0, 1, .ro, .direct, 1⟩,
  ⟨R.HOST_BAR2_BASE_LO_BASE, 0, 1, .rw, .direct, 0⟩,
  ⟨R.HOST_BAR2_BASE_HI_BASE, 0, 1, .rw, .direct, 0⟩,
  ⟨R.HOST_RING_CTRL_QUIESCED, 0, 1, .ro, .direct, 1⟩,
  ⟨R.HOST_RING_CTRL_EN_REFUSED, 0, 1, .w1c, .direct, 0⟩,
  ⟨R.HOST_RING_CTRL_DRN_HALT, 0, 1, .ro, .direct, 0⟩,
  ⟨R.HOST_RING_CTRL_CMD_HALT, 0, 1, .ro, .direct, 0⟩,
  ⟨R.HOST_RING_CTRL_CPL_EN, 0, 1, .rw, .direct, 0⟩,
  ⟨R.HOST_RING_CTRL_DRN_EN, 0, 1, .rw, .direct, 0⟩,
  ⟨R.HOST_RING_CTRL_CMD_EN, 0, 1, .rw, .direct, 0⟩,
  ⟨R.HOST_HALT_CMD_REASON, 0, 1, .ro, .direct, 0⟩,
  ⟨R.HOST_HALT_DRN_REASON, 0, 1, .ro, .direct, 0⟩,
  ⟨R.HOST_CMD_BASE_LO_BASE, 0, 1, .rw, .direct, 0⟩]

/-- The HOST page. Part 1. -/
def hostFieldsPart1 : List FieldDef := [
  ⟨R.HOST_CMD_BASE_HI_BASE, 0, 1, .rw, .direct, 0⟩,
  ⟨R.HOST_DRN_BASE_LO_BASE, 0, 1, .rw, .direct, 0⟩,
  ⟨R.HOST_DRN_BASE_HI_BASE, 0, 1, .rw, .direct, 0⟩,
  ⟨R.HOST_CPL_BASE_LO_BASE, 0, 1, .rw, .direct, 0⟩,
  ⟨R.HOST_CPL_BASE_HI_BASE, 0, 1, .rw, .direct, 0⟩,
  ⟨R.HOST_CMD_SIZE_LOG2, 0, 1, .rw, .direct, 6⟩,
  ⟨R.HOST_DRN_SIZE_LOG2, 0, 1, .rw, .direct, 6⟩,
  ⟨R.HOST_CPL_SIZE_LOG2, 0, 1, .rw, .direct, 6⟩,
  ⟨R.HOST_CMD_POSTED_TALLY, 0, 1, .rw, .direct, 0⟩,
  ⟨R.HOST_CMD_ACCEPTED_TALLY, 0, 1, .ro, .direct, 0⟩,
  ⟨R.HOST_CMD_DONE_TALLY, 0, 1, .ro, .direct, 0⟩,
  ⟨R.HOST_DRN_POSTED_TALLY, 0, 1, .rw, .direct, 0⟩,
  ⟨R.HOST_DRN_ACCEPTED_TALLY, 0, 1, .ro, .direct, 0⟩,
  ⟨R.HOST_DRN_DONE_TALLY, 0, 1, .ro, .direct, 0⟩,
  ⟨R.HOST_CPL_PRODUCED_SEQ, 0, 1, .ro, .direct, 0⟩,
  ⟨R.HOST_CPL_FREED_SEQ, 0, 1, .rw, .direct, 0⟩,
  ⟨R.HOST_EVT_PRODUCED_SEQ, 0, 1, .ro, .direct, 0⟩,
  ⟨R.HOST_RESETS_FLR, 0, 1, .w1c, .direct, 0⟩,
  ⟨R.HOST_RESETS_LINK, 0, 1, .w1c, .direct, 0⟩,
  ⟨R.HOST_BAD_BAR0, 0, 1, .w1c, .direct, 0⟩,
  ⟨R.HOST_BAD_BAR2, 0, 1, .w1c, .direct, 0⟩,
  ⟨R.HOST_DRN_BUSY_SUPERS, 0, 1, .ro, .direct, 0⟩,
  ⟨R.HOST_DRN_LAST_TALLY, 0, 1, .ro, .direct, 0⟩,
  ⟨R.HOST_CPL_ECHO_WORD 0, 0x4, 64, .ro, .direct, 0⟩]

/-- The HOST page. Part 2. -/
def hostFieldsPart2 : List FieldDef := [
  ⟨R.MSIX_ADDR_LO 0, 16, 64, .rw, .direct, 0⟩,
  ⟨R.MSIX_ADDR_HI 0, 16, 64, .rw, .direct, 0⟩,
  ⟨R.MSIX_DATA 0, 16, 64, .rw, .direct, 0⟩,
  ⟨R.MSIX_MASK 0, 16, 64, .rw, .direct, 1⟩,
  ⟨R.MSIX_PBA 0, 4, 2, .ro, .direct, 0⟩]

/-- The HOST page. -/
def hostFields : List FieldDef := hostFieldsPart0 ++ hostFieldsPart1 ++ hostFieldsPart2

/-- The EVENTS page. -/
def eventsFields : List FieldDef := [
  ⟨R.EVENTS_RING_BASE_LO_BASE, 0, 1, .rw, .direct, 0⟩,
  ⟨R.EVENTS_RING_BASE_HI_BASE, 0, 1, .rw, .direct, 0⟩,
  ⟨R.EVENTS_RING_SIZE_LOG2, 0, 1, .rw, .direct, 6⟩,
  ⟨R.EVENTS_RING_CTRL_EN_REFUSED, 0, 1, .w1c, .direct, 0⟩,
  ⟨R.EVENTS_RING_CTRL_EN, 0, 1, .rw, .direct, 0⟩,
  ⟨R.EVENTS_FREED_TALLY, 0, 1, .rw, .direct, 0⟩,
  ⟨R.EVENTS_WRITTEN_TALLY, 0, 1, .ro, .direct, 0⟩,
  ⟨R.EVENTS_LOST_COUNT, 0, 1, .w1c, .direct, 0⟩,
  ⟨R.EVENTS_COALESCE_HOLDOFF_US, 0, 1, .rw, .direct, 0x64⟩,
  ⟨R.EVENTS_IRQ_MOD_MIN_US, 0, 1, .rw, .direct, 0⟩,
  ⟨R.EVENTS_GROUP_RECORD 0, 0x4, 56, .rw, .direct, 0⟩,
  ⟨R.EVENTS_GROUP_VECTOR 0, 0x4, 56, .rw, .direct, 0⟩,
  ⟨R.EVENTS_LINK_RAW_BITS, 0, 1, .ro, .direct, 0⟩,
  ⟨R.EVENTS_LINK_STICKY_BITS, 0, 1, .w1c, .direct, 0⟩,
  ⟨R.EVENTS_LINK_ENABLE_BITS, 0, 1, .rw, .direct, 0⟩,
  ⟨R.EVENTS_LINK_FORCE_BITS, 0, 1, .wo, .direct, 0⟩,
  ⟨R.EVENTS_LINK_COUNT_HI 0, 0x4, 15, .w1c, .direct, 0⟩,
  ⟨R.EVENTS_LINK_COUNT_LO 0, 0x4, 15, .w1c, .direct, 0⟩]

/-- The RING page. Part 0. -/
def ringFieldsPart0 : List FieldDef := [
  ⟨R.RING_CTRL_BYPASS, 0, 1, .rw, .direct, 0⟩,
  ⟨R.RING_CTRL_VERSIONS, 0, 1, .rw, .shadow, 3⟩,
  ⟨R.RING_CTRL_PRIORITY, 0, 1, .rw, .shadow, 0x80⟩,
  ⟨R.RING_CTRL_LEADER_OK, 0, 1, .rw, .shadow, 1⟩,
  ⟨R.RING_AF_DELAY_BEATS, 0, 1, .rw, .shadow, 0⟩,
  ⟨R.RING_STATUS_STATE, 0, 1, .ro, .direct, 1⟩,
  ⟨R.RING_STATUS_LEADER, 0, 1, .ro, .direct, 0⟩,
  ⟨R.RING_STATUS_POSITION, 0, 1, .ro, .direct, 0⟩,
  ⟨R.RING_STATUS_HIVES, 0, 1, .ro, .direct, 0⟩,
  ⟨R.RING_STATUS_AF_DELAY, 0, 1, .ro, .direct, 0⟩,
  ⟨R.RING_HOP_UP 0, 0x4, 2, .ro, .direct, 0⟩,
  ⟨R.RING_HOP_VERSION 0, 0x4, 2, .ro, .direct, 0⟩,
  ⟨R.RING_HOP_CAUSE 0, 0x4, 2, .ro, .direct, 0⟩,
  ⟨R.RING_HOP_DELAY 0, 0x4, 2, .ro, .direct, 0⟩,
  ⟨R.RING_LOOP_K, 0, 1, .ro, .direct, 0⟩,
  ⟨R.RING_LOOP_LOOP_NS, 0, 1, .ro, .direct, 0⟩,
  ⟨R.RING_TIME_OFFSET_OUT_OF_STEP, 0, 1, .ro, .direct, 0⟩,
  ⟨R.RING_TIME_OFFSET_OFFSET, 0, 1, .ro, .direct, 0⟩,
  ⟨R.RING_AF_STATE_OWN, 0, 1, .ro, .direct, 0⟩,
  ⟨R.RING_AF_STATE_VALUE, 0, 1, .ro, .direct, 0⟩,
  ⟨R.RING_UID_LO_UID, 0, 1, .ro, .direct, 0⟩,
  ⟨R.RING_UID_HI_PRIORITY, 0, 1, .ro, .direct, 0⟩,
  ⟨R.RING_UID_HI_UID, 0, 1, .ro, .direct, 0⟩,
  ⟨R.RING_LEADER_LO_UID, 0, 1, .ro, .direct, 0⟩]

/-- The RING page. Part 1. -/
def ringFieldsPart1 : List FieldDef := [
  ⟨R.RING_LEADER_HI_PRIORITY, 0, 1, .ro, .direct, 0⟩,
  ⟨R.RING_LEADER_HI_UID, 0, 1, .ro, .direct, 0⟩,
  ⟨R.RING_LOST_A, 0, 1, .w1c, .direct, 0⟩,
  ⟨R.RING_LOST_B, 0, 1, .w1c, .direct, 0⟩,
  ⟨R.RING_FLAG_COUNTS_STALE, 0, 1, .w1c, .direct, 0⟩,
  ⟨R.RING_FLAG_COUNTS_LATE, 0, 1, .w1c, .direct, 0⟩,
  ⟨R.RING_FLAG_COUNTS_GAP, 0, 1, .w1c, .direct, 0⟩,
  ⟨R.RING_EPOCH_GO, 0, 1, .wo, .direct, 0⟩,
  ⟨R.RING_EPOCH_REFUSED, 0, 1, .w1c, .direct, 0⟩,
  ⟨R.RING_EPOCH_COUNT, 0, 1, .ro, .direct, 0⟩,
  ⟨R.RING_MAIL_OUT_SEND, 0, 1, .wo, .direct, 0⟩,
  ⟨R.RING_MAIL_OUT_BUSY, 0, 1, .ro, .direct, 0⟩,
  ⟨R.RING_MAIL_OUT_TO, 0, 1, .rw, .direct, 0⟩,
  ⟨R.RING_MAIL_OUT_ARG_HI, 0, 1, .rw, .direct, 0⟩,
  ⟨R.RING_MAIL_OUT_ARG_ARG, 0, 1, .rw, .direct, 0⟩,
  ⟨R.RING_MAIL_IN_VALID, 0, 1, .w1c, .direct, 0⟩,
  ⟨R.RING_MAIL_IN_FROM, 0, 1, .ro, .direct, 0⟩,
  ⟨R.RING_MAIL_IN_ARG_HI, 0, 1, .ro, .direct, 0⟩,
  ⟨R.RING_MAIL_IN_ARG_ARG, 0, 1, .ro, .direct, 0⟩]

/-- The RING page. -/
def ringFields : List FieldDef := ringFieldsPart0 ++ ringFieldsPart1

/-- The REEVE page. Part 0. -/
def reeveFieldsPart0 : List FieldDef := [
  ⟨R.REEVE_SUSTAIN_QW, 0, 1, .rw, .direct, 0⟩,
  ⟨R.REEVE_RESERVE_RESERVE_J, 0, 1, .rw, .direct, 0x7D0⟩,
  ⟨R.REEVE_POLICY_SHED, 0, 1, .rw, .shadow, 0⟩,
  ⟨R.REEVE_RUN_MS_RUN_MS, 0, 1, .rw, .shadow, 0⟩,
  ⟨R.REEVE_SHED_DRAIN_GBPS, 0, 1, .rw, .direct, 0x10⟩,
  ⟨R.REEVE_SHED_RT_GBPS, 0, 1, .rw, .direct, 0x80⟩,
  ⟨R.REEVE_RECOVER_RECOVER_J, 0, 1, .rw, .direct, 0x7D⟩,
  ⟨R.REEVE_STATUS_HISTORY_OK, 0, 1, .ro, .direct, 0⟩,
  ⟨R.REEVE_STATUS_PRESSED, 0, 1, .ro, .direct, 0⟩,
  ⟨R.REEVE_STATUS_THROTTLED, 0, 1, .ro, .direct, 0⟩,
  ⟨R.REEVE_STATUS_NEAR_LIMIT, 0, 1, .ro, .direct, 0⟩,
  ⟨R.REEVE_STATUS_STEP, 0, 1, .ro, .direct, 0⟩,
  ⟨R.REEVE_STATUS_POWER_STOP, 0, 1, .ro, .direct, 0⟩,
  ⟨R.REEVE_STATUS_RUN, 0, 1, .ro, .direct, 0⟩,
  ⟨R.REEVE_RES_NOW_E_MJ, 0, 1, .ro, .direct, 0x1E8480⟩,
  ⟨R.REEVE_PLAN_REFUSED, 0, 1, .ro, .direct, 0⟩,
  ⟨R.REEVE_PLAN_PEAK_USED, 0, 1, .ro, .direct, 0⟩,
  ⟨R.REEVE_PLAN_PLAN, 0, 1, .ro, .direct, 0⟩,
  ⟨R.REEVE_LEARN_LEARN, 0, 1, .ro, .direct, 0x100⟩,
  ⟨R.REEVE_TEMP_SUPER, 0, 1, .ro, .direct, 0⟩,
  ⟨R.REEVE_TEMP_TJ, 0, 1, .ro, .direct, 0⟩,
  ⟨R.REEVE_WEAR_CFG_BUDGET_S, 0, 1, .rw, .direct, 0xE10⟩,
  ⟨R.REEVE_WEAR_LOST, 0, 1, .ro, .direct, 1⟩,
  ⟨R.REEVE_WEAR_SPENT, 0, 1, .ro, .direct, 0⟩]

/-- The REEVE page. Part 1. -/
def reeveFieldsPart1 : List FieldDef := [
  ⟨R.REEVE_WEAR_SECONDS, 0, 1, .ro, .direct, 0⟩,
  ⟨R.REEVE_WEAR_LOAD_SECONDS, 0, 1, .wo, .direct, 0⟩,
  ⟨R.REEVE_TRAIN_GRANTED, 0, 1, .ro, .direct, 0⟩,
  ⟨R.REEVE_TRAIN_WAITED, 0, 1, .w1c, .direct, 0⟩,
  ⟨R.REEVE_SHARED_MEAS, 0, 1, .ro, .direct, 0⟩,
  ⟨R.REEVE_SHARED_GRANT, 0, 1, .ro, .direct, 0⟩,
  ⟨R.REEVE_GRANT_MEAS 0, 0x4, 8, .ro, .direct, 0⟩,
  ⟨R.REEVE_GRANT_GRANT 0, 0x4, 8, .ro, .direct, 0⟩,
  ⟨R.REEVE_COST_PEAK 0, 0x4, 11, .ro, .direct, 0⟩,
  ⟨R.REEVE_COST_TYPICAL 0, 0x4, 11, .ro, .direct, 0⟩]

/-- The REEVE page. -/
def reeveFields : List FieldDef := reeveFieldsPart0 ++ reeveFieldsPart1

/-- The IVR page. -/
def ivrFields : List FieldDef := [
  ⟨R.IVR_VIN_VALUE, 0, 1, .ro, .direct, 0⟩,
  ⟨R.IVR_IIN_VALUE, 0, 1, .ro, .direct, 0⟩,
  ⟨R.IVR_PIN_VALUE, 0, 1, .ro, .direct, 0⟩,
  ⟨R.IVR_ILIM_AMPS, 0, 1, .rw, .direct, 0x50⟩,
  ⟨R.IVR_RAILS_SUPER, 0, 1, .ro, .direct, 0⟩,
  ⟨R.IVR_RAILS_VAON_VSTBY, 0, 1, .ro, .direct, 0⟩,
  ⟨R.IVR_RAILS_VIO, 0, 1, .ro, .direct, 0⟩,
  ⟨R.IVR_RAILS_VHOST, 0, 1, .ro, .direct, 0⟩,
  ⟨R.IVR_RAILS_VAON, 0, 1, .ro, .direct, 0⟩,
  ⟨R.IVR_RAILS_S7_S7, 0, 1, .ro, .direct, 0⟩,
  ⟨R.IVR_PHASE_DROPPED, 0, 1, .w1c, .direct, 0⟩]

/-- The BOARD page. Part 0. -/
def boardFieldsPart0 : List FieldDef := [
  ⟨R.BOARD_OUT_RATE, 0, 1, .rw, .shadow, 3⟩,
  ⟨R.BOARD_OUT_LANES, 0, 1, .rw, .shadow, 1⟩,
  ⟨R.BOARD_OUT_B_EN, 0, 1, .rw, .shadow, 0⟩,
  ⟨R.BOARD_OUT_A_EN, 0, 1, .rw, .shadow, 0⟩,
  ⟨R.BOARD_HTIM_TOTAL, 0, 1, .rw, .shadow, 0x898⟩,
  ⟨R.BOARD_HTIM_ACTIVE, 0, 1, .rw, .shadow, 0x780⟩,
  ⟨R.BOARD_VTIM_TOTAL, 0, 1, .rw, .shadow, 0x465⟩,
  ⟨R.BOARD_VTIM_ACTIVE, 0, 1, .rw, .shadow, 0x438⟩,
  ⟨R.BOARD_HSYNC_POL, 0, 1, .rw, .shadow, 1⟩,
  ⟨R.BOARD_HSYNC_START, 0, 1, .rw, .shadow, 0x58⟩,
  ⟨R.BOARD_HSYNC_WIDTH, 0, 1, .rw, .shadow, 0x2C⟩,
  ⟨R.BOARD_VSYNC_POL, 0, 1, .rw, .shadow, 1⟩,
  ⟨R.BOARD_VSYNC_START, 0, 1, .rw, .shadow, 4⟩,
  ⟨R.BOARD_VSYNC_WIDTH, 0, 1, .rw, .shadow, 5⟩,
  ⟨R.BOARD_VPLL_P, 0, 1, .rw, .shadow, 0x10⟩,
  ⟨R.BOARD_VPLL_M, 0, 1, .rw, .shadow, 0x19⟩,
  ⟨R.BOARD_VPLL_N, 0, 1, .rw, .shadow, 0x252⟩,
  ⟨R.BOARD_FB_SLOT_SLOT, 0, 1, .rw, .shadow, 0⟩,
  ⟨R.BOARD_FB_FMT_FORMAT, 0, 1, .rw, .shadow, 0⟩,
  ⟨R.BOARD_FB_FMT_STRIDE, 0, 1, .rw, .shadow, 0x1E⟩,
  ⟨R.BOARD_BG_RGB, 0, 1, .rw, .shadow, 0⟩,
  ⟨R.BOARD_PAINT_COL_RGB 0, 0x4, 4, .rw, .shadow, 0⟩,
  ⟨R.BOARD_REFRESH_LOWER_EN, 0, 1, .rw, .shadow, 0⟩,
  ⟨R.BOARD_REFRESH_FLOOR_HZ, 0, 1, .rw, .shadow, 0x14⟩]

/-- The BOARD page. Part 1. -/
def boardFieldsPart1 : List FieldDef := [
  ⟨R.BOARD_REFRESH_N_FRAMES, 0, 1, .rw, .shadow, 0x78⟩,
  ⟨R.BOARD_TE_SEL, 0, 1, .rw, .shadow, 0⟩,
  ⟨R.BOARD_TE_EDGE, 0, 1, .rw, .shadow, 0⟩,
  ⟨R.BOARD_TE_TIMEOUT_MS, 0, 1, .rw, .shadow, 0x32⟩,
  ⟨R.BOARD_LB_LOW_KIB, 0, 1, .rw, .shadow, 0x80⟩,
  ⟨R.BOARD_LB_URGENT_KIB, 0, 1, .rw, .shadow, 0x40⟩,
  ⟨R.BOARD_CRC_CTRL_EXPECT_EN, 0, 1, .rw, .shadow, 0⟩,
  ⟨R.BOARD_CRC_EXPECT_CRC, 0, 1, .rw, .shadow, 0⟩,
  ⟨R.BOARD_PAINT_EN, 0, 1, .rw, .shadow, 0⟩,
  ⟨R.BOARD_PAINT_DECIM, 0, 1, .rw, .shadow, 0xA⟩,
  ⟨R.BOARD_STRIP_POS_EN 0, 0x10, 64, .rw, .shadow, 0⟩,
  ⟨R.BOARD_STRIP_POS_Y 0, 0x10, 64, .rw, .shadow, 0⟩,
  ⟨R.BOARD_STRIP_POS_X 0, 0x10, 64, .rw, .shadow, 0⟩,
  ⟨R.BOARD_STRIP_SIZE_LEN 0, 0x10, 64, .rw, .shadow, 0⟩,
  ⟨R.BOARD_STRIP_SIZE_HEIGHT_M1 0, 0x10, 64, .rw, .shadow, 0⟩,
  ⟨R.BOARD_STRIP_CELL_CELL 0, 0x10, 64, .rw, .shadow, 0⟩,
  ⟨R.BOARD_STATUS_RUNNING, 0, 1, .ro, .direct, 0⟩,
  ⟨R.BOARD_STATUS_A_UP, 0, 1, .ro, .direct, 0⟩,
  ⟨R.BOARD_STATUS_B_UP, 0, 1, .ro, .direct, 0⟩,
  ⟨R.BOARD_STATUS_A_FAILED, 0, 1, .ro, .direct, 0⟩,
  ⟨R.BOARD_STATUS_B_FAILED, 0, 1, .ro, .direct, 0⟩,
  ⟨R.BOARD_STATUS_LOWERED, 0, 1, .ro, .direct, 0⟩,
  ⟨R.BOARD_STATUS_FLOOR, 0, 1, .ro, .direct, 0⟩,
  ⟨R.BOARD_STATUS_NO_FB, 0, 1, .ro, .direct, 0⟩]

/-- The BOARD page. Part 2. -/
def boardFieldsPart2 : List FieldDef := [
  ⟨R.BOARD_STATUS_RELOCK, 0, 1, .ro, .direct, 0⟩,
  ⟨R.BOARD_STATUS_TE_WAIT, 0, 1, .ro, .direct, 0⟩,
  ⟨R.BOARD_STATUS_LINE, 0, 1, .ro, .direct, 0⟩,
  ⟨R.BOARD_FRAME_VALUE, 0, 1, .ro, .direct, 0⟩,
  ⟨R.BOARD_APPLIED_VALUE, 0, 1, .ro, .direct, 0⟩,
  ⟨R.BOARD_CRC_PRE_VALUE, 0, 1, .ro, .direct, 0⟩,
  ⟨R.BOARD_CRC_A_VALUE, 0, 1, .ro, .direct, 0⟩,
  ⟨R.BOARD_CRC_B_VALUE, 0, 1, .ro, .direct, 0⟩,
  ⟨R.BOARD_ERR_UNDERRUN, 0, 1, .w1c, .direct, 0⟩,
  ⟨R.BOARD_ERR_CRC_BAD, 0, 1, .w1c, .direct, 0⟩,
  ⟨R.BOARD_ERR_TE_MISS, 0, 1, .w1c, .direct, 0⟩,
  ⟨R.BOARD_ERR2_POISON, 0, 1, .w1c, .direct, 0⟩,
  ⟨R.BOARD_ERR2_EXPECT_BAD, 0, 1, .w1c, .direct, 0⟩,
  ⟨R.BOARD_ERR2_RETRAIN, 0, 1, .w1c, .direct, 0⟩,
  ⟨R.BOARD_LTR_LEVEL_KIB, 0, 1, .ro, .direct, 0⟩,
  ⟨R.BOARD_LTR_LTR_US, 0, 1, .ro, .direct, 0xFFFF⟩,
  ⟨R.BOARD_FLAGS_SET_REFUSED, 0, 1, .w1c, .direct, 0⟩,
  ⟨R.BOARD_AUX_CTRL_GO, 0, 1, .wo, .direct, 0⟩,
  ⟨R.BOARD_AUX_CTRL_BUSY, 0, 1, .ro, .direct, 0⟩,
  ⟨R.BOARD_AUX_CTRL_RESULT, 0, 1, .ro, .direct, 0⟩,
  ⟨R.BOARD_AUX_CTRL_PORT, 0, 1, .rw, .direct, 0⟩,
  ⟨R.BOARD_AUX_CTRL_KIND, 0, 1, .rw, .direct, 0⟩,
  ⟨R.BOARD_AUX_CTRL_LEN_M1, 0, 1, .rw, .direct, 0⟩,
  ⟨R.BOARD_AUX_CTRL_ADDR, 0, 1, .rw, .direct, 0⟩]

/-- The BOARD page. Part 3. -/
def boardFieldsPart3 : List FieldDef := [
  ⟨R.BOARD_AUX_DATA_DATA 0, 0x4, 4, .rw, .direct, 0⟩]

/-- The BOARD page. -/
def boardFields : List FieldDef := boardFieldsPart0 ++ boardFieldsPart1 ++ boardFieldsPart2 ++ boardFieldsPart3

end Sys2Proof.Machine
end

