-- ==== Sys2Proof/Machine/Pages.lean ====
section
/-!
DEFINITION. Where each register page lies in BAR0 (R50 to R53), which pages a part has (R2, R7), what each page's
header says of it (R54 to R56), and the reset values that differ between instances of a page or are fixed at
manufacture.
-/
namespace Sys2Proof.Machine

/-- The BAR0 offset of super `s`'s region (R50). -/
def superBase (s : Nat) : Nat := 0x400000 * (s + 1)

/-- The BAR0 offset of a page (R52, R53). -/
def pageBase : Page → Nat
  | .hive => 0x0000 | .reeve => 0x1000 | .ivr => 0x2000 | .host => 0x3000
  | .events => 0x4000 | .ring => 0x5000 | .board => 0x6000
  | .pll i => 0x7000 + 0x1000 * i
  | .hseq => 0xB000
  | .hqueue i => 0xC000 + 0x1000 * i
  | .frame s f => superBase s + 0x1000 * f
  | .pod s f => superBase s + 0x1000 * (0x008 + f)
  | .scout s k => superBase s + 0x1000 * (0x010 + k)
  | .sseq s => superBase s + 0x1000 * 0x018
  | .press s => superBase s + 0x1000 * 0x019
  | .queue s i => superBase s + 0x1000 * (0x01A + i)
  | .dram s k => superBase s + 0x1000 * (0x024 + k)
  | .sram s => superBase s + 0x1000 * 0x026
  | .spll s k => superBase s + 0x1000 * (0x027 + k)
  | .waggle s => superBase s + 0x1000 * 0x02A

/-- The page in slot `n` of the hive region (R52). -/
def hiveSlot (n : Nat) : Option Page :=
  match n with
  | 0 => some .hive | 1 => some .reeve | 2 => some .ivr | 3 => some .host
  | 4 => some .events | 5 => some .ring | 6 => some .board
  | 7 => some (.pll 0) | 8 => some (.pll 1) | 9 => some (.pll 2) | 10 => some (.pll 3)
  | 11 => some .hseq | 12 => some (.hqueue 0) | 13 => some (.hqueue 1)
  | _ => none

/-- The page in slot `n` of the region of super `s` (R53). -/
def superSlot (s n : Nat) : Option Page :=
  if n < 0x008 then some (.frame s n)
  else if n < 0x010 then some (.pod s (n - 0x008))
  else if n < 0x018 then some (.scout s (n - 0x010))
  else if n = 0x018 then some (.sseq s)
  else if n = 0x019 then some (.press s)
  else if n < 0x024 then some (.queue s (n - 0x01A))
  else if n < 0x026 then some (.dram s (n - 0x024))
  else if n = 0x026 then some (.sram s)
  else if n < 0x02A then some (.spll s (n - 0x027))
  else if n = 0x02A then some (.waggle s)
  else none

/-- The page whose 4 KiB hold a BAR0 offset, where a table assigns one (R50 to R53). -/
def pageAt (a : Nat) : Option Page :=
  if a < 0x400000 then hiveSlot (a / 0x1000)
  else if a < 0x2400000 then superSlot (a / 0x400000 - 1) (a % 0x400000 / 0x1000)
  else none

/-- The page exists on the part (R2, R7, R24, R25 and the closing paragraph under R53). -/
def pagePresent (p : Part) : Page → Bool
  | .board => p.hasBoard
  | .pll i => decide (i < 3) || (i == 3 && p.hasBoard)
  | .hqueue i => decide (i < 2)
  | .frame s f => decide (s < p.supers) && decide (f < 8)
  | .pod s f => decide (s < p.supers) && decide (f < 8)
  | .scout s k => decide (s < p.supers) && decide (k < 8) && p.hasScouts
  | .sseq s => decide (s < p.supers)
  | .press s => decide (s < p.supers) && p.hasPress
  | .queue s i => decide (s < p.supers) && decide (i < 10)
  | .dram s k => decide (s < p.supers) && decide (k < 2)
  | .sram s => decide (s < p.supers)
  | .spll s k => decide (s < p.supers) && decide (k < 3)
  | .waggle s => decide (s < p.supers)
  | _ => true

/-- Block type code, instance and super field of PAGE_ID (R52 to R55). -/
def pageIdent : Page → Nat × Nat × Nat
  | .hive => (0x01, 0, 15) | .reeve => (0x02, 0, 15) | .ivr => (0x03, 0, 15)
  | .host => (0x04, 0, 15) | .events => (0x05, 0, 15) | .ring => (0x06, 0, 15)
  | .board => (0x07, 0, 15) | .pll i => (0x08, i, 15) | .hseq => (0x13, 0, 15)
  | .hqueue i => (0x15, i, 15)
  | .frame s f => (0x10, f, s) | .pod s f => (0x11, f, s) | .scout s k => (0x12, k, s)
  | .sseq s => (0x13, 0, s) | .press s => (0x14, 0, s) | .queue s i => (0x15, i, s)
  | .dram s k => (0x16, k, s) | .sram s => (0x17, 0, s) | .spll s k => (0x08, k, s)
  | .waggle s => (0x18, 0, s)

/-- PAGE_ID (R54, R55): layout version 1.0. -/
def pageIdWord (p : Page) : Word :=
  let i := pageIdent p
  BitVec.ofNat 32 (i.1 <<< 24 ||| i.2.1 <<< 16 ||| i.2.2 <<< 12 ||| 0x100)

/-- PAGE_CAP.EV_SOURCES of a page: the closing paragraphs of each chapter's register section. -/
def evSources : Page → Nat
  | .hive => 4 | .reeve => 8 | .ivr => 8 | .host => 5 | .events => 2 | .ring => 12 | .board => 8
  | .pll i => if i = 0 then 3 else 2
  | .hseq => 10 | .hqueue _ => 3
  | .frame _ _ => 6 | .pod _ _ => 4 | .scout _ _ => 1 | .sseq _ => 9 | .press _ => 5
  | .queue _ i => if i = 0 then 4 else 0
  | .dram _ _ => 8 | .sram _ => 2
  | .spll _ k => if k = 0 then 2 else 0
  | .waggle _ => 2

/-- PAGE_CAP.BLOCK_CAP of a page: R659 for the PLLs, and the register section of each other chapter. -/
def blockCap (part : Part) : Page → Nat
  | .host => 0x7 | .events => 0x1 | .ring => 0x3 | .board => 0x1
  | .pll i => if i = 0 then 0x000E else if i = 1 then 0x0001 else 0
  | .spll _ k => if k = 0 then 0x0006 else 0x0001
  | .hseq => 0x1
  | .pod _ _ => 0x3
  | .press _ => if part.hasScouts then 0x7 else 0x6
  | .dram _ _ => 0x1
  | _ => 0

/-- PAGE_CAP (R54): LIVE is 1 on the PRESS pages only, whose LEVEL is the one live-adjustable field of the hive. -/
def pageCapWord (part : Part) (p : Page) : Word :=
  let live := match p with | .press _ => 1 | _ => 0
  BitVec.ofNat 32 (blockCap part p <<< 16 ||| live <<< 12 ||| evSources p)

/-- PAGE_CTRL.ENABLE at reset (R56). -/
def enableReset : Page → Nat
  | .hive => 1 | .reeve => 1 | .ivr => 1 | .host => 1 | .events => 1
  | .pll _ => 1 | .spll _ _ => 1 | .dram _ _ => 1 | .sram _ => 1
  | _ => 0

/-- PAGE_CTRL.ENABLE is a shadowed field of the pages of R57. -/
def enableShadowed : Page → Bool
  | .frame _ _ => true | .pod _ _ => true | .scout _ _ => true | .sseq _ => true | .hseq => true
  | .waggle _ => true | .press _ => true | .queue _ _ => true | .hqueue _ => true
  | .dram _ _ => true | .sram _ => true
  | _ => false

/-- The block-specific register table of a page. -/
def blockFields : Page → List FieldDef
  | .hive => hiveFields | .reeve => reeveFields | .ivr => ivrFields | .host => hostFields
  | .events => eventsFields | .ring => ringFields | .board => boardFields
  | .pll i => if i = 0 then mpllFields else pllxFields
  | .hseq => seqHFields
  | .hqueue _ => queueFields
  | .frame _ _ => frameFields | .pod _ _ => podFields | .scout _ _ => scoutFields
  | .sseq _ => seqSFields | .press _ => pressFields | .queue _ _ => queueFields
  | .dram _ _ => dramFields | .sram _ => sramFields
  | .spll _ k => if k = 0 then spllFields else pllxFields
  | .waggle _ => waggleFields

/-- The row covers the register at an offset of its page. -/
def coversOff (d : FieldDef) (o : Nat) : Bool :=
  if d.count = 1 then o == d.fld.off
  else decide (d.fld.off ≤ o) && (o - d.fld.off) % d.stride == 0
    && decide ((o - d.fld.off) / d.stride < d.count)

/-- The rows for the register at offset `o` of a page, the common header included. -/
def fieldsAt (p : Page) (o : Nat) : List FieldDef :=
  if o < 0x100 then headerFields.filter (coversOff · o) else (blockFields p).filter (coversOff · o)

/-- The event bits and counts above EV_SOURCES are reserved (chapter 02, after R60). -/
def evMask (p : Page) (o : Nat) : Nat :=
  if 0x010 ≤ o ∧ o < 0x020 then 2 ^ evSources p - 1
  else if 0x020 ≤ o ∧ o < 0x040 then
    let m := (o - 0x020) / 4
    (if 2 * m < evSources p then 0xFFFF else 0) ||| (if 2 * m + 1 < evSources p then 0xFFFF0000 else 0)
  else 0xFFFFFFFF

/-- The bits of the register at offset `o` whose row satisfies `q`. -/
def maskWhere (p : Page) (o : Nat) (q : FieldDef → Bool) : Word :=
  BitVec.ofNat 32 (((fieldsAt p o).foldl
    (fun m d => if q d then m ||| maskOf d.fld.hi d.fld.lo else m) 0) &&& evMask p o)

/-- PAGE_CTRL.ENABLE is the one field whose kind depends on the page (R57). -/
def isEnable (d : FieldDef) : Bool := d.fld == R.PAGE_CTRL_ENABLE

/-- The field is shadowed on the page; live-adjustable fields are shadowed too. -/
def isShadowed (p : Page) (d : FieldDef) : Bool :=
  match d.kind with
  | .direct => isEnable d && enableShadowed p
  | .shadow => true
  | .live => true

/-- The shadowed bits of the register at offset `o` of a page (R61). -/
def shadowMask (p : Page) (o : Nat) : Word := maskWhere p o (isShadowed p)

/-- The live-adjustable bits of the register at offset `o` of a page (R65). -/
def liveMask (p : Page) (o : Nat) : Word := maskWhere p o (fun d => d.kind == .live)

/-- The bits that a host write of the register stores as they are written: RW fields (DEDUCED, log entry 39). -/
def rwMask (p : Page) (o : Nat) : Word := maskWhere p o (fun d => d.acc == .rw)

/-- The bits that a host write of 1 clears: W1C fields (DEDUCED, log entry 24). -/
def w1cMask (p : Page) (o : Nat) : Word := maskWhere p o (fun d => d.acc == .w1c)

/-- The bits that a host write of 1 sets: W1S fields. -/
def w1sMask (p : Page) (o : Nat) : Word := maskWhere p o (fun d => d.acc == .w1s)

/-- The bits that a read returns: every field but the WO ones (R16). -/
def readMask (p : Page) (o : Nat) : Word := maskWhere p o (fun d => !(d.acc == .wo))

/-- The rows of a table whose reset value is not 0. -/
def nonZero (l : List FieldDef) : List FieldDef := l.filter (fun d => d.reset != 0)

def headerResets : List FieldDef := nonZero headerFields
def hiveResets : List FieldDef := nonZero hiveFields
def reeveResets : List FieldDef := nonZero reeveFields
def ivrResets : List FieldDef := nonZero ivrFields
def hostResets : List FieldDef := nonZero hostFields
def eventsResets : List FieldDef := nonZero eventsFields
def ringResets : List FieldDef := nonZero ringFields
def boardResets : List FieldDef := nonZero boardFields
def mpllResets : List FieldDef := nonZero mpllFields
def pllxResets : List FieldDef := nonZero pllxFields
def spllResets : List FieldDef := nonZero spllFields
def seqHResets : List FieldDef := nonZero seqHFields
def seqSResets : List FieldDef := nonZero seqSFields
def queueResets : List FieldDef := nonZero queueFields
def frameResets : List FieldDef := nonZero frameFields
def podResets : List FieldDef := nonZero podFields
def scoutResets : List FieldDef := nonZero scoutFields
def pressResets : List FieldDef := nonZero pressFields
def dramResets : List FieldDef := nonZero dramFields
def sramResets : List FieldDef := nonZero sramFields
def waggleResets : List FieldDef := nonZero waggleFields

/-- The rows of a page's block whose reset value is not 0. -/
def blockResets : Page → List FieldDef
  | .hive => hiveResets | .reeve => reeveResets | .ivr => ivrResets | .host => hostResets
  | .events => eventsResets | .ring => ringResets | .board => boardResets
  | .pll i => if i = 0 then mpllResets else pllxResets
  | .hseq => seqHResets
  | .hqueue _ => queueResets
  | .frame _ _ => frameResets | .pod _ _ => podResets | .scout _ _ => scoutResets
  | .sseq _ => seqSResets | .press _ => pressResets | .queue _ _ => queueResets
  | .dram _ _ => dramResets | .sram _ => sramResets
  | .spll _ k => if k = 0 then spllResets else pllxResets
  | .waggle _ => waggleResets

/-- The reset word that the register table gives. -/
def tableReset (p : Page) (o : Nat) : Word :=
  BitVec.ofNat 32 (((if o < 0x100 then headerResets else blockResets p).filter (coversOff · o)).foldl
    (fun m d => m ||| placed d.reset d.fld.hi d.fld.lo) 0)

/-- HIVE_CAP0 (R6). -/
def cap0Word (p : Part) : Word :=
  let n := p.supers
  BitVec.ofNat 32 ((2 ^ (2 * n) - 1) <<< 16 ||| (2 ^ n - 1) <<< 8 ||| 8
    ||| flag p.hasBoard * 4 ||| flag p.hasScouts * 2 ||| flag p.hasPress)

/-- HIVE_PART (R6). -/
def partWord (f : Fuse) : Word :=
  BitVec.ofNat 32 (0x4C <<< 24 ||| f.part.supers <<< 16 ||| f.part.variant <<< 8 ||| f.stepping.toNat)

/-- HIVE_CAP1 (R6, R497). -/
def cap1Word (p : Part) : Word :=
  BitVec.ofNat 32 ((if p.hasScouts then 8 else 0) <<< 16 ||| (128 + 144 * p.supers))

/-- The supers that die-to-die link `n` joins (R27). -/
def linkEnds (n : Nat) : Nat × Nat :=
  match n with
  | 0 => (0, 1) | 1 => (1, 2) | 2 => (2, 3) | 3 => (4, 5) | 4 => (5, 6) | 5 => (6, 7)
  | 6 => (0, 4) | 7 => (1, 5) | 8 => (2, 6) | _ => (3, 7)

/-- Die-to-die link `n` exists: both of its supers are present (R27). -/
def linkPresent (p : Part) (n : Nat) : Bool :=
  decide (n < 10) && decide ((linkEnds n).1 < p.supers) && decide ((linkEnds n).2 < p.supers)

/-- Default dividers P, M, N of a PLL (R90). -/
def defaultDiv : Page → Nat × Nat × Nat
  | .pll 0 => (2, 4, 128) | .pll 1 => (4, 4, 160) | .pll 2 => (20, 64, 200) | .pll _ => (16, 25, 594)
  | .spll _ 0 => (2, 64, 128) | .spll _ 1 => (4, 64, 192) | .spll _ _ => (2, 64, 256)
  | _ => (0, 0, 0)

/-- Entry size in words, usable depth, high and low watermark at reset, and DUAL of a queue (R342, QUEUE_HWM). -/
def queueShape : Page → Nat × Nat × Nat × Nat × Bool
  | .queue _ 0 => (8, 131068, 98304, 32768, true)
  | .queue _ 1 => (1, 8188, 6144, 2048, true)
  | .hqueue 0 => (8, 65532, 49152, 16384, true)
  | .hqueue _ => (2, 4092, 3072, 1024, true)
  | _ => (1, 2048, 1536, 512, false)

/-- REEVE_COSTn at reset (R562). -/
def costReset (p : Part) (n : Nat) : Nat :=
  match n with
  | 0 => if p.supers = 8 then 0x46502AF8 else 0x32C81F40
  | 1 => 0x07D003E8 | 2 => 0x27101770 | 3 => 0x05DC03E8 | 4 => 0x00FA0096 | 5 => 0x0FA00960
  | 6 => 0x17700E10 | 7 => 0x1F4012C0 | 8 => 0x07D004B0 | 9 => 0x0BB806D6 | _ => 0x07D001F4

/-- REEVE_SUSTAIN.QW at reset (R559, chapter 17). -/
def sustainReset (p : Part) : Nat :=
  match p.supers with
  | 8 => 0x03C0 | 4 => 0x01F4 | _ => 0x0118

/-- The reset word of a register that the register table does not settle: per page, per instance, or fused. -/
def instanceReset (f : Fuse) (p : Page) (o : Nat) : Option Word :=
  if o = 0x000 then some (pageIdWord p)
  else if o = 0x004 then some (pageCapWord f.part p)
  else if o = 0x008 then some (BitVec.ofNat 32 (enableReset p))
  else match p with
  | .hive =>
    if o = 0x100 then some (partWord f)
    else if o = 0x104 then some (cap0Word f.part)
    else if o = 0x108 then some (cap1Word f.part)
    else if 0x110 ≤ o ∧ o < 0x138 ∧ o % 4 = 0 then
      some (if linkPresent f.part ((o - 0x110) / 4) then 0x80000000 else 0)
    else none
  | .pll _ | .spll _ _ =>
    if o = 0x100 then
      let d := defaultDiv p
      some (BitVec.ofNat 32 (d.1 <<< 24 ||| d.2.1 <<< 16 ||| d.2.2))
    else none
  | .queue _ _ | .hqueue _ =>
    let q := queueShape p
    if o = 0x100 then some (BitVec.ofNat 32 (flag q.2.2.2.2 <<< 31 ||| q.1 <<< 24 ||| q.2.1))
    else if o = 0x104 then some (BitVec.ofNat 32 q.2.2.1)
    else if o = 0x108 then some (BitVec.ofNat 32 q.2.2.2.1)
    else none
  | .reeve =>
    if o = 0x100 then some (BitVec.ofNat 32 (sustainReset f.part))
    else if 0x180 ≤ o ∧ o < 0x1AC ∧ o % 4 = 0 then
      some (BitVec.ofNat 32 (costReset f.part ((o - 0x180) / 4)))
    else none
  | .events =>
    if 0x140 ≤ o ∧ o < 0x220 ∧ o % 4 = 0 then
      let g := (o - 0x140) / 4
      some (BitVec.ofNat 32 (flag (g != 0) <<< 8 ||| g))
    else none
  | .ring =>
    if o = 0x120 then some (BitVec.ofNat 32 f.uid.toNat)
    else if o = 0x124 then some (BitVec.ofNat 32 (f.uid.toNat >>> 32))
    else none
  | .board =>
    match o with
    | 0x13C => some 0x004000#32 | 0x140 => some 0x00FF00#32
    | 0x144 => some 0xFFFF00#32 | 0x148 => some 0x808080#32
    | _ => none
  | _ => none

/-- The reset word of the register at offset `o` of a page. -/
def pageReset (f : Fuse) (p : Page) (o : Nat) : Word :=
  (instanceReset f p o).getD (tableReset p o)

/-- What a register at a BAR0 offset reads as while nothing has changed it: its reset word, and 0 for an absent page
and an unassigned slot (R7, R51). -/
def resetWord (f : Fuse) (a : Nat) : Word :=
  match pageAt a with
  | some p => if pagePresent f.part p then pageReset f p (a % 0x1000) else 0
  | none => 0

/-- The high word of a pair that its chapter marks as one 64-bit, 48-bit or 40-bit value under R69: the offset of the
high word, for the offset of the low one. -/
def pairHigh (p : Page) (o : Nat) : Option Nat :=
  let strided (base stride count : Nat) : Bool :=
    decide (base ≤ o) && (o - base) % stride == 0 && decide ((o - base) / stride < count)
  match p with
  | .pll 0 => if o = 0x208 ∨ o = 0x210 ∨ o = 0x220 then some (o + 4) else none
  | .frame _ _ =>
    if strided 0x348 0x20 4 || strided 0x350 0x20 4 || strided 0x358 0x20 4
      || strided 0x3C8 0x20 4 || strided 0x3D0 0x20 4 then some (o + 4) else none
  | .sseq _ => if o = 0x114 then some 0x118 else none
  | .hseq =>
    if o = 0x114 || strided 0x144 0x20 4 || strided 0x14C 0x20 4 || o = 0x1C4 then some (o + 4) else none
  | .hive =>
    if o = 0x304 ∨ o = 0x30C ∨ o = 0x318 ∨ o = 0x340 ∨ o = 0x348 then some (o + 4) else none
  | .press _ => if o = 0x124 ∨ o = 0x12C then some (o + 4) else none
  | .dram _ _ => if o = 0x238 || strided 0x308 0x10 8 then some (o + 4) else none
  | .host => if o = 0x10C ∨ o = 0x120 ∨ o = 0x130 ∨ o = 0x140 then some (o + 4) else none
  | .events => if o = 0x100 then some 0x104 else none
  | .ring => if o = 0x120 ∨ o = 0x128 then some (o + 4) else none
  | _ => none

/-- The low word's offset of the pair whose high word is at `o`, when there is one. -/
def pairLow (p : Page) (o : Nat) : Option Nat :=
  if 4 ≤ o ∧ pairHigh p (o - 4) = some o then some (o - 4) else none

/-- The page of the data plane of which ARM applies the shadow (R63): those of R57 of super `s`. -/
def superPages (s : Nat) : List Page :=
  (List.range 8).map (Page.frame s) ++ (List.range 8).map (Page.pod s) ++ (List.range 8).map (Page.scout s)
    ++ [.sseq s, .press s] ++ (List.range 10).map (Page.queue s) ++ (List.range 2).map (Page.dram s)
    ++ [.sram s, .waggle s]

end Sys2Proof.Machine
end

