-- ==== Sys2Proof/Machine/Sparse.lean ====
section
/-!
DEFINITION. Sparse tables: a list of (key, value) pairs with keys strictly rising and no pair whose value is what an
unlisted key reads as. Memories, register files and tables of units are kept in this one canonical form, so that equal
contents are equal data and a reset is the removal of entries.
-/
namespace Sys2Proof.Machine

/-- What key `k` holds: its listed value, or the default. -/
def sget (d : Nat → α) : List (Nat × α) → Nat → α
  | [], k => d k
  | (j, x) :: m, k => if k = j then x else sget d m k

/-- The table without key `k`. -/
def serase (m : List (Nat × α)) (k : Nat) : List (Nat × α) := m.filter (fun e => !(e.1 == k))

/-- The table with a pair put before the first greater key. -/
def sinsert : List (Nat × α) → Nat → α → List (Nat × α)
  | [], k, v => [(k, v)]
  | (j, x) :: m, k, v => if k < j then (k, v) :: (j, x) :: m else (j, x) :: sinsert m k v

/-- A write. Writing what an unlisted key reads as removes the entry. -/
def sput [DecidableEq α] (d : Nat → α) (m : List (Nat × α)) (k : Nat) (v : α) : List (Nat × α) :=
  if v = d k then serase m k else sinsert (serase m k) k v

/-- Removal of every key that satisfies `p`: those keys read as the default again. -/
def sclear (m : List (Nat × α)) (p : Nat → Bool) : List (Nat × α) := m.filter (fun e => !(p e.1))

/-- The keys of a table rise strictly. -/
def sorted : List (Nat × α) → Bool
  | [] => true
  | [_] => true
  | (j, _) :: (k, y) :: m => decide (j < k) && sorted ((k, y) :: m)

/-- The canonical form: keys strictly rising, no entry equal to the default. -/
def canonical [DecidableEq α] (d : Nat → α) (m : List (Nat × α)) : Bool :=
  sorted m && m.all (fun e => !(decide (e.2 = d e.1)))

/-- A run of writes. -/
def sputs [DecidableEq α] (d : Nat → α) (m : List (Nat × α)) (l : List (Nat × α)) : List (Nat × α) :=
  l.foldl (fun m e => sput d m e.1 e.2) m

end Sys2Proof.Machine
end

