-- ==== Sys2Proof/Machine/State.lean ====
section
/-!
DEFINITION. The state of the hive: every register, memory, queue, counter, mode and pin that the spec gives it, as
plain data, and the queue of waiting commands. Tables of registers, memories and units are sparse (see
Sys2Proof/Machine/Sparse.lean): what is not listed is at its reset value, so `State.reset` lists nothing. Beside the
architected state stand the model's own fields: `frees`, the counter that free values are drawn with, and `out`, the
messages the hive has sent.
-/
namespace Sys2Proof.Machine

/-- Why a command cannot be carried out at all. Every reason is safe: the machine stops and nothing is claimed
(DEDUCED, log entry 7). -/
inductive Fault where
  /-- Raised by a BAR0 access outside the 64 MiB of BAR0 (R50) and a BAR2 access outside BAR2 (R455). Safe: PCI Express
  does not route such an access to the hive. -/
  | outsideBar
deriving DecidableEq, Repr

/-- Why a command has no meaning. -/
inductive Refusal where
  /-- Answered by an arm of `exec` whose command is not modelled yet. Safe. -/
  | notModelled (mnemonic : String)
deriving DecidableEq, Repr

/-- What the hive sends out of the package, or answers, in the order in which it sends it. -/
inductive Out where
  /-- A command frame on the command lane of pod `pod` (R137): the seven bytes between its K27.7 and its K29.7. -/
  | podCommand (pod : Nat) (bytes : List Byte)
  /-- The answer to a read by the host: the bytes, and whether the data is poisoned (R70, R458). -/
  | readData (bytes : List Byte) (poisoned : Bool)
  /-- A posted write to host memory (R478, R483, R507). -/
  | hostWrite (addr : Nat) (bytes : List Byte) (poisoned : Bool)
  /-- An MSI-X message of a vector (R512): address and data. -/
  | msix (vector addr data : Nat)
  /-- A word or control message launched on ring A (0) or B (1) of the apiary (chapter 16): kind and content. -/
  | ringWord (ring kind : Nat) (content : List Nat)
  /-- A time message to super `super` over its sideband (R81). -/
  | timeMessage (super value : Nat)
  /-- TRIG_OUT `n` takes a level at the ball at a tick (R253). -/
  | trigOut (n tick : Nat) (level : Bool)
  /-- An AUX transaction started on an eDP output (R583): port, kind, address and bytes. -/
  | aux (port kind addr : Nat) (bytes : List Byte)
  /-- A command issued on a channel's DRAM bus beside data accesses: refresh, retraining, power state (chapter 11). -/
  | dramCommand (super chan : Nat) (code : Nat) (args : List Nat)
  /-- The word an SMBus block read returns (R638). -/
  | smbusData (word : Word)
  /-- Bits shifted out of the TAP (R640). -/
  | tapData (word : Nat)
deriving DecidableEq, Repr

/-! ### Time, clocks and the PLLs (chapter 03) -/

/-- Why a PLL coasts (R105). -/
inductive CoastCause where
  | none | reference | lock
deriving DecidableEq, Repr

/-- What a PLL holds beside its registers. -/
structure PllSt where
  /-- Why it coasts, or last coasted. -/
  cause : CoastCause
  /-- Hive time at which the present or last coast began (COAST_TIME, R108). -/
  coastAt : Nat
  /-- Hive time at which it last left LOCKED to coast, for its COAST record (R297). -/
  coastFrom : Nat
  /-- A new spread-spectrum setting waits for the modulation to cross the set frequency (R104). -/
  sscWaits : Bool
  /-- The `j` of the bypass output fref / 2^j while it relocks (R96). -/
  bypassExp : Nat
  /-- A band search ran since the PLL last locked (R93), so BAND is new at the next lock. -/
  searched : Bool
  /-- The search under way is a relock through bypass (R96, R99). -/
  relock : Bool
  /-- The coast that ended did not stop the intake, so the realignment records its step (R112). -/
  stepOwed : Bool
deriving DecidableEq, Repr

/-- A PLL at reset (DESIGN CHOICE, log entry 6). -/
def PllSt.reset : PllSt := ⟨.none, 0, 0, false, 0, true, false, false⟩

/-! ### Pod links (chapter 04) -/

/-- A state-mode group under way on a lane (R126). -/
structure Group where
  /-- The base slot that its slot 0 becomes on the hive's grid. -/
  base : Nat
  bitmap : Nat
  /-- States received or lost so far. -/
  taken : Nat
deriving DecidableEq, Repr

/-- A place in a lane's data (R130): SLOT and GROUP_POS as a MARKER here would state them, and in state mode the data
blocks of the group under way, once its bitmap is known (0 before). -/
structure Place where
  slot : Nat
  pos : Nat
  total : Nat
deriving DecidableEq, Repr

/-- One base slot that a lane delivered (R166): its number, the lane's bits, the arrival phase in force, whether it
carries a sample (in state mode, a state), and whether the cells may use it: not when its block had a sync error
(R153). -/
structure BaseSlot where
  n : Nat
  bits : Nat
  phase : Nat
  sampled : Bool
  good : Bool
deriving DecidableEq, Repr

/-- One data lane of a pod link. -/
structure LaneSt where
  /-- Block lock held (R150). -/
  lock : Bool
  /-- The sync header results of the last blocks, newest first, true for an error, at most 64 (R150). -/
  errors : List Bool
  /-- A MARKER that passes R131 has been delivered since training ended. -/
  marked : Bool
  /-- The place expected of the next MARKER, while it is known (R131). -/
  expect : Option Place
  /-- The place that a disagreeing MARKER gave, moved on with the blocks since (R131). -/
  slip : Option Place
  /-- The LANE and MODE fields of the latest MARKER that passed, its SLOT and the tick at which it arrived. -/
  seen : Nat
  mode : Nat
  markAt : Option (Nat × Nat)
  /-- The lane's samples reach the cells. -/
  delivering : Bool
  /-- The least base slot number that the lane has not delivered yet. -/
  newest : Nat
  /-- Arrival phase of the lane (R167). -/
  phase : Nat
  /-- The state-mode group under way. -/
  group : Option Group
  /-- No state-mode data counts until the next MARKER that passes R131 (R153). -/
  skipGroup : Bool
  /-- The alignment buffer: base slots not yet used up, oldest first. -/
  buffer : List BaseSlot
  /-- Bitmaps of the state-mode groups received, by base slot, oldest first (R173). -/
  bitmaps : List (Nat × Nat)
deriving DecidableEq, Repr

def LaneSt.reset : LaneSt :=
  ⟨false, [], false, none, none, 0, 0, none, false, 0, 0, none, false, [], []⟩

/-- A command on a command lane (R137, R138): its kind, its word and its tally. -/
structure PodCmd where
  kind : Nat
  word : Nat
  tally : Nat
  /-- Resends made without an answer (R143). -/
  resends : Nat
deriving DecidableEq, Repr

/-- A pod link. -/
structure PodSt where
  laneA : LaneSt
  laneB : LaneSt
  /-- The tally of the next new command (R139). -/
  tally : Nat
  /-- The one unanswered command (R142). -/
  cmd : Option PodCmd
  /-- Commands waiting for the answer to the previous one, oldest first: kind and word. -/
  waiting : List (Nat × Nat)
  /-- A MODE was acknowledged and the next MARKER is to show it (R151). -/
  modeWanted : Option Nat
  /-- Hive time from which RETRY_MS counts, while a retry is to come (R145, R157). -/
  retryFrom : Option Nat
  /-- Hive time at which OFFER was first sent in the link-up under way (R150). -/
  offerAt : Option Nat
  /-- The command lane is driven: K28.5 between frames (R145). -/
  driven : Bool
deriving DecidableEq, Repr

def PodSt.reset : PodSt := ⟨.reset, .reset, 0, none, [], none, none, none, false⟩

/-! ### Cells, pattern words, counters and timers (chapters 05 and 06) -/

/-- A counter of a frame (R215). -/
structure Counter where
  value : Nat
  paused : Bool
  flagged : Bool
deriving DecidableEq, Repr

/-- A timer of a frame or of the hive sequencer (R218, R251). -/
structure Timer where
  value : Nat
  running : Bool
  flagged : Bool
deriving DecidableEq, Repr

/-- One slot with its pattern word results, waiting for the counters and timers. -/
structure EvalSlot where
  n : Nat
  valid : Bool
  /-- Raw results P0 to P7 and qualified results Q0 to Q7, as bits. -/
  raw : Nat
  qual : Nat
  /-- The qualified results of the slot before. -/
  qualBefore : Nat
deriving DecidableEq, Repr

/-- Operations on the counters and timers of a frame, in flight to the slot in which they take effect (R220): the word
of SEQ_OPSk_Ff. -/
structure FrameOps where
  slot : Nat
  word : Nat
deriving DecidableEq, Repr

/-- One slot of a frame, as its record builder sees it. -/
structure SlotRec where
  n : Nat
  value : Nat
  valid : Bool
  /-- Cells ABSENT while enabled for the take. -/
  absent : Nat
  /-- Qualified results, for QUALIFIED mode (R282). -/
  qual : Nat
  /-- Taken while the MPLL or the super's SPLL coasted (R107). -/
  coasted : Bool
  /-- The record builder stores it; settled when its block is cut. -/
  stored : Bool
deriving DecidableEq, Repr

/-- What the painter needs of a frame's cells over an interval (R605): those with PRESENT 0 and with an edge in some slot of
it, and their values in its latest slot. -/
structure PaintAcc where
  interval : Nat
  absent : Nat
  edge : Nat
  value : Nat
deriving DecidableEq, Repr

/-- A frame. -/
structure FrameSt where
  /-- The next slot that the frame takes from its cells. -/
  next : Nat
  /-- Values of the cells in the slot before `next` (R165). -/
  value : Nat
  /-- The sample that each cell delivered last since the frame was enabled (R165). -/
  held : Nat
  /-- Values in the latest valid slot before `next` (R176). -/
  before : Nat
  /-- Cells PRESENT in the slot before `next`. -/
  present : Nat
  /-- Cells that have delivered since they were last ABSENT or DISABLED, so that an edge may show (R177). -/
  seen : Nat
  /-- Run lengths RUN of the eight pattern words (R209). -/
  runs : List Nat
  /-- Qualified results of the slot before `next`. -/
  qual : Nat
  counters : List Counter
  timers : List Timer
  /-- Slots evaluated by the pattern words whose counters and timers are still to come. -/
  eval : List EvalSlot
  /-- Flags FL0 to FL15 of the slots not yet used by the super sequencer (R211), oldest first. -/
  flags : List (Nat × Nat)
  ops : List FrameOps
  /-- Cells held ABSENT for the take under R159. -/
  heldAbsent : Nat
  /-- Cells ABSENT in the take, each with the first slot lost (R155). -/
  lostSince : List (Nat × Nat)
  /-- VALUE and PRESENT in the last slot before the take's first slot (R179). -/
  snapshot : Nat × Nat
  /-- The latest painter intervals, newest first. -/
  paint : List PaintAcc
deriving DecidableEq, Repr

def FrameSt.reset : FrameSt :=
  { next := 0, value := 0, held := 0, before := 0, present := 0, seen := 0, runs := List.replicate 8 0, qual := 0,
    counters := List.replicate 4 ⟨0, false, false⟩, timers := List.replicate 4 ⟨0, false, false⟩,
    eval := [], flags := [], ops := [], heldAbsent := 0, lostSince := [], snapshot := (0, 0), paint := [] }

/-! ### Scouts (chapter 05) -/

/-- Why a scout records nothing for the moment (R188). -/
inductive Suspend where
  | none
  /-- In overrun, or kept suspended as though it had written an OVERRUN (R195, R197, R281). -/
  | overrun
  /-- Settling after an apply (R185). -/
  | settling
  /-- Its stream is gated off or paused (R281). -/
  | chosen
deriving DecidableEq, Repr

/-- A scout. -/
structure ScoutSt where
  /-- Level sampled last after deskew (R183). -/
  level : Bool
  /-- Transitions not yet formed into records (R281): tick and new level, oldest first. -/
  raw : List (Nat × Bool)
  /-- The level that the recorder has reached. -/
  recLevel : Bool
  suspend : Suspend
  /-- Transitions not recorded since the interval began (the LOST of a RESUME). -/
  lost : Nat
  /-- Bucket content in units of 1/12,800 token at tick `bucketAt` (R196). -/
  bucket : Nat
  bucketAt : Nat
  /-- Edges of the chosen kind not yet used by the super sequencer: ticks, oldest first (R186). -/
  edges : List Nat
  /-- Hive time at which settling ends (R185). -/
  settleEnd : Nat
deriving DecidableEq, Repr

def ScoutSt.reset : ScoutSt := ⟨false, [], false, .none, 0, 0, 0, [], 0⟩

/-! ### Takes and the store (chapter 08) -/

/-- A mark record (R296). -/
structure MarkRec where
  time : Nat
  type : Nat
  super : Nat
  a16 : Nat
  a32 : Nat
  t2 : Nat
  a64 : Nat
  /-- Segment in which it arose; not part of the record (R271). -/
  segment : Nat
deriving DecidableEq, Repr

/-- What a scout's recorder wrote, or left out, at a tick (R189, R192). -/
inductive ScoutItem where
  /-- A transition, recorded. -/
  | edge (level : Bool)
  /-- An OVERRUN, with the level before. -/
  | overrun (level : Bool)
  /-- A RESUME, with the level sampled there and LOST. -/
  | resume (level : Bool) (lost : Nat)
  /-- A transition not recorded: no word, but the level for the next SNAPSHOT. -/
  | silent (level : Bool)
  /-- The scout stays suspended as though it had written an OVERRUN (R195, R281): no word. -/
  | held (level : Bool)
deriving DecidableEq, Repr

/-- A scout's item with the tick that orders it (R191). -/
structure ScoutRec where
  tick : Nat
  index : Nat
  item : ScoutItem
  coasted : Bool
deriving DecidableEq, Repr

/-- What a SNAPSHOT states of one scout (R192, R193): its index, its level at FIRST - 1, IN_OVERRUN and SETTLING. -/
structure ScoutSnap where
  index : Nat
  level : Bool
  overrun : Bool
  settling : Bool
deriving DecidableEq, Repr

/-- A block cut by a frame or scout stream, with what its payload is made from: the Press may have to store it in raw
pieces, cut as RAW coding would have cut them (R314). -/
structure CutBlock where
  stream : StreamId
  segment : Nat
  first : Nat
  /-- The tick after its span. -/
  stop : Nat
  gap : Nat
  /-- The hole before it was chosen (R294). -/
  chosen : Bool
  /-- Last block of its stream in the segment. -/
  last : Bool
  /-- State mode on its link. -/
  stateMode : Bool
  base : Nat
  /-- The slots of the span, for a frame stream. -/
  slots : List SlotRec
  /-- ABSENT records that it carries, six words each (R292). -/
  absents : List (List Nat)
  snaps : List ScoutSnap
  recs : List ScoutRec
  /-- 64-bit words of its raw payload that on-chip memory delivered poisoned (R427). -/
  poison : List Nat
deriving DecidableEq, Repr

/-- A block as it goes to the store: the tick after its span, its segment, its stream, and its bytes up to the end of
the stored payload. -/
structure OutBlock where
  segment : Nat
  first : Nat
  stop : Nat
  stream : Nat
  bytes : List Byte
  /-- Its 64-bit words that are poisoned, by number in the block (R341, R427). -/
  poison : List Nat
deriving DecidableEq, Repr

/-- A stream (R285). -/
structure StreamSt where
  /-- Present in the take. -/
  present : Bool
  /-- The segment of its open block. A stream closes a segment once its data up to the segment's last slot has come. -/
  segment : Nat
  /-- SEQ of the next block stored. -/
  seq : Nat
  /-- First tick of the open block's span, or of the hole under way. -/
  first : Nat
  /-- Length of the hole that ended at `first`, and whether it was chosen (R293, R294). -/
  gap : Nat
  chosen : Bool
  base : Nat
  /-- Value word of the slot before the open block's first, as TRANSITION compares it (R283). -/
  valueBefore : Nat
  slots : List SlotRec
  recs : List ScoutRec
  marks : List MarkRec
  /-- Hive time at which the oldest record of the open M block entered it (R298). -/
  markSince : Nat
  /-- First tick lost of the hole under way, and whether it is chosen. -/
  hole : Option (Nat × Bool)
  /-- ABSENT records written or waiting, each with the slot in which the cells returned (R292), oldest first. -/
  absents : List (Nat × List Nat)
  /-- Store gate changes of the take: tick and ON, newest first (R280). -/
  gates : List (Nat × Bool)
  /-- The scouts at FIRST - 1 (R193). -/
  snaps : List ScoutSnap
  /-- Tick up to which the scouts' records have been formed (R281). -/
  formed : Nat
deriving DecidableEq, Repr

def StreamSt.reset : StreamSt :=
  { present := false, segment := 0, seq := 0, first := 0, gap := 0, chosen := false, base := 0, valueBefore := 0, slots := [],
    recs := [], marks := [], markSince := 0, hole := none, absents := [], gates := [], snaps := [], formed := 0 }

/-- A block slot written in the part of a segment: its number, and the span of the block it holds: first tick and the tick after. -/
structure RingSlot where
  slot : Nat
  first : Nat
  stop : Nat
deriving DecidableEq, Repr

/-- The part of one segment in a super's store (R276, R278). -/
structure StorePart where
  segment : Nat
  /-- The next slot to be written. -/
  next : Nat
  /-- Slots written and not overwritten, oldest first. -/
  written : List RingSlot
deriving DecidableEq, Repr

/-- A segment of a super that has ended and whose SEGMENT record is not written yet (R297). -/
structure OwedSegment where
  segment : Nat
  /-- Timestamp of the slot after its last slot. -/
  time : Nat
  ending : Nat
  /-- First tick kept (R272); none when no trigger was acted on, so that nothing was protected. -/
  kept : Option Nat
deriving DecidableEq, Repr

/-- The store of a super. -/
structure StoreSt where
  /-- Store limit LS in block slots and part size P (R276). -/
  limit : Nat
  partSize : Nat
  parts : List StorePart
  /-- Segments finished whose SEGMENT record is not written yet, oldest first. -/
  owed : List OwedSegment
  /-- First tick not stored of the interval under way, and its cause (R295). -/
  lossFrom : Option (Nat × Nat)
  /-- Blocks cut and not yet through the Press, oldest first. -/
  cut : List CutBlock
  /-- Blocks that have left the Press, or passed it, and wait for the super queue, oldest first; and how many of the
  64 entries of the first have been pushed. -/
  out : List OutBlock
  pushed : Nat
  /-- Blocks in the super queue or the write queues, oldest first. -/
  queued : List OutBlock
  /-- Entries of the first of them that the DRAM writer has popped, and the words of it delivered poisoned. -/
  popped : Nat
  popBad : List Nat
  /-- The latest F block was coded under a slip limit (R337). -/
  slipping : Bool
  /-- The layout in force: 0 none, 1 the one-channel layout on CH0, 2 on CH1, 3 the layout of R299 (R415). -/
  layout : Nat
  /-- A channel failed and the switch of R416 is still to come. -/
  switchOwed : Bool
  /-- Once a layout has been switched: the block slots written since the latest switch (R485). -/
  fresh : Option (List Nat)
deriving DecidableEq, Repr

def StoreSt.reset : StoreSt :=
  { limit := 0, partSize := 0, parts := [], owed := [], lossFrom := none, cut := [], out := [], pushed := 0,
    queued := [], popped := 0, popBad := [], slipping := false, layout := 0, switchOwed := false, fresh := none }

/-- A segment that has ended, its last slot, and whether it is the take's last. -/
structure Ended where
  segment : Nat
  last : Nat
  final : Bool
deriving DecidableEq, Repr

/-- The take, beside its registers. -/
structure TakeSt where
  /-- An ARM has been accepted and its take has not been given up: `first` and `last` speak of it. -/
  begun : Bool
  /-- Tick of acceptance of the ARM. -/
  accepted : Nat
  /-- First slot of the take. -/
  first : Nat
  /-- The take's last slot and the reason that gives it, once a cause has fixed one (R268, R269). -/
  last : Option (Nat × Nat)
  /-- Start slot Z of the segment (R271). -/
  start : Nat
  /-- The segment's last slot and its ending: 1 POST, 2 END_POST, 3 FULL (R273, R275, R279). -/
  segLast : Option (Nat × Nat)
  /-- First kept slot of the segment once a trigger is acted on (R272). -/
  kept : Option Nat
  /-- Instant of the take's first TRIGGER action, if any (R297, T2 of TAKE_END). -/
  firstTrigger : Option Nat
  /-- Window changes of the take: tick and PAUSED, newest first (R280). -/
  pauses : List (Nat × Bool)
  /-- The same changes as they act on the scout streams: none acts from before the beat that the recorders then form
  (R281). -/
  scoutPauses : List (Nat × Bool)
  /-- Forced trigger awaiting the next sample beat (R258). -/
  forced : Bool
  /-- The system queue of the M stream, and the records waiting at their source, oldest first (R298). -/
  system : List MarkRec
  waiting : List MarkRec
  /-- The sequencer from which the next mark is taken (R298: in turn). -/
  turn : Nat
  /-- The take was armed in block-format reader mode (R464). -/
  reader : Bool
  /-- Segments that have ended and that some stream has still to close. -/
  closing : List Ended
deriving DecidableEq, Repr

def TakeSt.reset : TakeSt :=
  { begun := false, accepted := 0, first := 0, last := none, start := 0, segLast := none, kept := none,
    firstTrigger := none, pauses := [], scoutPauses := [], forced := false, system := [], waiting := [], turn := 0, reader := false,
    closing := [] }

/-! ### Sequencers and the waggle network (chapter 07) -/

/-- The flags that a sequencer sent for one sample beat (R241, R242): their values, and the 5-bit tag of each that the
beat's exits made 1. -/
structure FlagBeat where
  beat : Nat
  value : Nat
  tags : List (Nat × Nat)
deriving DecidableEq, Repr

/-- A flag action of a hive of the apiary, by the sample beat for which it is applied (R538): flag, ring position of
its sender, operation code and origin. -/
structure AfAct where
  beat : Nat
  af : Nat
  member : Nat
  op : Nat
  origin : Nat
deriving DecidableEq, Repr

/-- A super sequencer, or the hive sequencer at index 8. -/
structure SeqSt where
  level : Nat
  running : Bool
  /-- The next slot (super) or sample beat (hive) to evaluate. -/
  next : Nat
  /-- ENTRY and FIRST of the next slot or sample beat (R233, R236). -/
  entered : Bool
  first : Bool
  /-- State bits of the waggle flags WF (super) or the inbound flags WI (hive) (R240, R242). -/
  flagState : Nat
  /-- The sample beat under way (super), as it will be sent. -/
  beat : FlagBeat
  /-- Flags sent and not yet past use: by sample beat (super), or by the sample beat with which they are presented
  (hive). Beats whose value is 0 are not listed. -/
  sent : List FlagBeat
  /-- The four timers of the hive sequencer, and the operation word issued for the next sample beat (R251). -/
  timers : List Timer
  timerOps : Nat
  /-- The mark queue (R249): MARK and MARK_LOSS records, oldest first. -/
  marks : List MarkRec
  /-- Marks dropped since the last MARK_LOSS record: how many, first and last origin (R249). -/
  dropped : Option (Nat × Nat × Nat)
  /-- Hive time before which no further mark is forwarded (R249). -/
  forwardAt : Nat
deriving DecidableEq, Repr

def SeqSt.reset : SeqSt :=
  { level := 0, running := false, next := 0, entered := false, first := false, flagState := 0, beat := ⟨0, 0, []⟩,
    sent := [], timers := List.replicate 4 ⟨0, false, false⟩, timerOps := 0, marks := [], dropped := none,
    forwardAt := 0 }

/-- A TRIG_IN transition (R252): input, tick and new level. -/
structure PinEdge where
  pin : Nat
  tick : Nat
  level : Bool
deriving DecidableEq, Repr

/-- The waggle sideband of a super (R243, R357): runs of lost beats under way, outbound and inbound, by first beat and
length; the beats lost, outbound and inbound, newest first; and HOLD bits taken as 1 since the loss. -/
structure SideSt where
  outRun : Option (Nat × Nat)
  inRun : Option (Nat × Nat)
  lostOut : List Nat
  lostIn : List Nat
  holdLost : Bool
deriving DecidableEq, Repr

def SideSt.reset : SideSt := ⟨none, none, [], [], false⟩

/-! ### Queues (chapter 10) -/

/-- An entry of a queue: its 64-bit words, and whether the last of them is the last of its packet (R338). -/
structure QueueEntry where
  words : List Nat
  last : Bool
deriving DecidableEq, Repr

/-- A queue (R342), beside its registers. -/
structure QueueSt where
  /-- Entries held, oldest first. -/
  entries : List QueueEntry
  /-- Watermark state WM (R349). -/
  wm : Bool
  /-- A run of refused pushes is under way (R348). -/
  refusing : Bool
  /-- The entry number, modulo the entries of its memory, at which the next pop reads (R425). -/
  head : Nat
deriving DecidableEq, Repr

def QueueSt.reset : QueueSt := ⟨[], false, false, 0⟩

/-! ### On-chip memory (chapter 13) -/

/-- A run of the march engine (R436, R438). -/
structure MarchRun where
  destructive : Bool
  /-- Every memory of the super, or banks 14 and 15 alone. -/
  whole : Bool
  /-- The run of start-up (R441). -/
  startup : Bool
  /-- Retention waits ended. -/
  waits : Nat
deriving DecidableEq, Repr

/-- The memories of a super beside their contents. -/
structure SramSt where
  run : Option MarchRun
  /-- Lines moved to spares, by memory, and kept across RESET_N (R439, R441). -/
  repairs : List (Nat × Nat)
  /-- Memories with a line beyond their spares, as bits (R439). -/
  unrepaired : Nat
  /-- A line that the data path uses is beyond repair: the store is disabled (R440). -/
  off : Bool
  /-- Words whose content is uncorrectable, by window offset. -/
  bad : List Nat
deriving DecidableEq, Repr

def SramSt.reset : SramSt := ⟨none, [], 0, false, []⟩

/-! ### DRAM channels (chapters 11 and 12) -/

/-- The ports of a channel with a queue (R365), coded as in DRAM_ECC_LOG: RT 0, DR 1, NB 2, HW 3, SC 4. -/
structure WriteReq where
  port : Nat
  /-- Piece number in the subchannel: byte offset ÷ 256. -/
  piece : Nat
  /-- First byte within the piece, and the bytes. -/
  start : Nat
  bytes : List Byte
  /-- 64-bit words of the piece, 0 to 31, that were poisoned (R407). -/
  poison : List Nat
deriving DecidableEq, Repr

/-- A read request waiting in a read queue. -/
structure ReadReq where
  port : Nat
  piece : Nat
deriving DecidableEq, Repr

/-- A subchannel of a channel. -/
structure SubSt where
  /-- WRITE mode (R369). -/
  writing : Bool
  wq : List WriteReq
  rq : List ReadReq
  /-- Activates of each port to each bank in the present window (R386), by port × 64 + rank × 32 + group × 4 + bank. -/
  acts : List (Nat × Nat)
  /-- Row activation tables (R388): by rank × 32 + group × 4 + bank, entries of row and count. -/
  rows : List (Nat × List (Nat × Nat))
  /-- Ranks in power-down (R383). -/
  down : List Nat
  /-- The retry buffer: commands not acknowledged, oldest first, at most 64 (R410). -/
  retry : List (List Nat)
  /-- The next piece that scrub reads (R377). -/
  scrubAt : Nat
deriving DecidableEq, Repr

def SubSt.reset : SubSt := ⟨false, [], [], [], [], [], [], 0⟩

/-- A DRAM channel, beside its registers. -/
structure ChanSt where
  subA : SubSt
  subB : SubSt
  /-- The DIMM found at the last identification; the socket was found empty. -/
  dimm : Option Dimm
  empty : Bool
  /-- Hive time at which the present panic began, and ticks of earlier panics not yet counted as µs. -/
  panicAt : Option Nat
  panicRest : Nat
  /-- MR4 asks for HOT from the next refresh interval, and the readings at or below 85 °C since (R380). -/
  hotNext : Bool
  coolReads : Nat
  /-- Ports held in the present activate window and in the one before, as bits (R386). -/
  heldNow : Nat
  heldBefore : Nat
  /-- Hive time of the latest request (R384). -/
  lastRequest : Nat
  /-- The training under way is that of start-up. -/
  startup : Bool
  /-- Step of a periodic retraining under way: 0 none, 1 read eye, 2 write timing (R398). -/
  periodic : Nat
  /-- A periodic retraining is due and waits for a training slot; the slot granted is running (R398, R578). -/
  slotWanted : Bool
  slot : Bool
  /-- MR4 is to be read before any other access (R380). -/
  mr4Due : Bool
  /-- Training restarts at step 1 once the DPLL is LOCKED again (R400, R401). -/
  restart : Bool
  /-- The highest grade of a training that is the fallback of R403; 0 for another training. -/
  fallTo : Nat
  /-- ALERT_n is asserted; a replay is under way, with commands still to be acknowledged; failed replays in a row
  (R411, R412). -/
  alert : Bool
  replaying : Bool
  failedRun : Nat
  /-- Hive times of the uncorrectable words read within the last millisecond, newest first (R408). -/
  ueTimes : List Nat
  /-- Words stored with an error: word address (see `dramWordAt`), and b + 1 for an error of bit b alone, 73 for an
  uncorrectable one or a word written under R407. -/
  flaws : List (Nat × Nat)
deriving DecidableEq, Repr

def ChanSt.reset : ChanSt :=
  { subA := .reset, subB := .reset, dimm := none, empty := false, panicAt := none, panicRest := 0, hotNext := true,
    coolReads := 0, heldNow := 0, heldBefore := 0, lastRequest := 0, startup := false, periodic := 0, slotWanted := false,
    slot := false, mr4Due := false, restart := false,
    fallTo := 0, alert := false, replaying := false, failedRun := 0, ueTimes := [], flaws := [] }

/-! ### The host port (chapter 14) -/

/-- A command accepted from the command ring: its 64 bytes, and whether it stands for an entry whose TALLY was not the
one expected (R467), which `tally` gives. -/
structure HostCmd where
  tally : Nat
  bytes : List Byte
  badTally : Bool
deriving DecidableEq, Repr

/-- A drain descriptor accepted and not complete (R481). -/
structure DrainDesc where
  tally : Nat
  super : Nat
  irq : Bool
  hdrOnly : Bool
  count : Nat
  first : Nat
  addr : Nat
  /-- Blocks delivered, and the POISON and TORN masks so far (R484, R485). -/
  delivered : Nat
  poison : Nat
  torn : Nat
deriving DecidableEq, Repr

/-- A completion produced and not yet written: its bytes, its IRQ flag (R478). -/
structure Completion where
  cseq : Nat
  bytes : List Byte
  irq : Bool
  /-- PARTIAL, for the drain partial event. -/
  partialDrain : Bool
deriving DecidableEq, Repr

/-- A piece of the block that a drain reader is reading: its number in the block, its bytes and its uncorrectable
words. -/
structure StagedPiece where
  piece : Nat
  bytes : List Byte
  bad : Bool
deriving DecidableEq, Repr

/-- The drain reader of a super: pieces read of its next block, and whether the RT port wrote the block since the first
of them (R484). -/
structure DrainSt where
  staged : List StagedPiece
  torn : Bool
deriving DecidableEq, Repr

def DrainSt.reset : DrainSt := ⟨[], false⟩

/-- The host port, beside its registers (DESIGN CHOICE, log entry 102). -/
structure HostSt where
  /-- Commands accepted and not begun, oldest first. -/
  accepted : List HostCmd
  /-- A FENCE under way: its command, and the drain tallies it waits for (R473). -/
  fence : Option (HostCmd × List Nat)
  /-- Drain descriptors accepted and not complete, in tally order. -/
  drains : List DrainDesc
  /-- Drain tallies above HOST_DRN_DONE that have produced their completion (R483). -/
  doneAhead : List Nat
  /-- Completions waiting for the completion ring, oldest first. -/
  waiting : List Completion
  readers : List (Nat × DrainSt)
  /-- Bus Master Enable, and the function in D3hot (R454). -/
  bme : Bool
  d3 : Bool
  /-- A retrain of the link is still to be reported (R488). -/
  linkNews : Bool
  /-- Base-2 logarithm of the BAR2 size (R452). -/
  bar2Log2 : Nat
  /-- Configuration space answers (R611). -/
  configured : Bool
deriving DecidableEq, Repr

def HostSt.reset : HostSt :=
  { accepted := [], fence := none, drains := [], doneAhead := [], waiting := [], readers := [], bme := false,
    d3 := false, linkNews := false, bar2Log2 := 30, configured := false }

/-! ### Events (chapter 15) -/

/-- An event record on its way to the event queue (R500); its TALLY is given when it enters (R501). -/
structure EvRec where
  time : Nat
  source : Nat
  forced : Bool
  coalesced : Bool
  detail : Nat
deriving DecidableEq, Repr

/-- The event machinery beside its registers. -/
structure EventSt where
  /-- Records raised and not yet in the event queue, oldest first. -/
  flight : List EvRec
  /-- Hive time at which each source's latest record was produced (R504). -/
  lastRec : List (Nat × Nat)
  /-- Unrecorded raises of a source in its hold-off: time of the first, COUNT after the last (R504). -/
  unrec : List (Nat × (Nat × Nat))
  /-- Records dropped since the last source-46 record: how many, and TIME of the first (R508). -/
  dropped : Option (Nat × Nat)
  /-- The present run of waiting for ring space has been reported (R507). -/
  waitTold : Bool
  /-- Groups with a ready cause on their vector (R512). -/
  ready : List Nat
  /-- Hive time of each vector's last message (R513). -/
  lastMsg : List (Nat × Nat)
deriving DecidableEq, Repr

def EventSt.reset : EventSt := ⟨[], [], [], none, false, [], []⟩

/-! ### The apiary ring (chapter 16) -/

/-- A leader claim (R526): priority and UID. -/
structure Claim where
  priority : Nat
  uid : Nat
deriving DecidableEq, Repr

/-- What a hive launches in a container (R521): kind 1 FLAG, 2 TIME, 3 CTRL; the BODY of head and of the four BODY
words; for CTRL its TYPE; and the loops on which it is still to be launched. -/
structure RingMsg where
  kind : Nat
  type : Nat
  body : List Nat
  loops : List Nat
deriving DecidableEq, Repr

/-- One ring input: 0 ring A, 1 ring B. -/
structure RingIn where
  /-- Version set of the neighbour, and the claim pieces received in the present cycle. -/
  versions : Nat
  pri : Nat
  uid : Nat
  /-- The claim last received whole. -/
  claim : Option Claim
  /-- Probe that measures the hop into this input: its sequence, when it left, and when its ECHO came (R528). -/
  probe : Nat
  sentAt : Option Nat
  echoAt : Option Nat
  holdLo : Nat
deriving DecidableEq, Repr

def RingIn.reset : RingIn := ⟨0, 0, 0, none, 0, none, none, 0⟩

/-- The RING page's block beside its registers. -/
structure RingSt where
  inA : RingIn
  inB : RingIn
  /-- RING_CTRL.VERSIONS, PRIORITY and LEADER_OK and RING_AF_DELAY as the present forming took them (R525). -/
  versions : Nat
  own : Option Claim
  leastDelay : Nat
  /-- The best claim held, and hive time since which the own claim is best on both inputs (R526). -/
  best : Option Claim
  standing : Option Nat
  /-- Tallies of the next FLAG, CTRL and TIME container (R521, R524). -/
  flagTally : Nat
  ctrlTally : Nat
  timeTally : Nat
  /-- The flag action being launched; messages waiting to be launched; own containers on the loops, by loop (R523). -/
  flag : Option RingMsg
  ctrl : List RingMsg
  onLoop : List (Nat × RingMsg)
  /-- Containers acted on lately: sender, kind and tally, newest first (R524). -/
  acted : List (Nat × Nat × Nat)
  /-- Latest FLAG tally of each sender. -/
  lastFlag : List (Nat × Nat)
  /-- Flag actions noted for their delivery beat, in order of receipt (R538). -/
  noted : List AfAct
  /-- Delays from the leader on rings A and B by the latest PATH (R533). -/
  path : Option (Nat × Nat)
  /-- Hop delays that the leader holds, by position: into ring A and ring B inputs (R532). -/
  reports : List (Nat × (Nat × Nat))
  /-- Unpadded loop time in ns, as the leader found it. -/
  loopNs : Nat
  /-- Hive time of the latest TIME container, and how many in a row showed more than 4 ticks (R527, R536). -/
  lastTime : Nat
  offSteps : Nat
  /-- An offset has been computed since the latest forming. -/
  offset : Option Int
  /-- Hive time at which LEAVE was asked for (R548). -/
  leaving : Option Nat
deriving DecidableEq, Repr

def RingSt.reset : RingSt :=
  { inA := .reset, inB := .reset, versions := 0, own := none, leastDelay := 0, best := none, standing := none,
    flagTally := 0, ctrlTally := 0, timeTally := 0, flag := none, ctrl := [], onLoop := [], acted := [], lastFlag := [],
    noted := [], path := none, reports := [], loopNs := 0, lastTime := 0, offSteps := 0, offset := none,
    leaving := none }

/-! ### The Reeve and the supply (chapter 17) -/

/-- The Reeve, beside its registers. -/
structure ReeveSt where
  /-- Reservoir level E in 1/1,024 mJ (R558). -/
  energy : Nat
  /-- SUSTAIN in 0.25 W, RESERVE_J and IVR_ILIM as they act in the period under way (R559). -/
  sustain : Nat
  reserve : Nat
  ilim : Nat
  /-- `run` and `quiet` of R575. -/
  run : Nat
  quiet : Nat
  /-- Periods measured since cold start, up to 10,000 (R563). -/
  periods : Nat
  /-- Wear buckets in units of 100 µs, the current hour first, at most 168 (R571). -/
  wear : List Nat
  /-- Typical sum of the take's units in 1/8 mW (R564). -/
  typical : Nat
  /-- Measured input energies of the take's periods, newest first, at most 1,000, and the greatest sum of 1,000
  consecutive ones (R564). -/
  energies : List Nat
  best : Nat
  /-- Energies of the latest ten periods, newest first, of each super and, at index 8, of the shared units (R566). -/
  shares : List (Nat × List Nat)
  /-- Hive time at which step 1 was taken last. -/
  pausedAt : Nat
  /-- Target supers of steps 2, 3 and 4, as far as those are in force (R574). -/
  targets : List (List Nat)
  /-- Paces of steps 3 and 4 when they were taken (R573). -/
  drainPace : Nat
  rtPace : Nat
  /-- VCORE phases dropped, as 4 × super + phase (R555). -/
  phases : List Nat
  /-- A thermal shutdown has happened since RESET_N was last released (R570, R577). -/
  shutdown : Bool
  /-- The balls ALERT_N and THERM_N are driven low (R577). -/
  alertLow : Bool
  thermLow : Bool
deriving DecidableEq, Repr

def ReeveSt.reset : ReeveSt :=
  { energy := 2048000000, sustain := 0x3C0, reserve := 2000, ilim := 80, run := 0, quiet := 0, periods := 0,
    wear := [], typical := 0, energies := [], best := 0, pausedAt := 0, shares := [], targets := [], drainPace := 0, rtPace := 0,
    phases := [], shutdown := false, alertLow := false, thermLow := false }

/-! ### Start-up, resets, SMBus and the TAP (chapters 19 and 20) -/

/-- How far start-up and the resets have come (R609 to R618). -/
structure BootSt where
  /-- RESET_N is asserted. -/
  resetN : Bool
  /-- PERST_N is asserted; its page reset is still to come (R617). -/
  perst : Bool
  perstDue : Bool
  /-- VIN lies above the limit of R554, and VSTBY is present. -/
  vin : Bool
  vstby : Bool
  /-- The rails are to go off at this hive time (R555, R570); they are off until RESET_N is released (R555). -/
  railsOffAt : Option Nat
  railsOff : Bool
  /-- STRAP0 and STRAP1 as sampled (R637). -/
  straps : Nat
  /-- Step 3 has ended in this start-up; the march runs of step 5 have been started. -/
  clocks : Bool
  marching : Bool
  /-- Supers whose start-up march run, and whose channels' steps 6 and 7, are still to end. -/
  marchOwed : List Nat
  trainOwed : List Nat
  /-- Supers that receive no sideband beats (R624). -/
  cutOff : List Nat
deriving DecidableEq, Repr

/-- Right after a cold start: VIN is up, no VSTBY, PERST_N held asserted by the board (R611). -/
def BootSt.reset : BootSt :=
  { resetN := false, perst := true, perstDue := false, vin := true, vstby := false, railsOffAt := none,
    railsOff := false, straps := 0, clocks := false, marching := false, marchOwed := List.range 8, trainOwed := List.range 8,
    cutOff := [] }

/-- A die-to-die port direction (R34, R35): lanes failed, and a repair under way. -/
structure DieSt where
  failed : Nat
  repairing : Bool
deriving DecidableEq, Repr

def DieSt.reset : DieSt := ⟨0, false⟩

/-- The SMBus slave and the TAP (R638 to R641). -/
structure PortSt where
  /-- Pointer into the hive region (R638). -/
  pointer : Nat
  /-- TAP: the instruction loaded, and TRST_N low (R640, R641). -/
  instruction : TapInstr
  trst : Bool
deriving DecidableEq, Repr

def PortSt.reset : PortSt := ⟨0, .idcode, false⟩

/-! ### The Noticeboard (chapter 18) -/

/-- How far an eDP output has come (R584). -/
inductive OutStage where
  | off | training | waiting | up | failed
deriving DecidableEq, Repr

/-- An eDP output. -/
structure OutSt where
  stage : OutStage
  /-- Failed trainings since its enable, or since the loss that it retrains after. -/
  tries : Nat
  /-- Hive time at which it trains again, or at which its panel's lane status is read next. -/
  due : Nat
deriving DecidableEq, Repr

def OutSt.reset : OutSt := ⟨.off, 0, 0⟩

/-- A piece of the framebuffer in the line buffer: its number in the frame under way, counted on into the next one; its
bytes; and its 64-bit words that arrived poisoned. -/
structure FbPiece where
  index : Nat
  bytes : List Byte
  bad : List Nat
deriving DecidableEq, Repr

/-- The Noticeboard, beside its registers. -/
structure BoardSt where
  outA : OutSt
  outB : OutSt
  /-- Hive time at which line 0 of the frame under way began, and at which its line VACTIVE did. -/
  frameAt : Nat
  blankAt : Option Nat
  /-- The frame under way shows the background alone (R596, R598). -/
  background : Bool
  /-- NO_FB changed while the active lines of the frame under way were scanned. -/
  mixed : Bool
  /-- The line buffer, with the pieces of the frame under way that have been scanned, and the next piece to fetch. -/
  pieces : List FbPiece
  fetchAt : Nat
  /-- A fetch is under way, until the line buffer is full (R588). -/
  fetching : Bool
  /-- Lines of the frame under way that underran, each with its first pixel lacking (R591). -/
  underruns : List (Nat × Nat)
  /-- Pre-serialiser CRC of the frame under way, once its active lines are over and while FRAME_CRC is to come. -/
  sent : Option Nat
  /-- Pre-serialiser CRC of the frame before, and how many frames in a row have had that of the frame before (R599). -/
  lastCrc : Option Nat
  same : Nat
  /-- A TE edge has come for the frame to begin, or its time has run out (R602). -/
  teCame : Bool
  /-- Hive time of the COMMIT that waits (R594). -/
  commitAt : Nat
  /-- BOARD_APPLIED and its event are still to come; framebuffer data is to be discarded at line 0 (R595). -/
  appliedOwed : Bool
  refetch : Bool
  /-- Stored painter codes, by 2,048 × strip + column; 0 is LO (R605). -/
  codes : List (Nat × Nat)
  /-- A stored code changed while the active lines of the frame under way were scanned. -/
  painted : Bool
deriving DecidableEq, Repr

def BoardSt.reset : BoardSt :=
  { outA := .reset, outB := .reset, frameAt := 0, blankAt := none, background := true, mixed := false, pieces := [],
    fetchAt := 0, fetching := false, underruns := [], sent := none, lastCrc := none, same := 0, teCame := false, commitAt := 0,
    appliedOwed := false, refetch := false, codes := [], painted := false }

/-! ### The whole hive -/

/-- The state of the hive and the queue of waiting commands (DEDUCED, log entry 136). -/
structure State where
  fuse : Fuse
  /-- Registers by BAR0 offset: direct fields, and the active copy of shadowed fields (R61). -/
  act : List (Nat × Word)
  /-- The shadow copy of shadowed fields, by BAR0 offset (R61). -/
  shd : List (Nat × Word)
  /-- High words latched by a read of the low word of a pair (R69), by BAR0 offset of the high word. -/
  latched : List (Nat × Word)
  /-- High words written and held until the low word is written (R69). -/
  held : List (Nat × Word)
  /-- Hive time of S0 in ticks, modulo 2^64 (R78), whether it has started (R79), and the copy of each super. -/
  hiveTime : Nat
  timeRuns : Bool
  superTime : List (Nat × Nat)
  /-- A load of hive time has been requested (R84), and its value. -/
  loadWanted : Option Nat
  /-- The last accepted TURN_MARK edge (R87). -/
  turnAt : Option Nat
  /-- Supers whose intake is stopped, with the first slot not taken in (R109, R658). -/
  stopped : List (Nat × Nat)
  plls : List (Nat × PllSt)
  pods : List (Nat × PodSt)
  frames : List (Nat × FrameSt)
  scouts : List (Nat × ScoutSt)
  seqs : List (Nat × SeqSt)
  take : TakeSt
  streams : List (Nat × StreamSt)
  stores : List (Nat × StoreSt)
  ev : EventSt
  /-- Bus Master Enable in D0: the hive may issue requests (R454). -/
  busMaster : Bool
  /-- TRIG_IN transitions, newest first, and the level of each TRIG_OUT before INVERT with the tick at which its pulse
  ends (R252, R253). -/
  trigIn : List PinEdge
  trigOut : List (Nat × (Bool × Option Nat))
  sides : List (Nat × SideSt)
  /-- Apiary flag actions by the sample beat for which they are applied, newest first (R538). -/
  afLog : List AfAct
  /-- Flag actions waiting to be launched on the ring, oldest first: `beat` is the delivery beat (R537). -/
  afQueue : List AfAct
  /-- Queues by index (R342): 10 × super + instance, and 80 and 81 for the drain and event queues. -/
  queues : List (Nat × QueueSt)
  /-- SRAM contents by super × 2^23 + window offset (R71), and the rest of each super's memory. -/
  sram : List (Nat × Byte)
  srams : List (Nat × SramSt)
  /-- What unwritten bytes of each super's working regions date from: 0 for the zeros of R437, else which time the data
  path took the regions over (R424). -/
  sramEpoch : List (Nat × Nat)
  /-- DRAM contents by channel, subchannel and byte offset, and the channels. -/
  dram : List (Nat × Byte)
  chans : List (Nat × ChanSt)
  /-- What unwritten bytes of each channel date from: 0 for the zeros of R396, else which loss of its contents. -/
  dramEpoch : List (Nat × Nat)
  host : HostSt
  /-- Latency tolerance that the Noticeboard states, in µs; 0xFFFF unlimited (R384). -/
  nbTolerance : Nat
  ring : RingSt
  reeve : ReeveSt
  boot : BootSt
  /-- Lanes of the die-to-die ports, by 2 × link + direction: 0 from the lower-numbered super to the higher, 1 back. -/
  dies : List (Nat × DieSt)
  ports : PortSt
  board : BoardSt
  /-- Free values drawn so far: the argument of the next one. -/
  frees : Nat
  /-- What the hive has sent, newest first. -/
  out : List Out
  /-- Commands waiting, the oldest at the front. -/
  pending : List Instr
deriving DecidableEq, Repr

/-- The hive right after the reset of a cold start: every register at its reset value, every memory and queue empty,
hive time not started. The part is an LW8F of stepping 0x00 with UID 1
(DESIGN CHOICE, log entry 2; DESIGN CHOICE, log entry 5). -/
def State.reset : State :=
  { fuse := ⟨.lw8f, 0, 1⟩, act := [], shd := [], latched := [], held := [], hiveTime := 0, timeRuns := false,
    superTime := [], loadWanted := none, turnAt := none, stopped := [], plls := [], pods := [], frames := [],
    scouts := [], seqs := [], take := .reset, streams := [], stores := [], ev := .reset,
    busMaster := false,
    trigIn := [], trigOut := [], sides := [], afLog := [], afQueue := [],
    queues := [], sram := [], srams := [], sramEpoch := [], dram := [], chans := [], dramEpoch := [], host := .reset,
    nbTolerance := 0xFFFF,
    ring := .reset,
    reeve := .reset, boot := .reset, dies := [], ports := .reset,
    board := .reset,
    frees := 0, out := [], pending := [] }

end Sys2Proof.Machine
end

