-- ==== Sys2Proof/Machine/Ops.lean ====
section
/-!
DEFINITION. The named operations over registers, unit tables, hive time and what the hive sends: every meaning reads
and writes the state through these.
-/
namespace Sys2Proof.Machine

/-! ### Registers -/

/-- The word of a register at a BAR0 offset: direct fields, and active values of shadowed fields. -/
def State.word (s : State) (a : Nat) : Word := sget (resetWord s.fuse) s.act a

/-- The shadow word of a register at a BAR0 offset (R61). -/
def State.shadow (s : State) (a : Nat) : Word := sget (resetWord s.fuse) s.shd a

/-- A register word replaced. -/
def State.setWord (s : State) (a : Nat) (w : Word) : State :=
  { s with act := sput (resetWord s.fuse) s.act a w }

/-- A shadow word replaced. -/
def State.setShadow (s : State) (a : Nat) (w : Word) : State :=
  { s with shd := sput (resetWord s.fuse) s.shd a w }

/-- The current (active) value of a field. -/
def State.getF (s : State) (p : Page) (f : Fld) : Nat :=
  bitsOf (s.word (pageBase p + f.off)).toNat f.hi f.lo

/-- The shadow value of a field. -/
def State.getShadowF (s : State) (p : Page) (f : Fld) : Nat :=
  bitsOf (s.shadow (pageBase p + f.off)).toNat f.hi f.lo

/-- A field is 1. -/
def State.isSet (s : State) (p : Page) (f : Fld) : Bool := s.getF p f != 0

/-- The hardware gives a field a value. -/
def State.putF (s : State) (p : Page) (f : Fld) (v : Nat) : State :=
  s.setWord (pageBase p + f.off) (setBits (s.word (pageBase p + f.off)) f.hi f.lo v)

/-- The shadow of a field takes a value. -/
def State.putShadowF (s : State) (p : Page) (f : Fld) (v : Nat) : State :=
  s.setShadow (pageBase p + f.off) (setBits (s.shadow (pageBase p + f.off)) f.hi f.lo v)

/-- `n` is added to a counter that saturates at the width of its field. -/
def State.bump (s : State) (p : Page) (f : Fld) (n : Nat) : State :=
  s.putF p f (satAdd (f.hi + 1 - f.lo) (s.getF p f) n)

/-- Bit `i` of a field of bits becomes 1. -/
def State.setBitF (s : State) (p : Page) (f : Fld) (i : Nat) : State :=
  s.putF p f (s.getF p f ||| 2 ^ i)

/-- Bit `i` of a field of bits takes a value. -/
def State.putBitF (s : State) (p : Page) (f : Fld) (i : Nat) (b : Bool) : State :=
  s.putF p f (withBit (s.getF p f) i b)

/-- The value of a pair of fields, low word first (R69). -/
def State.getPair (s : State) (p : Page) (lo hi : Fld) : Nat :=
  s.getF p lo + 2 ^ 32 * s.getF p hi

/-- The hardware gives a pair of fields a value. -/
def State.putPair (s : State) (p : Page) (lo hi : Fld) (v : Nat) : State :=
  (s.putF p lo v).putF p hi (v >>> 32)

/-- The page's block is enabled: the active PAGE_CTRL.ENABLE. -/
def State.enabled (s : State) (p : Page) : Bool :=
  pagePresent s.fuse.part p && s.isSet p R.PAGE_CTRL_ENABLE

/-- BAR0 offsets in the page that a table lists. -/
def pageKeys (b : Nat) (m : List (Nat × Word)) : List Nat :=
  (m.filter (fun e => decide (b ≤ e.1) && decide (e.1 < b + 0x800))).map Prod.fst

/-- The bits chosen by `sel` are copied from the shadow of the page to its active copy, in one step (R62). -/
def State.copyToActive (sel : Page → Nat → Word) (s : State) (p : Page) : State :=
  let b := pageBase p
  (pageKeys b s.shd ++ pageKeys b s.act).foldl
    (fun t a => t.setWord a (mergeBits (sel p (a - b)) (t.word a) (t.shadow a))) s

/-- The active values of the page are copied into its shadow (DISCARD). -/
def State.copyToShadow (s : State) (p : Page) : State :=
  let b := pageBase p
  (pageKeys b s.shd ++ pageKeys b s.act).foldl
    (fun t a => t.setShadow a (mergeBits (shadowMask p (a - b)) (t.shadow a) (t.word a))) s

/-- Some shadow bit chosen by `sel` differs from its active value. -/
def State.differs (sel : Page → Nat → Word) (s : State) (p : Page) : Bool :=
  let b := pageBase p
  (pageKeys b s.shd ++ pageKeys b s.act).any
    (fun a => ((s.word a ^^^ s.shadow a) &&& sel p (a - b)) != 0)

/-- SHADOW_STATUS.DIRTY follows the difference between shadow and active copy. -/
def State.settleDirty (s : State) (p : Page) : State :=
  s.putF p R.SHADOW_STATUS_DIRTY (flag (s.differs shadowMask p))

/-- One more apply of the page, modulo 256 (SHADOW_STATUS.APPLY_COUNT). -/
def State.countApply (s : State) (p : Page) : State :=
  s.putF p R.SHADOW_STATUS_APPLY_COUNT (s.getF p R.SHADOW_STATUS_APPLY_COUNT + 1)

/-- Registers of a page from offset `lo` up to, but not including, `hi` return to their reset words. -/
def State.clearRegs (s : State) (p : Page) (lo hi : Nat) : State :=
  let b := pageBase p
  let inside := fun a => decide (b + lo ≤ a) && decide (a < b + hi)
  { s with act := sclear s.act inside, shd := sclear s.shd inside,
           latched := sclear s.latched inside, held := sclear s.held inside }

/-- The high word of a pair is held, or no longer held, until the low word is written (R69). -/
def State.holdWord (s : State) (a : Nat) (w : Word) : State :=
  { s with held := sinsert (serase s.held a) a w }
def State.unhold (s : State) (a : Nat) : State := { s with held := serase s.held a }

/-- The high word of a pair is latched, or no longer latched, for the read that follows (R69). -/
def State.latchWord (s : State) (a : Nat) (w : Word) : State :=
  { s with latched := sinsert (serase s.latched a) a w }
def State.unlatch (s : State) (a : Nat) : State := { s with latched := serase s.latched a }

/-- Every register of the hive returns to its reset word, the always-on ones too. -/
def State.blankRegs (s : State) : State := { s with act := [] }

/-- Every register of a page returns to its reset word (R58). -/
def State.clearPage (s : State) (p : Page) : State := s.clearRegs p 0 0x1000

/-- Bit `b` of PAGE_STATUS.BLOCK_STATUS, as the chapters number it from 16. -/
def blockBit (b : Nat) : Fld := ⟨0x00C, b, b⟩

/-! ### Units -/

/-- The table index of a unit: global frame, pod and scout numbers s × 8 + k (00_scope.md). -/
def unitIx (s k : Nat) : Nat := 8 * s + k

/-- The table index of a PLL: hive PLLs 0 to 3, then three for each super. -/
def pllIx : Page → Nat
  | .pll i => i
  | .spll s k => 4 + 3 * s + k
  | _ => 1000

def State.pll (s : State) (p : Page) : PllSt := sget (fun _ => PllSt.reset) s.plls (pllIx p)
def State.setPll (s : State) (p : Page) (x : PllSt) : State :=
  { s with plls := sput (fun _ => PllSt.reset) s.plls (pllIx p) x }

def State.pod (s : State) (u f : Nat) : PodSt := sget (fun _ => PodSt.reset) s.pods (unitIx u f)
def State.setPod (s : State) (u f : Nat) (x : PodSt) : State :=
  { s with pods := sput (fun _ => PodSt.reset) s.pods (unitIx u f) x }

def State.frame (s : State) (u f : Nat) : FrameSt := sget (fun _ => FrameSt.reset) s.frames (unitIx u f)
def State.setFrame (s : State) (u f : Nat) (x : FrameSt) : State :=
  { s with frames := sput (fun _ => FrameSt.reset) s.frames (unitIx u f) x }

def State.scout (s : State) (u k : Nat) : ScoutSt := sget (fun _ => ScoutSt.reset) s.scouts (unitIx u k)
def State.setScout (s : State) (u k : Nat) (x : ScoutSt) : State :=
  { s with scouts := sput (fun _ => ScoutSt.reset) s.scouts (unitIx u k) x }

/-- The sequencer of super `u`, or the hive sequencer at index 8. -/
def State.seq (s : State) (u : Nat) : SeqSt := sget (fun _ => SeqSt.reset) s.seqs u
def State.setSeq (s : State) (u : Nat) (x : SeqSt) : State :=
  { s with seqs := sput (fun _ => SeqSt.reset) s.seqs u x }

/-- The page of a sequencer: index 8 is the hive's. -/
def seqPage (u : Nat) : Page := if u = 8 then .hseq else .sseq u

/-- STREAM_ID (R285). -/
def streamNumber : StreamId → Nat
  | .frame s f => 0x1000 + 8 * s + f
  | .scout s => 0x2000 + s
  | .mark => 0x3000

/-- The super whose store keeps the stream; the mark stream is S0's. -/
def streamSuper : StreamId → Nat
  | .frame s _ => s
  | .scout s => s
  | .mark => 0

def State.stream (s : State) (i : StreamId) : StreamSt :=
  sget (fun _ => StreamSt.reset) s.streams (streamNumber i)
def State.setStream (s : State) (i : StreamId) (x : StreamSt) : State :=
  { s with streams := sput (fun _ => StreamSt.reset) s.streams (streamNumber i) x }

def State.store (s : State) (u : Nat) : StoreSt := sget (fun _ => StoreSt.reset) s.stores u
def State.setStore (s : State) (u : Nat) (x : StoreSt) : State :=
  { s with stores := sput (fun _ => StoreSt.reset) s.stores u x }

/-- The supers present on the part, S0 first. -/
def State.supers (s : State) : List Nat := List.range s.fuse.part.supers

/-- The streams a hive of this part may write, in order of STREAM_ID. -/
def State.allStreams (s : State) : List StreamId :=
  s.supers.flatMap (fun u => (List.range 8).map (StreamId.frame u)) ++ s.supers.map StreamId.scout ++ [.mark]

/-! ### Hive time (R76 to R82) -/

/-- The modulus of a timestamp (R78). -/
def timeModulus : Nat := 2 ^ 64

/-- Ticks in a microsecond at the nominal hive clock (R76, R196). -/
def ticksPerUs : Nat := 12800

/-- The copy of hive time that super `u` keeps (R80). -/
def State.timeOf (s : State) (u : Nat) : Nat := sget (fun _ => 0) s.superTime u

/-- Super `u` loads its copy of hive time. -/
def State.setTimeOf (s : State) (u t : Nat) : State :=
  { s with superTime := sput (fun _ => 0) s.superTime u (t % timeModulus) }

/-- Hive time and every copy of it move on by `d` ticks. -/
def State.tick (s : State) (d : Nat) : State :=
  { s with
    hiveTime := (s.hiveTime + d) % timeModulus
    superTime := (s.supers.foldl
      (fun m u => sput (fun _ => 0) m u ((sget (fun _ => 0) m u + d) % timeModulus)) s.superTime) }

/-- Hive time moves on to `t` when `t` is still to come: the instant at which a command happens. -/
def State.advanceTo (s : State) (t : Nat) : State :=
  if s.hiveTime < t then s.tick (t - s.hiveTime) else s

/-- Hive time and every copy of it are set to one value (R84) (DESIGN CHOICE, log entry 40). -/
def State.loadTime (s : State) (t : Nat) : State :=
  { s with
    hiveTime := t % timeModulus
    superTime := s.supers.foldl (fun m u => sput (fun _ => 0) m u (t % timeModulus)) s.superTime }

/-- The beat that holds a tick, and its first tick (R77). -/
def beatOf (t : Nat) : Nat := t / 32

/-- The first tick of the first beat that begins at or after a tick. -/
def beatUp (t : Nat) : Nat := ceilDiv t 32 * 32

/-! ### Sending, and free values -/

/-- The hive sends something (DESIGN CHOICE, log entry 133). -/
def State.emit (s : State) (o : Out) : State := { s with out := o :: s.out }

/-- One more free value is drawn: its argument, and the state after (DESIGN CHOICE, log entry 9). -/
def State.drawFree (s : State) : Nat × State := (s.frees, { s with frees := s.frees + 1 })

/-! ### The take's state (R263) -/

/-- HIVE_TAKE_STATE.STATE. -/
def State.takeState (s : State) : Nat := s.getF .hive R.HIVE_TAKE_STATE_STATE

def State.setTakeState (s : State) (v : Nat) : State := s.putF .hive R.HIVE_TAKE_STATE_STATE v

/-- The take is ARMED, RUNNING or TRIGGERED: "during a take" throughout the spec. -/
def State.inTake (s : State) : Bool := s.takeState == 1 || s.takeState == 2 || s.takeState == 3

/-- The take is RUNNING or TRIGGERED: slots are taken in. -/
def State.taking (s : State) : Bool := s.takeState == 2 || s.takeState == 3

end Sys2Proof.Machine
end

