-- ==== Sys2Proof/Machine/Raise.lean ====
section
/-!
DEFINITION. Raising events (chapter 15): STICKY and COUNT, records and their coalescing, groups and MSI-X messages.
-/
namespace Sys2Proof.Machine

/-- Where the parts of a source lie: page, offsets of its STICKY and ENABLE words, its bit and its COUNT. -/
structure SourceAt where
  page : Page
  sticky : Nat
  enable : Nat
  bit : Nat
  count : Fld
deriving DecidableEq, Repr

/-- Page source `n` of a page (R54, R492). -/
def pageSource (p : Page) (n : Nat) : SourceAt := ⟨p, 0x014, 0x018, n, R.EV_COUNT n⟩

/-- Link bank source `i` of the EVENTS page (R499). -/
def bankSource (i : Nat) : SourceAt :=
  ⟨.events, 0x244, 0x248, i,
    if i % 2 = 0 then R.EVENTS_LINK_COUNT_LO (i / 2) else R.EVENTS_LINK_COUNT_HI (i / 2)⟩

/-- The number of page source `n` (R497 to R499) (DEDUCED, log entry 135). -/
def sourceNumber (p : Page) (n : Nat) : Nat :=
  let sup (s i : Nat) : Nat := 128 + 144 * s + i
  match p with
  | .hive => n
  | .host => 34 + n
  | .hqueue i => if i = 0 then 39 + n else 42 + n
  | .events => 45 + n
  | .pll i => if i = 0 then 47 + n else 48 + 2 * i + n
  | .hseq => 56 + n
  | .reeve => 66 + n
  | .ivr => 74 + n
  | .ring => 82 + n
  | .board => 94 + n
  | .frame s f => sup s (6 * f + n)
  | .pod s f => sup s (48 + 4 * f + n)
  | .scout s k => sup s (80 + k)
  | .sseq s => sup s (88 + n)
  | .waggle s => sup s (104 + n)
  | .press s => sup s (112 + n)
  | .queue s _ => sup s (120 + n)
  | .dram s k => sup s (124 + 8 * k + n)
  | .sram s => sup s (140 + n)
  | .spll s _ => sup s (142 + n)

/-- The page and page source of local index `i` of super `s` (R498). -/
def superSource (s i : Nat) : Option SourceAt :=
  if i < 48 then some (pageSource (.frame s (i / 6)) (i % 6))
  else if i < 80 then some (pageSource (.pod s ((i - 48) / 4)) ((i - 48) % 4))
  else if i < 88 then some (pageSource (.scout s (i - 80)) 0)
  else if i < 97 then some (pageSource (.sseq s) (i - 88))
  else if i < 104 then none
  else if i < 106 then some (pageSource (.waggle s) (i - 104))
  else if i < 112 then none
  else if i < 117 then some (pageSource (.press s) (i - 112))
  else if i < 120 then none
  else if i < 124 then some (pageSource (.queue s 0) (i - 120))
  else if i < 140 then some (pageSource (.dram s ((i - 124) / 8)) ((i - 124) % 8))
  else if i < 142 then some (pageSource (.sram s) (i - 140))
  else if i < 144 then some (pageSource (.spll s 0) (i - 142))
  else none

/-- The source with a number (R497 to R499); numbers that are not assigned have none. -/
def sourceOf (n : Nat) : Option SourceAt :=
  if n < 4 then some (pageSource .hive n)
  else if n < 34 then some (bankSource (n - 4))
  else if n < 39 then some (pageSource .host (n - 34))
  else if n < 42 then some (pageSource (.hqueue 0) (n - 39))
  else if n < 45 then some (pageSource (.hqueue 1) (n - 42))
  else if n < 47 then some (pageSource .events (n - 45))
  else if n < 50 then some (pageSource (.pll 0) (n - 47))
  else if n < 52 then some (pageSource (.pll 1) (n - 50))
  else if n < 54 then some (pageSource (.pll 2) (n - 52))
  else if n < 56 then some (pageSource (.pll 3) (n - 54))
  else if n < 66 then some (pageSource .hseq (n - 56))
  else if n < 74 then some (pageSource .reeve (n - 66))
  else if n < 82 then some (pageSource .ivr (n - 74))
  else if n < 94 then some (pageSource .ring (n - 82))
  else if n < 102 then some (pageSource .board (n - 94))
  else if n < 128 then none
  else if n < 1280 then superSource ((n - 128) / 144) ((n - 128) % 144)
  else none

/-- The group of a source (R511). -/
def groupOf (n : Nat) : Option Nat :=
  if n < 4 then some 2
  else if n < 34 then some 3
  else if n = 34 then some 0
  else if n < 47 then some 1
  else if n < 56 then some 4
  else if n < 66 then some 2
  else if n < 82 then some 5
  else if n < 94 then some 6
  else if n < 102 then some 7
  else if n < 128 then none
  else
    let s := (n - 128) / 144
    let i := (n - 128) % 144
    let m := if i < 88 then 0 else if i < 112 then 1 else if i < 120 then 2
      else if i < 124 then 3 else if i < 140 then 4 else 5
    if s < 8 then some (8 + 6 * s + m) else none

/-- The sources that coalescing leaves alone (R505). -/
def neverCoalesced (n : Nat) : Bool :=
  decide (n < 4) || n == 34 || n == 46 || (decide (56 ≤ n) && decide (n < 66))
    || (decide (128 ≤ n) && decide (88 ≤ (n - 128) % 144) && decide ((n - 128) % 144 < 96))

/-- The origin of a source's records for the order of R502: 8 for S0 and the hive, else the super. -/
def sourceOrigin (n : Nat) : Nat :=
  if n < 128 then 8 else if (n - 128) / 144 = 0 then 8 else (n - 128) / 144

/-- The source's page is present, and for the link bank its link is (R9, R36). -/
def sourcePresent (p : Part) (n : Nat) : Bool :=
  match sourceOf n with
  | none => false
  | some a => pagePresent p a.page && (decide (n < 4) || decide (34 ≤ n) || linkPresent p ((n - 4) / 3))

/-- A record is produced: it leaves for the event queue, and a new hold-off starts (R504). -/
def State.produce (s : State) (r : EvRec) : State :=
  { s with ev := { s.ev with
      flight := s.ev.flight ++ [r]
      lastRec := sinsert (serase s.ev.lastRec r.source) r.source s.hiveTime } }

/-- The unrecorded raises of a source, if any, become one COALESCED record (R504). -/
def State.flushUnrec (s : State) (n : Nat) : State :=
  match (s.ev.unrec.find? (fun e => e.1 == n)) with
  | none => s
  | some e =>
    let t := { s with ev := { s.ev with unrec := serase s.ev.unrec n } }
    t.produce { time := e.2.1, source := n, forced := false, coalesced := true, detail := e.2.2 }

/-- The hold-off of R504 in ticks. -/
def State.holdoff (s : State) : Nat := s.getF .events R.EVENTS_COALESCE_HOLDOFF_US * ticksPerUs

/-- The source's latest record is less than the hold-off old. -/
def State.inHoldoff (s : State) (n : Nat) : Bool :=
  !neverCoalesced n && s.holdoff != 0 &&
    match s.ev.lastRec.find? (fun e => e.1 == n) with
    | none => false
    | some e => decide (s.hiveTime - e.2 < s.holdoff)

/-- The vector of a group: EVENTS_GROUPg.VECTOR (R511). -/
def State.vectorOf (s : State) (g : Nat) : Nat := s.getF .events (R.EVENTS_GROUP_VECTOR g)

/-- A vector may send now: not within MIN_US of its last message (R513). -/
def State.vectorFree (s : State) (v : Nat) : Bool :=
  let m := s.getF .events R.EVENTS_IRQ_MOD_MIN_US * ticksPerUs
  m == 0 || match s.ev.lastMsg.find? (fun e => e.1 == v) with
    | none => true
    | some e => decide (m ≤ s.hiveTime - e.2)

/-- One vector with a ready cause sends its message, or while it is masked its pending bit stands (R453, R512). A cause
that can send nothing yet waits (DESIGN CHOICE, log entry 101). -/
def State.serveVector (s : State) (v : Nat) : State :=
  if s.ev.ready.any (fun g => s.vectorOf g == v) then
    if s.isSet .host (R.MSIX_MASK v) then
      s.setBitF .host (R.MSIX_PBA (v / 32)) (v % 32)
    else if s.vectorFree v && s.busMaster then
      let addr := s.getF .host (R.MSIX_ADDR_LO v) + 2 ^ 32 * s.getF .host (R.MSIX_ADDR_HI v)
      let t := s.emit (.msix v addr (s.getF .host (R.MSIX_DATA v)))
      let t := { t with ev := { t.ev with
        ready := t.ev.ready.filter (fun g => !(s.vectorOf g == v))
        lastMsg := sinsert (serase t.ev.lastMsg v) v s.hiveTime } }
      t.putBitF .host (R.MSIX_PBA (v / 32)) (v % 32) false
    else s
  else s

/-- Every vector that has a ready cause and may send does (R512, R513). -/
def State.serveVectors (s : State) : State :=
  (s.ev.ready.map s.vectorOf).foldl (fun t v => t.serveVector v) s

/-- A group's cause is ready on its vector (R512). -/
def State.causeReady (s : State) (g : Nat) : State :=
  { s with ev := { s.ev with ready := if s.ev.ready.contains g then s.ev.ready else s.ev.ready ++ [g] } }

/-- An enabled source's raise: a record at once, held back in a hold-off, or none when its group has RECORD at 0, whose
cause is then ready at once (R494, R504, R512). -/
def State.recordRaise (s : State) (n time : Nat) (forced : Bool) (count : Nat) : State :=
  match groupOf n with
  | none => s
  | some g =>
    if s.isSet .events (R.EVENTS_GROUP_RECORD g) then
      if s.inHoldoff n then
        let first := match s.ev.unrec.find? (fun e => e.1 == n) with
          | none => time
          | some e => e.2.1
        { s with ev := { s.ev with unrec := sinsert (serase s.ev.unrec n) n (first, count) } }
      else
        (s.flushUnrec n).produce
          { time := time, source := n, forced := forced, coalesced := false, detail := count }
    else (s.causeReady g).serveVectors

/-- One raise of source number `n` at a given time (R493, R494): STICKY is set, COUNT counts, and when ENABLE is 1 the
raise is recorded. A source of an absent unit never asserts (R9). -/
def State.raiseAt (s : State) (n time : Nat) (forced : Bool) : State :=
  if sourcePresent s.fuse.part n then
    match sourceOf n with
    | none => s
    | some a =>
      let st : Fld := ⟨a.sticky, 31, 0⟩
      let t := (s.setBitF a.page st a.bit).bump a.page a.count 1
      if bitOf (s.word (pageBase a.page + a.enable)).toNat a.bit then
        t.recordRaise n time forced (t.getF a.page a.count)
      else t
  else s

/-- Page source `n` of a page is raised now. -/
def State.raise (s : State) (p : Page) (n : Nat) : State := s.raiseAt (sourceNumber p n) s.hiveTime false

/-- Link bank source of link `l`, kind `j`, is raised now (R499). -/
def State.raiseLink (s : State) (l j : Nat) : State := s.raiseAt (4 + 3 * l + j) s.hiveTime false

end Sys2Proof.Machine
end

