-- ==== Sys2Proof/Machine/Memory.lean ====
section
/-!
DEFINITION. The memories of a super: on-chip memory (chapter 13) and DRAM (chapters 11 and 12), byte by byte, with the
words that hold errors, and the layouts that place block slots in DRAM (R299, R415).
-/
namespace Sys2Proof.Machine

/-! ### Units -/

def State.sramOf (s : State) (u : Nat) : SramSt := sget (fun _ => SramSt.reset) s.srams u
def State.setSramOf (s : State) (u : Nat) (x : SramSt) : State :=
  { s with srams := sput (fun _ => SramSt.reset) s.srams u x }

/-- Every super's memories are as they are at a cold start. -/
def State.blankSrams (s : State) : State := { s with srams := [] }

/-- Channel `k` of super `u`. -/
def State.chan (s : State) (u k : Nat) : ChanSt := sget (fun _ => ChanSt.reset) s.chans (2 * u + k)
def State.setChan (s : State) (u k : Nat) (x : ChanSt) : State :=
  { s with chans := sput (fun _ => ChanSt.reset) s.chans (2 * u + k) x }

/-- Subchannel A is 0 and B is 1. -/
def ChanSt.sub (x : ChanSt) (i : Nat) : SubSt := if i = 0 then x.subA else x.subB
def ChanSt.setSub (x : ChanSt) (i : Nat) (y : SubSt) : ChanSt :=
  if i = 0 then { x with subA := y } else { x with subB := y }

/-! ### On-chip memory (R71, R424 to R426) -/

/-- The size of the memory that a window shows (R71). -/
def sramSize : Nat := 0x600000

def sramKey (u off : Nat) : Nat := u * 2 ^ 23 + off

/-- The window offset belongs to the host area, which stays writable during a take (R424). -/
def hostArea (off : Nat) : Bool :=
  (decide (0x380000 ≤ off) && decide (off < 0x400000)) || (decide (0x400000 ≤ off) && decide (off % 0x40000 ≥ 0x24000))

/-- The window offset belongs to a queue's memory (R424): the super, scout, frame, drain and event queues. -/
def queueArea (u off : Nat) : Bool :=
  (decide (0x100000 ≤ off) && decide (off < 0x210000))
    || (decide (0x400000 ≤ off) && decide (off % 0x40000 < 0x4000))
    || (u == 0 && decide (0x2C0000 ≤ off) && decide (off < 0x348000))

/-- The data path works in the region without a stated layout. -/
def workArea (u off : Nat) : Bool := !hostArea off && !queueArea u off

/-- What a byte of on-chip memory reads as while nothing has written it: the zeros of R437 and R441, and in the data
path's working regions, once a take has used them, what the data path left there (DESIGN CHOICE, log entry 93). -/
def State.sramDefault (s : State) (a : Nat) : Byte :=
  let n := sget (fun _ => 0) s.sramEpoch (a / 2 ^ 23)
  if n = 0 ∨ ¬ workArea (a / 2 ^ 23) (a % 2 ^ 23) then 0 else Config.workByte n a

def State.sramByte (s : State) (u off : Nat) : Byte := sget s.sramDefault s.sram (sramKey u off)

def State.setSramByte (s : State) (u off : Nat) (b : Byte) : State :=
  { s with sram := sput s.sramDefault s.sram (sramKey u off) b }

/-- What is stored at the on-chip addresses that satisfy `p` is gone. -/
def State.clearSram (s : State) (p : Nat → Bool) : State := { s with sram := sclear s.sram p }

/-- The working regions of super `u` have new contents: zeros for 0, else those of epoch `n`. -/
def State.renewSram (s : State) (u n : Nat) : State :=
  { s with sram := sclear s.sram (fun a => a / 2 ^ 23 == u && workArea u (a % 2 ^ 23))
           sramEpoch := sput (fun _ => 0) s.sramEpoch u n }

/-- Bytes at consecutive window offsets. -/
def State.sramBytes (s : State) (u off n : Nat) : List Byte := (List.range n).map (fun i => s.sramByte u (off + i))

def State.setSramBytes (s : State) (u off : Nat) (l : List Byte) : State :=
  (l.zipIdx).foldl (fun t e => t.setSramByte u (off + e.2) e.1) s

/-- The data path takes its working regions over: their contents are new (R424). -/
def State.workSram (s : State) (u : Nat) : State :=
  let d := s.drawFree
  d.2.renewSram u (d.1 + 1)

/-- Every memory of a super is zeroed (R437, R441). -/
def State.zeroSram (s : State) (u : Nat) : State :=
  let t := (s.clearSram (fun a => a / 2 ^ 23 == u)).renewSram u 0
  t.setSramOf u { t.sramOf u with bad := [] }

/-- The memory code of a window offset: bank 0x00 to 0x0F, frame memory 0x10 to 0x17. -/
def memoryCode (off : Nat) : Nat := off / 0x40000

/-- A read by a master found an error in the 64-bit word at a window offset: counted, shown and raised (R426). -/
def State.sramError (s : State) (u off master : Nat) (bad : Bool) : State :=
  let p := Page.sram u
  let t := if bad then s.bump p R.SRAM_ECC_UE 1 else s.bump p R.SRAM_ECC_CE 1
  let t := (t.putF p R.SRAM_ECC_LAST_KIND (if bad then 2 else 1)).putF p R.SRAM_ECC_LAST_MASTER master
  let t := t.putF p R.SRAM_ECC_LAST_MEMORY (memoryCode off)
  let t := (t.putF p R.SRAM_ECC_LAST_WORD (off % 64 / 8)).putF p R.SRAM_ECC_LAST_LINE (off % 0x40000 / 64)
  t.raise p (flag bad)

/-- The word at a window offset, a multiple of 8, becomes uncorrectable, or sound. -/
def State.markSram (s : State) (u off : Nat) (bad : Bool) : State :=
  let x := s.sramOf u
  let l := x.bad.filter (fun a => !(a == off))
  s.setSramOf u { x with bad := if bad then l ++ [off] else l }

/-- An uncorrectable error strikes the word at a window offset: its bits are no longer known. -/
def State.upsetSram (s : State) (u off : Nat) : State :=
  let d := s.drawFree
  (d.2.setSramBytes u off (leBytes 8 (Config.upsetWord d.1).toNat)).markSram u off true

/-- The 64-bit words of a byte string with these numbers become unknown. -/
def State.upsetBytes (s : State) (l : List Byte) : List Nat → List Byte × State
  | [] => (l, s)
  | w :: ws =>
    let d := s.drawFree
    d.2.upsetBytes (l.take (8 * w) ++ leBytes 8 (Config.upsetWord d.1).toNat ++ l.drop (8 * w + 8)) ws

/-! ### DRAM contents -/

def dramKey (u k sub off : Nat) : Nat := (2 * u + k) * 2 ^ 38 + sub * 2 ^ 37 + off

/-- The channel index of a DRAM address. -/
def chanOfKey (a : Nat) : Nat := a / 2 ^ 38

/-- What a byte of DRAM reads as while nothing has written it: the zeros of R396, and after a loss of contents the byte
that no one can tell (R397, R418, R420) (DESIGN CHOICE, log entry 92). -/
def State.dramDefault (s : State) (a : Nat) : Byte :=
  let n := sget (fun _ => 0) s.dramEpoch (chanOfKey a)
  if n = 0 then 0 else Config.lostByte n a

def State.dramStored (s : State) (u k sub off : Nat) : Byte := sget s.dramDefault s.dram (dramKey u k sub off)

def State.setDramStored (s : State) (u k sub off : Nat) (b : Byte) : State :=
  { s with dram := sput s.dramDefault s.dram (dramKey u k sub off) b }

/-- Channel `k` of super `u` has new contents: zeros for 0, else those of epoch `n`. -/
def State.renewDram (s : State) (u k n : Nat) : State :=
  { s with dram := sclear s.dram (fun a => chanOfKey a == 2 * u + k)
           dramEpoch := sput (fun _ => 0) s.dramEpoch (2 * u + k) n }

/-- The word address of 64-bit word `w` of a piece. -/
def dramWordAt (sub piece w : Nat) : Nat := sub * 2 ^ 34 + 32 * piece + w

/-- The stored error of a word: 0 none, b + 1 bit b of its 72 (R404), 73 uncorrectable. -/
def ChanSt.flaw (x : ChanSt) (a : Nat) : Nat := sget (fun _ => 0) x.flaws a
def ChanSt.setFlaw (x : ChanSt) (a v : Nat) : ChanSt := { x with flaws := sput (fun _ => 0) x.flaws a v }

def badWord : Nat := 73
def oneBit (e : Nat) : Bool := decide (0 < e) && decide (e < badWord)

/-- A queued write covers a byte of a piece. -/
def WriteReq.covers (q : WriteReq) (piece i : Nat) : Bool :=
  q.piece == piece && decide (q.start ≤ i) && decide (i < q.start + q.bytes.length)

/-- A queued write covers the whole of word `w`, or some byte of it. -/
def WriteReq.wholeWord (q : WriteReq) (w : Nat) : Bool :=
  decide (q.start ≤ 8 * w) && decide (8 * w + 8 ≤ q.start + q.bytes.length)
def WriteReq.touches (q : WriteReq) (w : Nat) : Bool :=
  decide (q.start < 8 * w + 8) && decide (8 * w < q.start + q.bytes.length)

/-- The byte that a read returns: that of the newest queued write of it, or the stored one (R367, R375). -/
def State.dramByte (s : State) (u k sub piece i : Nat) : Byte :=
  match (((s.chan u k).sub sub).wq.reverse).find? (fun q => q.covers piece i) with
  | some q => q.bytes.getD (i - q.start) 0
  | none => s.dramStored u k sub (256 * piece + i)

/-- A read of word `w` of a piece meets an uncorrectable word. -/
def State.dramBad (s : State) (u k sub piece w : Nat) : Bool :=
  let x := s.chan u k
  ((x.sub sub).wq.filter (fun q => q.piece == piece && q.touches w)).foldl
    (fun b q => if q.wholeWord w then q.poison.contains w else b) (x.flaw (dramWordAt sub piece w) == badWord)

/-- The 256 bytes of a piece as a read returns them. -/
def State.dramPiece (s : State) (u k sub piece : Nat) : List Byte :=
  (List.range 256).map (fun i => s.dramByte u k sub piece i)

/-- Some word of the piece is uncorrectable. -/
def State.dramPieceBad (s : State) (u k sub piece : Nat) : Bool :=
  (List.range 32).any (fun w => s.dramBad u k sub piece w)

/-- The contents of a channel are lost: nothing is known of them (R397, R418, R420). -/
def State.loseDram (s : State) (u k : Nat) : State :=
  let d := s.drawFree
  let t := d.2.renewDram u k (d.1 + 1)
  t.setChan u k { t.chan u k with flaws := [] }

/-- Every piece of a channel is zero with valid check bits (R396). -/
def State.zeroDram (s : State) (u k : Nat) : State :=
  let t := s.renewDram u k 0
  t.setChan u k { t.chan u k with flaws := [] }

/-! ### Layouts (R299, R364, R391, R415) -/

/-- DRAM_TRAIN_STATUS.STATE: 0 NONE, 1 IDENTIFY, 2 TRAINING, 3 CLEARING, 4 READY, 5 FAILED, 6 REFUSED. -/
def State.chanState (s : State) (u k : Nat) : Nat := s.getF (.dram u k) R.DRAM_TRAIN_STATUS_STATE

/-- The channel takes requests: READY and enabled (R391, R396). -/
def State.chanUsable (s : State) (u k : Nat) : Bool := s.chanState u k == 4 && s.enabled (.dram u k)

/-- The layout that the channels' states call for (R415). -/
def State.layoutWanted (s : State) (u : Nat) : Nat :=
  flag (s.chanUsable u 0) + 2 * flag (s.chanUsable u 1)

/-- The layout in force. -/
def State.layout (s : State) (u : Nat) : Nat := (s.store u).layout

/-- Capacity in bytes of a subchannel of a channel. -/
def State.subBytes (s : State) (u k : Nat) : Nat := s.getF (.dram u k) R.DRAM_CFG_CAP_GIB * 2 ^ 29

/-- Block slots of a super in a layout: Q or Q′ (R299, R415). -/
def State.slotsIn (s : State) (u layout : Nat) : Nat :=
  match layout with
  | 3 => min (s.subBytes u 0) (s.subBytes u 1) / 1024
  | 1 => s.subBytes u 0 / 2048
  | 2 => s.subBytes u 1 / 2048
  | _ => 0

/-- Block slots of a super in the layout in force. -/
def State.slotCount (s : State) (u : Nat) : Nat := s.slotsIn u (s.layout u)

/-- Channel, subchannel and piece number in the subchannel of piece `p` of block slot `i` (R299, R415). -/
def pieceAt (layout i p : Nat) : Nat × Nat × Nat :=
  if layout = 3 then (p % 4 / 2, p % 2, 4 * i + p / 4) else (layout - 1, p % 2, 8 * i + p / 2)

/-- Neither channel of the super can carry data: each is FAILED, REFUSED or without a DIMM (R419). -/
def State.channelsGone (s : State) (u : Nat) : Bool :=
  (List.range 2).all (fun k => s.chanState u k == 5 || s.chanState u k == 6 || (s.chan u k).empty)

/-- A line that the data path uses is beyond repair (R440). -/
def State.storeOff (s : State) (u : Nat) : Bool := (s.sramOf u).off

/-- The super's store is disabled (R419, R440). -/
def State.storeDisabled (s : State) (u : Nat) : Bool := s.channelsGone u || s.storeOff u

/-! ### From offset to bank (R364) -/

/-- Where a piece of a subchannel lies. -/
structure BankAt where
  rank : Nat
  group : Nat
  bank : Nat
  column : Nat
  row : Nat
deriving DecidableEq, Repr

/-- The mapping of R364 for piece number `x`, with `nr` 0 for a one-rank DIMM and 1 for a two-rank one. -/
def bankOf (nr x : Nat) : BankAt :=
  { rank := if nr = 0 then 0 else x / 32 % 2, group := x % 8, bank := x / 8 % 4, column := x / 2 ^ (5 + nr) % 32
    row := x / 2 ^ (10 + nr) }

/-- `nr` of a channel's DIMM. -/
def State.rankBits (s : State) (u k : Nat) : Nat := if s.getF (.dram u k) R.DRAM_CFG_RANKS = 2 then 1 else 0

/-- The bank's number among those of a subchannel: rank × 32 + group × 4 + bank. -/
def BankAt.index (b : BankAt) : Nat := 32 * b.rank + 4 * b.group + b.bank

/-- An entry of the error log of a channel (R409): kind, port, subchannel, piece, word and bit. -/
def State.logError (s : State) (u k sub kind port piece w bit : Nat) : State :=
  let p := Page.dram u k
  let b := bankOf (s.rankBits u k) piece
  let n := s.getF p R.DRAM_ECC_LOG_HEAD_WRITTEN
  let e := n % 8
  let t := (s.putF p (R.DRAM_ECC_LOG_INFO_KIND e) kind).putF p (R.DRAM_ECC_LOG_INFO_PORT e) port
  let t := (t.putF p (R.DRAM_ECC_LOG_INFO_SUB e) sub).putF p (R.DRAM_ECC_LOG_INFO_RANK e) b.rank
  let t := (t.putF p (R.DRAM_ECC_LOG_INFO_BG e) b.group).putF p (R.DRAM_ECC_LOG_INFO_BANK e) b.bank
  let t := (t.putF p (R.DRAM_ECC_LOG_INFO_BIT e) bit).putF p (R.DRAM_ECC_LOG_ADDR_ROW e) b.row
  let t := (t.putF p (R.DRAM_ECC_LOG_ADDR_WORD e) (w % 8)).putF p (R.DRAM_ECC_LOG_ADDR_COLUMN e)
    (64 * b.column + 16 * (w / 8))
  let t := t.putPair p (R.DRAM_ECC_LOG_TIME_LO_TIME e) (R.DRAM_ECC_LOG_TIME_HI_TIME e) s.hiveTime
  t.putF p R.DRAM_ECC_LOG_HEAD_WRITTEN (n + 1)

end Sys2Proof.Machine
end

