-- ==== Sys2Proof/Machine/Flags.lean ====
section
/-!
DEFINITION. The sixteen flags of a frame (R211): pattern words with their duration qualifier, counters and timers, as
functions of the cell outputs of a slot and of the settings on the FRAME page.
-/
namespace Sys2Proof.Machine

/-- The outputs of a frame's 32 cells in one slot (R165), as vectors with bit c for cell Cc. -/
structure CellOut where
  value : Nat
  rise : Nat
  fall : Nat
  present : Nat
  valid : Bool
deriving DecidableEq, Repr

/-- The settings of one pattern word. -/
structure WordSet where
  mask : Nat
  value : Nat
  edgeLo : Nat
  edgeHi : Nat
  joinAll : Bool
  rangeOp : Nat
  busMask : Nat
  busDesc : Bool
  lo : Nat
  hi : Nat
  invert : Bool
  durN : Nat
  durValid : Bool
  durPulse : Bool
deriving DecidableEq, Repr

/-- The active settings of pattern word `n` of a frame. -/
def State.wordSet (s : State) (u f n : Nat) : WordSet :=
  let p := Page.frame u f
  let g := s.getF p (R.FRAME_PW_CTRL_RANGE_GRP n)
  { mask := s.getF p (R.FRAME_PW_MASK_MASK n), value := s.getF p (R.FRAME_PW_VALUE_VALUE n),
    edgeLo := s.getF p (R.FRAME_PW_EDGE_LO_EDGE n), edgeHi := s.getF p (R.FRAME_PW_EDGE_HI_EDGE n),
    joinAll := s.isSet p (R.FRAME_PW_CTRL_EDGE_JOIN n), rangeOp := s.getF p (R.FRAME_PW_CTRL_RANGE_OP n),
    busMask := s.getF p (R.FRAME_BG_MASK_MASK g), busDesc := s.isSet p (R.FRAME_BG_CTRL_ORDER g),
    lo := s.getF p (R.FRAME_PW_LO_BOUND n), hi := s.getF p (R.FRAME_PW_HI_BOUND n),
    invert := s.isSet p (R.FRAME_PW_CTRL_INVERT n), durN := s.getF p (R.FRAME_PW_DUR_N n),
    durValid := s.isSet p (R.FRAME_PW_CTRL_DUR_BASE n), durPulse := s.isSet p (R.FRAME_PW_CTRL_DUR_MODE n) }

/-- The edge codes of the 32 cells, two bits each from bit 0 up (R203, FRAME_PWn_EDGE_LO and _HI): 0 NONE, 1 RISE,
2 FALL, 3 EITHER. -/
def edgeCodes (w : WordSet) : Nat := w.edgeLo ||| w.edgeHi <<< 32

/-- The cells whose code selects a rise, and those whose code selects a fall. -/
def riseCells (w : WordSet) : Nat := ofBits ((List.range 32).filter (fun c => bitOf (edgeCodes w) (2 * c)))
def fallCells (w : WordSet) : Nat := ofBits ((List.range 32).filter (fun c => bitOf (edgeCodes w) (2 * c + 1)))

/-- ECELLS of R206: cells whose edge code is not NONE. -/
def edgeCells (w : WordSet) : Nat := if edgeCodes w = 0 then 0 else riseCells w ||| fallCells w

/-- EHIT of R206: cells that show the edge their code selects (R203). -/
def edgeHits (w : WordSet) (o : CellOut) : Nat :=
  if edgeCodes w = 0 then 0 else (riseCells w &&& o.rise) ||| (fallCells w &&& o.fall)

/-- The value of a bus group (R204): its cells in ascending number, the first one bit 0 (ASC) or the highest (DESC). -/
def gather (value mask : Nat) (desc : Bool) : Nat :=
  let l := (bitsSet 32 mask).map (fun c => flag (bitOf value c))
  if desc then l.foldl (fun v b => 2 * v + b) 0 else l.foldr (fun b v => b + 2 * v) 0

/-- The range test of R205. -/
def rangeTest (op lo hi v : Nat) : Bool :=
  match op with
  | 1 => decide (lo ≤ v) && decide (v ≤ hi)
  | 2 => decide (v < lo) || decide (hi < v)
  | 3 => v == lo
  | _ => false

/-- The cells that a pattern word reads (READ of R206). -/
def cellsRead (w : WordSet) : Nat :=
  w.mask ||| edgeCells w ||| (if w.rangeOp != 0 then w.busMask else 0)

/-- The raw result P (R206, R207). -/
def rawResult (w : WordSet) (o : CellOut) : Bool :=
  let mOn := w.mask != 0
  let m := ((o.value ^^^ w.value) &&& w.mask) == 0
  let ec := edgeCells w
  let eOn := ec != 0
  let eh := edgeHits w o &&& ec
  let e := if w.joinAll then eh == ec else eh != 0
  let rOn := w.rangeOp != 0
  let r := rangeTest w.rangeOp w.lo w.hi (gather o.value w.busMask w.busDesc)
  let terms := if !mOn && !eOn && !rOn then false else (!mOn || m) && (!eOn || e) && (!rOn || r)
  if (cellsRead w &&& (o.present ^^^ 0xFFFFFFFF)) != 0 then false else Bool.xor terms w.invert

/-- The duration qualifier (R209): the new run length and Q (DEDUCED, log entry 58). -/
def qualify (w : WordSet) (valid p qBefore : Bool) (run : Nat) : Nat × Bool :=
  let run' := if p then (if run < 65535 then run + 1 else 65535) else 0
  if w.durN = 0 then (run, p)
  else if w.durValid && !valid then (run, if w.durPulse then false else qBefore)
  else (run', if w.durPulse then run' == w.durN else decide (w.durN ≤ run'))

/-- The greatest 48-bit value (R215). -/
def max48 : Nat := 2 ^ 48 - 1

/-- The settings of a counter. -/
structure CounterSet where
  incKind : Nat
  incWord : Nat
  reload : Bool
  cmp : Nat
  init : Nat
deriving DecidableEq, Repr

def State.counterSet (s : State) (u f n : Nat) : CounterSet :=
  let p := Page.frame u f
  { incKind := s.getF p (R.FRAME_CNT_CTRL_INC_KIND n), incWord := s.getF p (R.FRAME_CNT_CTRL_INC_WORD n),
    reload := s.isSet p (R.FRAME_CNT_CTRL_MODE n),
    cmp := s.getPair p (R.FRAME_CNT_CMP_LO_CMP n) (R.FRAME_CNT_CMP_HI_CMP n),
    init := s.getPair p (R.FRAME_CNT_INIT_LO_INIT n) (R.FRAME_CNT_INIT_HI_INIT n) }

/-- The counter's source fires (R214). -/
def counterFires (c : CounterSet) (e : EvalSlot) : Bool :=
  match c.incKind with
  | 0 => false
  | 1 => e.valid
  | 2 => bitOf e.qual c.incWord
  | _ => bitOf e.qual c.incWord && !bitOf e.qualBefore c.incWord

/-- One step of a counter (R215): value, whether it wrapped, whether it reloaded. -/
def counterStep (c : CounterSet) (x : Nat × Bool × Bool) : Nat × Bool × Bool :=
  let v := (x.1 + 1) % 2 ^ 48
  let wrap := x.2.1 || v == 0
  if c.reload && v == c.cmp then (0, wrap, true) else (v, wrap, x.2.2)

/-- A counter's update in one slot of a take (R215), with operation code `op` (R219): the counter after, whether it
wrapped and whether it reloaded. -/
def counterUpdate (c : CounterSet) (op : Nat) (fires : Bool) (x : Counter) : Counter × Bool × Bool :=
  let v0 := if op = 2 then 0 else if op = 3 then c.init else x.value
  let paused := if op = 4 then true else if op = 5 then false else x.paused
  let a := if op = 1 then counterStep c (v0, false, false) else (v0, false, false)
  let b := if fires && !paused then counterStep c a else a
  (⟨b.1, paused, if c.reload then b.2.2 else decide (c.cmp ≤ b.1)⟩, b.2.1, b.2.2)

/-- The settings of a timer. -/
structure TimerSet where
  startKind : Nat
  startWord : Nat
  stopKind : Nat
  stopWord : Nat
  periodic : Bool
  limit : Nat
deriving DecidableEq, Repr

def State.timerSet (s : State) (u f n : Nat) : TimerSet :=
  let p := Page.frame u f
  { startKind := s.getF p (R.FRAME_TMR_CTRL_START_KIND n), startWord := s.getF p (R.FRAME_TMR_CTRL_START_WORD n),
    stopKind := s.getF p (R.FRAME_TMR_CTRL_STOP_KIND n), stopWord := s.getF p (R.FRAME_TMR_CTRL_STOP_WORD n),
    periodic := s.isSet p (R.FRAME_TMR_CTRL_MODE n),
    limit := s.getPair p (R.FRAME_TMR_LIM_LO_LIM n) (R.FRAME_TMR_LIM_HI_LIM n) }

/-- RUN_START and RUN_END of R217 on pattern word `w`. -/
def runEdge (kind w : Nat) (e : EvalSlot) : Bool :=
  let now := bitOf e.qual w
  let before := bitOf e.qualBefore w
  if kind = 2 then now && !before else if kind = 3 then !now && before else false

/-- The timer's start source fires (R217); `first` is the take's first slot. -/
def timerStarts (c : TimerSet) (e : EvalSlot) (first : Nat) : Bool :=
  if c.startKind = 1 then e.n == first else runEdge c.startKind c.startWord e

/-- The timer's stop source fires (R217). -/
def timerStops (c : TimerSet) (e : EvalSlot) : Bool := runEdge c.stopKind c.stopWord e

/-- A timer's update in one slot of a take (R218), with operation code `op` (R219). -/
def timerUpdate (c : TimerSet) (op : Nat) (stops starts : Bool) (x : Timer) : Timer :=
  let t0 := if x.running && decide (x.value < max48) then x.value + 1 else x.value
  let t1 := if op = 3 ∨ op = 4 then 0 else t0
  let r1 := if op = 1 ∨ op = 3 then true else if op = 2 then false else x.running
  let r2 := if stops then false else r1
  let t2 := if starts then 0 else t1
  let r3 := if starts then true else r2
  let hit := if c.periodic then r3 && t2 == c.limit else decide (c.limit ≤ t2)
  let t3 := if c.periodic && hit then 0 else t2
  let r4 := if c.stopKind = 1 && hit then false else r3
  ⟨t3, r4, hit⟩

/-- The codes of an operation word (SEQ_OPSk_Ff): counter `n`, and timer `n`. -/
def counterOp (w n : Nat) : Nat := bitsOf w (3 * n + 2) (3 * n)
def timerOp (w n : Nat) : Nat := bitsOf w (3 * n + 14) (3 * n + 12)

end Sys2Proof.Machine
end

