-- ==== Sys2Proof/Machine/Blocks.lean ====
section
/-!
DEFINITION. The stored forms of chapter 08: the block and its header (R286, R287), the frame payload (R289 to R292), the
scout payload (R189 to R194) and the mark records (R296). Each encoder takes what a stream has collected and answers
the payload words of one block and what did not fit.
-/
namespace Sys2Proof.Machine

/-! ### Bytes of a block -/

/-- One step of CRC-32C (the Castagnoli polynomial, reflected) over the low bit. -/
def crcBit (c : Nat) : Nat := if c % 2 = 1 then (c >>> 1) ^^^ 0x82F63B78 else c >>> 1

/-- CRC-32C after one more byte. -/
def crcByte (c : Nat) (b : Byte) : Nat :=
  crcBit (crcBit (crcBit (crcBit (crcBit (crcBit (crcBit (crcBit (c ^^^ b.toNat))))))))

/-- CRC-32C of a byte string (PAYLOAD_CRC of R286). -/
def crc32c (l : List Byte) : Nat := (l.foldl crcByte 0xFFFFFFFF) ^^^ 0xFFFFFFFF

/-- The bytes of payload words, each little-endian (R286). -/
def wordBytes (l : List Nat) : List Byte := l.flatMap (leBytes 4)

/-- The fields of a block header (R286). -/
structure Header where
  coding : Nat
  flags : Nat
  takeId : Nat
  stream : Nat
  segment : Nat
  seq : Nat
  rawLen : Nat
  first : Nat
  span : Nat
  firstRun : Nat
  base : Nat
  absentMask : Nat
  gap : Nat
  level : Nat
  coarsen : Nat
  glitch : Nat
deriving DecidableEq, Repr

/-- The 64 header bytes (R286). -/
def headerBytes (h : Header) (payload : List Byte) : List Byte :=
  leBytes 4 0x4C574842 ++ leBytes 1 1 ++ leBytes 1 h.coding ++ leBytes 2 h.flags ++ leBytes 4 h.takeId
    ++ leBytes 2 h.stream ++ leBytes 2 h.segment ++ leBytes 4 h.seq ++ leBytes 2 payload.length ++ leBytes 2 h.rawLen
    ++ leBytes 8 h.first ++ leBytes 4 h.span ++ leBytes 4 h.firstRun ++ leBytes 4 h.base ++ leBytes 4 h.absentMask
    ++ leBytes 8 h.gap ++ leBytes 1 h.level ++ leBytes 1 h.coarsen ++ leBytes 1 h.glitch ++ leBytes 1 0
    ++ leBytes 4 (crc32c payload)

/-- A whole block of 4,096 bytes: the payload area after PAYLOAD_LEN is 0 (R287). -/
def blockBytes (b : OutBlock) : List Byte := padTo 4096 0 b.bytes

/-- FIRST_RUN when no run is named (R286). -/
def noRun : Nat := 0xC0000000

/-- The most raw payload words of a RAW block, and of a block that the Press codes (R310). -/
def rawWords : Nat := 1008
def codedWords : Nat := 16383

/-! ### The frame payload -/

/-- A frame payload under way: the words of closed items, newest first; the run under way, by SKIP, whether FIRST_RUN
names it, and its value words newest first; the slot after the last one placed; and the words used. -/
structure FrameEnc where
  firstRun : Nat
  items : List Nat
  run : Option (Nat × Bool × List Nat)
  pos : Nat
  used : Nat
deriving DecidableEq, Repr

/-- A RUN word (R290). -/
def runWord (skip len : Nat) : Nat := placed (len - 1) 29 20 ||| placed skip 19 0

/-- The run under way is closed: its header goes before its values, or into FIRST_RUN. -/
def FrameEnc.closeRun (e : FrameEnc) : FrameEnc :=
  match e.run with
  | none => e
  | some (skip, named, values) =>
    let h := runWord skip values.length
    if named then { e with firstRun := h, items := values ++ e.items, run := none }
    else { e with items := values ++ h :: e.items, run := none }

/-- Nothing is in the payload yet. -/
def FrameEnc.fresh (e : FrameEnc) : Bool := e.items.isEmpty && e.run.isNone

/-- Whether the next stored slot goes on with the run under way: runs longer than 1,024 slots are split (R311). -/
def FrameEnc.joins (e : FrameEnc) (n : Nat) : Bool :=
  match e.run with
  | none => false
  | some (_, _, values) => n == e.pos && decide (values.length < 1024)

/-- Words that the next stored slot takes. -/
def FrameEnc.cost (e : FrameEnc) (n : Nat) : Nat :=
  if e.joins n then 1
  else
    let far := 2 ^ 20 ≤ n - e.pos
    if e.fresh && !far then 1 else 2 + flag far

/-- One stored slot placed (R290): in the run under way, or as a new run after SKIP slots. -/
def FrameEnc.place (e : FrameEnc) (n v : Nat) : FrameEnc :=
  if e.joins n then
    match e.run with
    | none => e
    | some (skip, named, values) =>
      { e with run := some (skip, named, v :: values), pos := n + 1, used := e.used + 1 }
  else
    let d := n - e.pos
    let c := e.closeRun
    if d < 2 ^ 20 then
      { c with run := some (d, e.fresh, [v]), pos := n + 1, used := e.used + e.cost n }
    else
      { c with items := (2 ^ 30 ||| d / 2 ^ 20) :: c.items, run := some (d % 2 ^ 20, false, [v]), pos := n + 1
               used := e.used + e.cost n }

/-- The slots that fit, in order, and those left over: from the first stored slot whose words do not fit (R289). -/
def FrameEnc.fill (limit : Nat) : FrameEnc → List SlotRec → FrameEnc × List SlotRec
  | e, [] => (e, [])
  | e, r :: rs =>
    if r.stored then
      if e.used + e.cost r.n ≤ limit then (e.place r.n r.value).fill limit rs else (e, r :: rs)
    else e.fill limit rs

/-- The payload words, ABSENT records last: their position carries no meaning (R292). -/
def FrameEnc.words (e : FrameEnc) (absents : List (List Nat)) : Nat × List Nat :=
  let c := e.closeRun
  (c.firstRun, c.items.reverse ++ absents.flatten)

/-- An empty payload whose span begins at slot `n`, with `used` words taken by ABSENT records. -/
def FrameEnc.start (n used : Nat) : FrameEnc := ⟨noRun, [], none, n, used⟩

/-- An ABSENT record (R292): KIND 0x01 with OPEN, cell mask, START and END. -/
def absentRecord (isOpen : Bool) (mask start stop : Nat) : List Nat :=
  [2 ^ 31 ||| 2 ^ 24 ||| flag isOpen, mask, start % 2 ^ 32, start >>> 32, stop % 2 ^ 32, stop >>> 32]

/-- FRAME_STORE_CTRL.MODE selects a slot (R282, R283): `before` is the value of the slot TRANSITION compares with. -/
def modeSelects (mode qual : Nat) (stateMode : Bool) (before : Nat) (r : SlotRec) : Bool :=
  (!stateMode || r.valid) &&
    match mode with
    | 0 => false
    | 1 => true
    | 2 => r.value != before
    | _ => bitOf r.qual qual

/-- The slots of a frame with their `stored` settled, and the value that the next slot is compared with (R283: in state
mode a slot is compared with the preceding valid slot). -/
def markStored (mode qual : Nat) (stateMode : Bool) (chosenOut : Nat → Bool) :
    Nat → List SlotRec → List SlotRec
  | _, [] => []
  | before, r :: rs =>
    { r with stored := modeSelects mode qual stateMode before r && !chosenOut (8 * r.n) }
      :: markStored mode qual stateMode chosenOut (if stateMode && !r.valid then before else r.value) rs

/-- The value that the slot after a list is compared with. -/
def lastValue (stateMode : Bool) (before : Nat) (l : List SlotRec) : Nat :=
  l.foldl (fun v r => if stateMode && !r.valid then v else r.value) before

/-- BASE of a block whose slots before FIRST are `l`, after a block with BASE `b`: the value word of the last stored or
valid slot (R286). In timing mode every slot is valid (R208). -/
def nextBase (b : Nat) (l : List SlotRec) : Nat :=
  l.foldl (fun v r => if r.stored || r.valid then r.value else v) b

/-! ### The scout payload -/

/-- What the decoder keeps of a scout within a block (R190): its running time. -/
abbrev Running := List (Nat × Nat)

/-- The running time of scout `k`; every running time starts at FIRST - 1. -/
def runningOf (r : Running) (start k : Nat) : Nat := sget (fun _ => start) r k

/-- The first word of a record (R189). -/
def scoutWord (k : Nat) (level : Bool) (delta : Nat) : Nat :=
  placed k 31 29 ||| placed (flag level) 28 28 ||| placed delta 27 0

/-- The second word of an escape (R192). -/
def escapeWord (type value : Nat) : Nat := placed type 31 28 ||| placed value 27 0

/-- The longest distance of one record, 2^28 - 1 ticks (R194). -/
def maxDelta : Nat := 0xFFFFFFF

/-- A LONG record when the distance asks for one, and the distance that remains (R194). -/
def longWords (k : Nat) (level : Bool) (d : Nat) : List Nat × Nat :=
  if d ≤ maxDelta then ([], d)
  else
    let v := (d - 1) / maxDelta
    ([scoutWord k level 0, escapeWord 2 v], d - v * maxDelta)

/-- The words of one item of scout `k`, `d` ticks after its running time, at level `before` (R189, R192, R194). -/
def itemWords (k d : Nat) (before : Bool) (i : ScoutItem) : List Nat :=
  let l := longWords k before d
  match i with
  | .edge v => l.1 ++ [scoutWord k v l.2]
  | .overrun v => l.1 ++ [scoutWord k v 0, escapeWord 3 l.2]
  | .resume v lost => l.1 ++ [scoutWord k v 0, escapeWord 4 l.2, lost]
  | .silent _ => []
  | .held _ => []

/-- The level after an item. -/
def itemLevel : ScoutItem → Bool
  | .edge v => v
  | .overrun v => v
  | .resume v _ => v
  | .silent v => v
  | .held v => v

/-- In overrun after an item that follows state `b`. -/
def itemOver (b : Bool) : ScoutItem → Bool
  | .overrun _ => true
  | .resume _ _ => false
  | .held _ => true
  | _ => b

/-- Settling after an item that follows state `b`. -/
def itemSettling (b : Bool) : ScoutItem → Bool
  | .resume _ _ => false
  | .held _ => false
  | _ => b

/-- The level that the records so far give a scout (for the unchanged level of a LONG). -/
def snapLevel (l : List ScoutSnap) (k : Nat) : Bool :=
  match l.find? (fun x => x.index == k) with
  | none => false
  | some x => x.level

/-- A scout's state after an item. -/
def snapAfter (l : List ScoutSnap) (r : ScoutRec) : List ScoutSnap :=
  l.map (fun x => if x.index == r.index then
    { x with level := itemLevel r.item, overrun := itemOver x.overrun r.item, settling := itemSettling x.settling r.item } else x)

/-- The SNAPSHOT records that open every block (R193). -/
def snapWords (l : List ScoutSnap) : List Nat :=
  l.flatMap (fun x =>
    [scoutWord x.index x.level 0, escapeWord 1 (flag x.overrun ||| 2 * flag x.settling)])

/-- A scout payload under way: words newest first, running times, what the scouts stand at, and words used. -/
structure ScoutEnc where
  items : List Nat
  running : Running
  snaps : List ScoutSnap
  used : Nat
deriving DecidableEq, Repr

/-- The words of one record, and the payload with them. -/
def ScoutEnc.place (first : Nat) (e : ScoutEnc) (r : ScoutRec) : ScoutEnc :=
  let t := runningOf e.running (first - 1) r.index
  let w := itemWords r.index (r.tick - t) (snapLevel e.snaps r.index) r.item
  { items := w.reverse ++ e.items
    running := if w.isEmpty then e.running else sinsert (serase e.running r.index) r.index r.tick
    snaps := snapAfter e.snaps r
    used := e.used + w.length }

/-- The records of one tick, and the rest: a block never splits them (R289). -/
def sameTick (t : Nat) (l : List ScoutRec) : List ScoutRec × List ScoutRec :=
  (l.takeWhile (fun r => r.tick == t), l.dropWhile (fun r => r.tick == t))

/-- The records that fit, tick by tick, and those left over; `fuel` bounds the number of ticks. -/
def ScoutEnc.fill (limit first : Nat) : Nat → ScoutEnc → List ScoutRec → ScoutEnc × List ScoutRec
  | 0, e, l => (e, l)
  | _, e, [] => (e, [])
  | fuel + 1, e, r :: rs =>
    let p := sameTick r.tick (r :: rs)
    let f := p.1.foldl (ScoutEnc.place first) e
    if f.used ≤ limit then ScoutEnc.fill limit first fuel f p.2 else (e, r :: rs)

/-- A payload that holds the SNAPSHOT records alone. -/
def ScoutEnc.start (snaps : List ScoutSnap) : ScoutEnc :=
  ⟨(snapWords snaps).reverse, [], snaps, 2 * snaps.length⟩

/-! ### Mark records -/

/-- The 32 bytes of a mark record (R296). -/
def markBytes (r : MarkRec) : List Byte :=
  leBytes 8 r.time ++ leBytes 1 r.type ++ leBytes 1 r.super ++ leBytes 2 r.a16 ++ leBytes 4 r.a32 ++ leBytes 8 r.t2
    ++ leBytes 8 r.a64

/-- Records that an M block holds. -/
def markCapacity : Nat := 126

end Sys2Proof.Machine
end

