-- ==== Sys2Proof/Machine/Streams.lean ====
section
/-!
DEFINITION. Streams (chapter 08): which coding a stream has, cutting its open block, holes, the close of a segment, and
the mark stream with its system queue.
-/
namespace Sys2Proof.Machine

/-! ### Coding and storing -/

/-- The stored form of a stream: 0 RAW, 1 PRESS, 2 TABLE (R302, R303, R464, PRESS_SELFTEST). The M stream is RAW. -/
def State.codingOf (s : State) : StreamId → Nat
  | .mark => 0
  | .frame u _ => of s u R.PRESS_CTRL_F_CODING
  | .scout u => of s u R.PRESS_CTRL_S_CODING
where
  of (s : State) (u : Nat) (f : Fld) : Nat :=
    if s.enabled (.press u) && !s.isSet (.press u) R.PRESS_SELFTEST_FAIL then
      let c := s.getF (.press u) f
      if c = 1 ∧ s.take.reader then 2 else c
    else 0

/-- The super's store cannot be written (R295): its streams write nothing. -/
def State.storeLost (s : State) (u : Nat) : Bool := (s.store u).lossFrom.isSome

/-- A block joins those that wait for the super queue. -/
def State.sendBlock (s : State) (u : Nat) (b : OutBlock) : State :=
  let x := s.store u
  s.setStore u { x with out := x.out ++ [b] }

/-- The next SEQ of a stream is taken (R286). -/
def State.takeSeq (s : State) (i : StreamId) : Nat × State :=
  let x := s.stream i
  (x.seq, s.setStream i { x with seq := (x.seq + 1) % 2 ^ 32 })

/-- What distinguishes the stored forms of one block: the header bytes that the Press settles. -/
structure Coded where
  coding : Nat
  level : Nat
  lossy : Bool
  coarsen : Nat
  glitch : Nat
  rawv : Bool
  rawn : Bool
deriving DecidableEq, Repr

/-- A block stored RAW by the builder. -/
def Coded.raw : Coded := ⟨0, 0, false, 0, 0, false, false⟩

/-- FLAGS (R287). -/
def blockFlags (c : Coded) (seed coasted gapLoss gapChosen absent last stateMode : Bool) : Nat :=
  flag c.rawn ||| flag c.rawv * 2 ||| flag seed * 4 ||| flag coasted * 8 ||| flag gapLoss * 16 ||| flag c.lossy * 32
    ||| flag absent * 64 ||| flag last * 128 ||| flag stateMode * 256 ||| flag gapChosen * 512

/-- The cells ABSENT in any slot of a span (R286). -/
def absentMask (l : List SlotRec) : Nat := l.foldl (fun m r => m ||| r.absent) 0

/-- Some stored sample was taken while its PLL coasted (R107). -/
def CutBlock.coasted (b : CutBlock) : Bool :=
  b.slots.any (fun r => r.stored && r.coasted) || b.recs.any (·.coasted)

/-- A piece of a cut block goes to the store with its payload words (R286, R314, R316). -/
def State.writePiece (s : State) (u : Nat) (b : CutBlock) (c : Coded) (firstRun rawLen : Nat) (payload : List Nat) :
    State :=
  let q := s.takeSeq b.stream
  let mask := absentMask b.slots
  let isF := match b.stream with | .frame _ _ => true | _ => false
  let h : Header :=
    { coding := c.coding
      flags := blockFlags c (q.1 == 0) b.coasted (b.gap != 0 && !b.chosen) (b.gap != 0 && b.chosen) (mask != 0) b.last
        b.stateMode
      takeId := q.2.getF .hive R.HIVE_TAKE_ID_ID, stream := streamNumber b.stream, segment := b.segment, seq := q.1
      rawLen := rawLen, first := b.first, span := b.stop - b.first, firstRun := if isF then firstRun else 0
      base := if isF then b.base else 0, absentMask := mask, gap := b.gap, level := c.level, coarsen := c.coarsen
      glitch := c.glitch }
  let bytes := wordBytes payload
  q.2.sendBlock u ⟨b.segment, b.first, b.stop, streamNumber b.stream, headerBytes h bytes ++ bytes, b.poison.map (8 + ·)⟩

/-- The raw payload of a cut block: FIRST_RUN and the words. -/
def CutBlock.rawPayload (b : CutBlock) : Nat × List Nat :=
  match b.stream with
  | .scout _ =>
    (0, ((b.recs.foldl (ScoutEnc.place b.first) (ScoutEnc.start b.snaps)).items).reverse)
  | _ =>
    ((FrameEnc.start (b.first / 8) 0).fill (2 ^ 32) b.slots).1.words b.absents

/-- Raw payload bytes of F blocks of a super that wait for the F lane (R305). -/
def State.backlogBytes (s : State) (u : Nat) : Nat :=
  ((s.store u).cut.filter (fun b => match b.stream with | .frame _ _ => true | _ => false)).foldl
    (fun n b => n + 4 * (b.rawPayload).2.length) 0

/-- The slip limit for a backlog in bytes (R306); MID above HI acts as HI (DEDUCED, log entry 79). -/
def State.slipLimit (s : State) (u bytes : Nat) : Nat :=
  let hi := s.getF (.press u) R.PRESS_SLIP_HI
  let mid := min (s.getF (.press u) R.PRESS_SLIP_MID) hi
  if 1024 * hi < bytes then 4 else if 1024 * mid < bytes then 7 else 9

/-- PRESS_STATUS.BACKLOG and PRESS_BACKLOG_MAX follow the backlog, and the backlog high event is raised when it rises
past PRESS_SLIP.HI (R337). -/
def State.settleBacklog (s : State) (u : Nat) : State :=
  let bytes := s.backlogBytes u
  let n := bytes / 1024
  let before := s.getF (.press u) R.PRESS_STATUS_BACKLOG
  let hi := s.getF (.press u) R.PRESS_SLIP_HI
  let t := s.putF (.press u) R.PRESS_STATUS_BACKLOG n
  let t := t.putF (.press u) (blockBit 16) (flag (t.slipLimit u bytes != 9))
  let t := if t.getF (.press u) R.PRESS_BACKLOG_MAX_MAX < n then t.putF (.press u) R.PRESS_BACKLOG_MAX_MAX n else t
  if before ≤ hi ∧ hi < n then t.raise (.press u) 2 else t

/-- A 64-bit count of the PRESS page saturates. -/
def State.addPair (s : State) (p : Page) (lo hi : Fld) (n : Nat) : State :=
  s.putPair p lo hi (satAdd 64 (s.getPair p lo hi) n)

/-- A cut block is handed on: straight to the store when its stream is RAW, else to wait for the Press. A super whose
store cannot be written keeps nothing (R295) (DEDUCED, log entry 83). -/
def State.handOn (s : State) (b : CutBlock) : State :=
  let u := streamSuper b.stream
  if s.storeLost u then s
  else if s.codingOf b.stream = 0 then
    let p := b.rawPayload
    let t := if s.enabled (.press u) then
        (s.addPair (.press u) R.PRESS_IN_LO_BYTES R.PRESS_IN_HI_BYTES (4 * p.2.length)).addPair
          (.press u) R.PRESS_OUT_LO_BYTES R.PRESS_OUT_HI_BYTES (4 * p.2.length)
      else s
    t.writePiece u b .raw p.1 (4 * p.2.length) p.2
  else
    let x := s.store u
    (s.setStore u { x with cut := x.cut ++ [b] }).settleBacklog u

/-- The MPLL or the SPLL of super `u` coasts: until it locks again (R107 and the worked example after R112). -/
def State.coasting (s : State) (u : Nat) : Bool :=
  let on := fun (p : Page) => s.getF p R.PLL_STATUS_STATE == 5 || s.getF p R.PLL_STATUS_STATE == 6
  on (.pll 0) || on (.spll u 0)

/-! ### Gates, pauses and cuts -/

/-- The latest change at or before a tick. -/
def stateAt (l : List (Nat × Bool)) (d : Bool) (t : Nat) : Bool :=
  match l.find? (fun e => decide (e.1 ≤ t)) with
  | none => d
  | some e => e.2

/-- Window changes as they act on a stream (R280, R281). -/
def State.pausesOf (s : State) : StreamId → List (Nat × Bool)
  | .scout _ => s.take.scoutPauses
  | _ => s.take.pauses

/-- The store gate of the stream is ON and the window is not paused at a tick (R280). -/
def State.storing (s : State) (i : StreamId) (t : Nat) : Bool :=
  stateAt (s.stream i).gates true t && !stateAt (s.pausesOf i) false t

/-- State mode on the link of a frame (R175). -/
def State.stateMode (s : State) (u f : Nat) : Bool := s.getF (.pod u f) R.POD_LINK_STATUS_MODE == 1

/-- The segment now. -/
def State.segment (s : State) : Nat := s.getF .hive R.HIVE_TAKE_STATE_SEGMENT

/-- Raw words that a block of the stream may hold: `fit` is the number at which the coded block still fits (R310). -/
def State.wordLimit (s : State) (i : StreamId) (fit : Nat) : Nat :=
  if s.codingOf i = 0 then rawWords else min codedWords fit

/-- The slots of the open block that lie before a tick, with `stored` settled. -/
def State.openSlots (s : State) (u f stop : Nat) : List SlotRec :=
  let x := s.stream (.frame u f)
  markStored (s.getF (.frame u f) R.FRAME_STORE_CTRL_MODE) (s.getF (.frame u f) R.FRAME_STORE_CTRL_QUAL_WORD)
    (s.stateMode u f) (fun t => !s.storing (.frame u f) t) x.valueBefore
    (x.slots.filter (fun r => decide (8 * r.n < stop)))

/-- ABSENT records written before a slot, for the block under way (R292). -/
def absentsBefore (l : List (Nat × List Nat)) (n : Nat) : List (List Nat) :=
  (l.filter (fun e => decide (e.1 < n))).map Prod.snd

/-- The longest span: one that reaches 2^31 ticks is cut (R289). -/
def longestSpan : StreamId → Nat
  | .frame _ _ => 2 ^ 31 - 8
  | _ => 2 ^ 31 - 1

/-- A frame stream cuts its open block at `stop`, or earlier where the next stored word does not fit or the span would
reach 2^31 ticks (R289). Answers whether the whole of the open block up to `stop` went into it. -/
def State.cutFrame (s : State) (u f fit stop' : Nat) (last : Bool) : Bool × State :=
  let i := StreamId.frame u f
  let x := s.stream i
  let stop := min stop' (x.first + longestSpan i)
  let slots := s.openSlots u f stop
  let abs := absentsBefore x.absents (stop / 8)
  let e := (FrameEnc.start (x.first / 8) (6 * abs.length)).fill (s.wordLimit i fit) slots
  let fits := e.2.isEmpty
  let whole := fits && stop == stop'
  let stop' := if fits then stop else 8 * e.1.pos
  let mine := slots.filter (fun r => decide (8 * r.n < stop'))
  let b : CutBlock :=
    { stream := i, segment := x.segment, first := x.first, stop := stop', gap := x.gap, chosen := false
      last := last && whole, stateMode := s.stateMode u f, base := x.base, slots := mine, absents := abs, snaps := []
      recs := [], poison := [] }
  let y := { x with
    first := stop', gap := 0, chosen := false, base := nextBase x.base mine
    valueBefore := lastValue (s.stateMode u f) x.valueBefore mine
    slots := x.slots.filter (fun r => decide (stop' ≤ 8 * r.n))
    absents := x.absents.filter (fun e => decide (stop / 8 ≤ e.1)) }
  (whole, (s.setStream i y).handOn b)

/-- The scout stream cuts its open block at `stop`, or earlier where the next records do not fit or the span would reach
2^31 ticks (R289). -/
def State.cutScout (s : State) (u fit stop' : Nat) (last : Bool) : Bool × State :=
  let i := StreamId.scout u
  let x := s.stream i
  let stop := min stop' (x.first + longestSpan i)
  let recs := x.recs.filter (fun r => decide (r.tick < stop))
  let e := ScoutEnc.fill (s.wordLimit i fit) x.first recs.length (ScoutEnc.start x.snaps) recs
  let fits := e.2.isEmpty
  let whole := fits && stop == stop'
  let mine := recs.take (recs.length - e.2.length)
  let stop' := if fits then stop else
    match mine.getLast? with
    | none => x.first
    | some r => r.tick + 1
  let b : CutBlock :=
    { stream := i, segment := x.segment, first := x.first, stop := stop', gap := x.gap, chosen := x.chosen
      last := last && whole, stateMode := false, base := 0, slots := [], absents := [], snaps := x.snaps, recs := mine
      poison := [] }
  let y := { x with
    first := stop', gap := 0, chosen := false, snaps := mine.foldl snapAfter x.snaps
    recs := x.recs.filter (fun r => decide (stop' ≤ r.tick)) }
  (whole, (s.setStream i y).handOn b)

/-- The open M block is cut at `stop`: a RAW block of the records it holds (R287, R298). -/
def State.cutMarkAt (s : State) (stop : Nat) (last : Bool) : State :=
  let x := s.stream .mark
  let t := s.setStream .mark { x with first := stop, gap := 0, marks := [] }
  if s.storeLost 0 then t
  else
    let q := t.takeSeq .mark
    let bytes := x.marks.flatMap markBytes
    let h : Header :=
      { coding := 0, flags := flag last * 128, takeId := s.getF .hive R.HIVE_TAKE_ID_ID, stream := 0x3000
        segment := s.segment, seq := q.1, rawLen := bytes.length, first := x.first, span := stop - x.first
        firstRun := 0, base := 0, absentMask := 0, gap := x.gap, level := 0, coarsen := 0, glitch := 0 }
    q.2.sendBlock 0 ⟨s.segment, x.first, stop, 0x3000, headerBytes h bytes ++ bytes, []⟩

/-- M blocks are cut until the open one is shorter than 2^31 ticks at `stop` (R289); `fuel` bounds their number. -/
def State.cutLongMarks (s : State) (stop : Nat) : Nat → State
  | 0 => s
  | fuel + 1 =>
    let x := s.stream .mark
    if x.first + longestSpan .mark < stop then
      (s.cutMarkAt (x.first + longestSpan .mark) false).cutLongMarks stop fuel
    else s

/-- The open M block is cut at `stop`. -/
def State.cutMark (s : State) (stop : Nat) (last : Bool) : State :=
  (s.cutLongMarks stop ((stop - (s.stream .mark).first) / longestSpan .mark + 1)).cutMarkAt stop last

/-- Blocks are cut until the open block up to `stop` is handed on; `fuel` bounds their number. -/
def State.cutAll (s : State) (i : StreamId) (stop : Nat) (last : Bool) : Nat → State
  | 0 => s
  | fuel + 1 =>
    match i with
    | .mark => s.cutMark stop last
    | .frame u f =>
      let r := s.cutFrame u f codedWords stop last
      if r.1 then r.2 else r.2.cutAll i stop last fuel
    | .scout u =>
      let r := s.cutScout u codedWords stop last
      if r.1 then r.2 else r.2.cutAll i stop last fuel

/-- A bound on the blocks that the open data of a stream up to `stop` can make. -/
def StreamSt.size (x : StreamSt) (stop : Nat) : Nat :=
  x.slots.length + x.recs.length + (stop - x.first) / 2 ^ 30 + 1

/-! ### Holes (R293, R294) -/

/-- A block with SPAN 0 at `t`, which states the hole of `gap` ticks before it and carries the waiting ABSENT records. -/
def State.closingBlock (s : State) (i : StreamId) (t gap : Nat) (chosen last : Bool) : State :=
  match i with
  | .mark => s.cutMark t last
  | _ =>
    let x := s.stream i
    let b : CutBlock :=
      { stream := i, segment := x.segment, first := t, stop := t, gap := gap, chosen := chosen, last := last
        stateMode := (match i with | .frame u f => s.stateMode u f | _ => false), base := x.base, slots := []
        absents := x.absents.map Prod.snd, snaps := x.snaps, recs := [], poison := [] }
    (s.setStream i { x with first := t, gap := 0, chosen := false, absents := [] }).handOn b

/-- A stream begins a hole at tick `t`: its block ends there, and where it has just cut one no block is written. A hole
of the other kind under way is closed by a block of SPAN 0, so that each hole is of one kind (R294). -/
def State.holeBegin (s : State) (i : StreamId) (t : Nat) (chosen : Bool) : State :=
  let x := s.stream i
  if !x.present then s
  else match x.hole with
  | some (h, c) =>
    if c == chosen then s
    else
      let u := s.closingBlock i t (t - h) c false
      u.setStream i { u.stream i with hole := some (t, chosen) }
  | none =>
    if t ≤ x.first then
      if x.gap != 0 && x.chosen == chosen then
        s.setStream i { x with hole := some (x.first - x.gap, chosen), gap := 0 }
      else if x.gap != 0 then
        let u := s.closingBlock i x.first x.gap x.chosen false
        u.setStream i { u.stream i with hole := some (x.first, chosen) }
      else s.setStream i { x with hole := some (x.first, chosen) }
    else
      let u := s.cutAll i t false (x.size t)
      u.setStream i { u.stream i with hole := some (t, chosen) }

/-- Slots of a lost hole are counted in FRAME_STORE_LOST. -/
def State.countLost (s : State) (i : StreamId) (ticks : Nat) (chosen : Bool) : State :=
  match i with
  | .frame u f => if chosen then s else s.bump (.frame u f) R.FRAME_STORE_LOST_COUNT (ticks / 8)
  | _ => s

/-- Data is kept again from tick `t`: the next block carries the exact length of the hole. -/
def State.holeEnd (s : State) (i : StreamId) (t : Nat) : State :=
  let x := s.stream i
  match x.hole with
  | none => s
  | some (h, c) =>
    let u := s.countLost i (t - h) c
    u.setStream i { x with
      hole := none, first := t, gap := t - h, chosen := c
      snaps := (x.recs.filter (fun r => decide (r.tick < t))).foldl snapAfter x.snaps
      slots := x.slots.filter (fun r => decide (t ≤ 8 * r.n)), recs := x.recs.filter (fun r => decide (t ≤ r.tick)) }

/-- A segment of the stream is closed at tick `t`, the one after its last slot: the last block carries LAST, and a hole that
lasts to there is closed by a block of SPAN 0. -/
def State.closeStream (s : State) (i : StreamId) (t : Nat) : State :=
  let x := s.stream i
  if !x.present then s
  else match x.hole with
  | some (h, c) =>
    let u := (s.countLost i (t - h) c).closingBlock i t (t - h) c true
    u.setStream i { u.stream i with hole := some (t, c) }
  | none => s.cutAll i t true (x.size t)

/-- The stream closes a segment that has ended, and goes on with the next one, or is over with the take. -/
def State.closeSegment (s : State) (i : StreamId) (e : Ended) : State :=
  let x := s.stream i
  if x.present && x.segment == e.segment then
    let u := s.closeStream i (8 * (e.last + 1))
    u.setStream i { u.stream i with segment := e.segment + 1, present := !e.final }
  else s

/-! ### The mark stream (R296 to R298) -/

/-- A record enters the open M block; a block that is full is cut first, at the present tick. -/
def State.enterMark (s : State) (r : MarkRec) : State :=
  let t := if (s.stream .mark).marks.length < markCapacity then s else s.cutMark s.hiveTime false
  let x := t.stream .mark
  t.setStream .mark { x with
    marks := x.marks ++ [r]
    markSince := if x.marks.isEmpty then s.hiveTime else x.markSince }

/-- A system record arises: it enters the system queue of 64 entries, or waits at its source, in order (R298). Where no
M stream is open nothing is written. -/
def State.systemMark (s : State) (r : MarkRec) : State :=
  if (s.stream .mark).present then
    let r := { r with segment := s.segment }
    if s.take.waiting.isEmpty && decide (s.take.system.length < 64) then
      { s with take := { s.take with system := s.take.system ++ [r] } }
    else { s with take := { s.take with waiting := s.take.waiting ++ [r] } }
  else s

/-- A plain system record: only the fields that its type uses. -/
def sysRec (type super time a16 a32 t2 a64 : Nat) : MarkRec := ⟨time, type, super, a16, a32, t2, a64, 0⟩

/-- The oldest system record enters the open M block, and a waiting one takes its place in the queue
(DESIGN CHOICE, log entry 78). -/
def State.drainSystem (s : State) : State :=
  match s.take.system with
  | [] => s
  | r :: rest =>
    let t := { s with take := { s.take with system := rest ++ s.take.waiting.take 1, waiting := s.take.waiting.drop 1 } }
    t.enterMark r

/-- Every system record enters the M stream; `fuel` bounds their number. -/
def State.drainAllSystem (s : State) : Nat → State
  | 0 => s
  | fuel + 1 => if s.take.system.isEmpty then s else s.drainSystem.drainAllSystem fuel

/-- The whole of the system queue and of what waits for it. -/
def State.flushSystem (s : State) : State := s.drainAllSystem (s.take.system.length + s.take.waiting.length)

/-- No mark record of a segment before `k` is still on its way (R271). -/
def State.marksEntered (s : State) (k : Nat) : Bool :=
  (s.take.system ++ s.take.waiting).all (fun r => decide (k ≤ r.segment))
    && (List.range 9).all (fun u => (s.seq u).marks.all (fun m => decide (k ≤ m.segment)))
    && s.supers.all (fun u => (s.store u).owed.all (fun o => decide (k ≤ o.segment)))

end Sys2Proof.Machine
end

