-- ==== Sys2Proof/Machine/Frames.lean ====
section
/-!
DEFINITION. The frame pipeline (chapters 05 and 06): placing samples on the grid, cell states and edges, pattern words,
the record builder's slots and ABSENT records, and counters and timers. A frame takes its slots in order, each four
beats after its own (R170), once every lane that feeds it has delivered the base slots that the greatest deskew may ask
for.
-/
namespace Sys2Proof.Machine

/-! ### Cells and lanes -/

/-- Running version of a pod link (POD_LINK_STATUS.VERSION): 1, 2, or 0 for none. -/
def State.linkVersion (s : State) (u f : Nat) : Nat := s.getF (.pod u f) R.POD_LINK_STATUS_VERSION

/-- Cells carried by a lane, and slots of a data block, in a version (R117). -/
def laneCells (version : Nat) : Nat := if version = 1 then 8 else 16
def blockSlots (version : Nat) : Nat := if version = 1 then 8 else 4

/-- The lane that carries cell `c` and its bit there (R125); none for C16 to C31 of version 1. -/
def cellLane (version c : Nat) : Option (Lane × Nat) :=
  let w := laneCells version
  if c < w then some (.a, c) else if c < 2 * w then some (.b, c - w) else none

def PodSt.lane (p : PodSt) : Lane → LaneSt
  | .a => p.laneA
  | .b => p.laneB

def PodSt.setLane (p : PodSt) (l : Lane) (x : LaneSt) : PodSt :=
  match l with
  | .a => { p with laneA := x }
  | .b => { p with laneB := x }

/-- The other lane of a link. -/
def otherLane : Lane → Lane
  | .a => .b
  | .b => .a

/-- The lane feeds its cells, so that a frame waits for its slots. -/
def LaneSt.feeds (x : LaneSt) : Bool := x.delivering && !x.skipGroup

/-- FRAME_DESKEW0 to 7 of a frame, and the deskew of cell `c` in ticks that they give. -/
def State.deskews (s : State) (u f : Nat) : List Nat :=
  (List.range 8).map (fun m => (s.word (pageBase (.frame u f) + 0x110 + 4 * m)).toNat)
def deskewOf (l : List Nat) (c : Nat) : Int := signedOf 8 (bitsOf (l.getD (c / 4) 0) (8 * (c % 4) + 7) (8 * (c % 4)))

/-- The placement shift floor((φ + D) ÷ 8) of R168. -/
def placement (phase : Nat) (d : Int) : Int := ((phase : Int) + d) / 8

/-- The base slot whose sample a cell with deskew `d` places in slot `n` (R168, R171). -/
def LaneSt.placedAt (x : LaneSt) (d : Int) (n : Nat) : Option BaseSlot :=
  x.buffer.find? (fun b => (b.n : Int) + placement b.phase d == (n : Int))

/-- The bitmap of the state-mode group that holds slot `n`, and the group's base slot. -/
def LaneSt.bitmapOf (x : LaneSt) (n : Nat) : Option (Nat × Nat) :=
  x.bitmaps.find? (fun g => decide (g.1 ≤ n) && decide (n < g.1 + 64))

/-- The lane's bitmap that settles VALID: lane A's, or lane B's when lane A is lost (R173). -/
def PodSt.validOf (p : PodSt) (n : Nat) : Bool :=
  match (if p.laneA.delivering then p.laneA else p.laneB).bitmapOf n with
  | none => false
  | some (g, m) => bitOf m (n - g)

/-- The bitmaps of both lanes for the group that holds slot `n` differ (R173). -/
def PodSt.mismatch (p : PodSt) (n : Nat) : Bool :=
  match p.laneA.bitmapOf n, p.laneB.bitmapOf n with
  | some a, some b => p.laneA.delivering && a.1 == b.1 && a.2 != b.2
  | _, _ => false

/-- What a cell receives for a slot (R163). -/
inductive CellIn where
  | disabled
  | absent
  /-- Present, with no state of its own in this slot (R174). -/
  | kept
  | sample (v : Bool)
deriving DecidableEq, Repr

/-- The states of the 32 cells in slot `n` (R163): for each, the first row that matches decides. -/
def State.cellsIn (s : State) (u f n : Nat) : List CellIn :=
  let en := if s.enabled (.frame u f) then s.getF (.frame u f) R.FRAME_CELL_EN_EN else 0
  let held := (s.frame u f).heldAbsent
  let p := s.pod u f
  let version := s.linkVersion u f
  let offB := s.isSet (.pod u f) R.POD_LINK_CTRL_LANE_B_OFF
  let differ := s.stateMode u f && p.mismatch n
  let shifts := s.deskews u f
  (List.range 32).map (fun c =>
    if !bitOf en c then .disabled
    else if bitOf held c then .absent
    else match cellLane version c with
    | none => .absent
    | some (l, i) =>
      if l == .b && offB then .absent
      else match (p.lane l).placedAt (deskewOf shifts c) n with
      | none => .absent
      | some b =>
        if !b.good then .absent
        else if l == .b && differ then .absent
        else if b.sampled then .sample (bitOf b.bits i) else .kept)

/-- Bits of the cells whose input satisfies a test (DEDUCED, log entry 57). -/
def cellsWhere (l : List CellIn) (q : CellIn → Bool) : Nat :=
  ofBits ((List.range 32).filter (fun c => q (l.getD c .disabled)))

/-- The outputs of the cells in a slot (R165, R174, R176, R177), with what each delivered last. -/
def cellOutputs (x : FrameSt) (valid : Bool) (ins : List CellIn) : CellOut × Nat :=
  let disabled := cellsWhere ins (· == .disabled)
  let absent := cellsWhere ins (· == .absent)
  let ones := cellsWhere ins (· == .sample true)
  let sampled := cellsWhere ins (fun i => i == .sample true || i == .sample false)
  let present := 0xFFFFFFFF ^^^ (disabled ||| absent)
  let held := (x.held &&& (0xFFFFFFFF ^^^ sampled)) ||| ones
  let value := held &&& (0xFFFFFFFF ^^^ disabled)
  let edges := if valid then (value ^^^ x.before) &&& present &&& x.seen else 0
  (⟨value, edges &&& value, edges &&& (0xFFFFFFFF ^^^ value), present, valid⟩, held)

/-! ### Recording -/

/-- The slot lies in the take: from its first slot to its last (R221, R263). -/
def State.slotInTake (s : State) (n : Nat) : Bool :=
  s.take.begun && decide (s.take.first ≤ n) &&
    match s.take.last with
    | none => true
    | some e => decide (n ≤ e.1)


/-- An ABSENT record joins the stream's block under way, or waits for the first one after a hole (R292). -/
def State.addAbsent (s : State) (u f n : Nat) (r : List Nat) : State :=
  let i := StreamId.frame u f
  let x := s.stream i
  if x.present then s.setStream i { x with absents := x.absents ++ [(n, r)] } else s

/-- The cells in `mask`, lost since `start`, are delivered again in slot `n`: one record for each start (R160). -/
def State.closeAbsent (s : State) (u f n : Nat) (isOpen : Bool) (back : Nat) : State :=
  let x := s.frame u f
  let ended := x.lostSince.filter (fun e => bitOf back e.1)
  let starts := (ended.map Prod.snd).eraseDups
  let t := starts.foldl (fun t a =>
    t.addAbsent u f n (absentRecord isOpen
      (ofBits ((ended.filter (fun e => e.2 == a)).map Prod.fst)) (8 * a) (8 * n))) s
  t.setFrame u f { t.frame u f with lostSince := x.lostSince.filter (fun e => !bitOf back e.1) }

/-- ABSENT intervals of the cells enabled for the take, as slot `n` leaves them (R155, R160, R164). -/
def State.trackAbsent (s : State) (u f n absent : Nat) : State :=
  let x := s.frame u f
  let lost := (bitsSet 32 absent).filter (fun c => !(x.lostSince.any (fun e => e.1 == c)))
  let t := s.setFrame u f { x with lostSince := x.lostSince ++ lost.map (fun c => (c, n)) }
  t.closeAbsent u f n false (0xFFFFFFFF ^^^ absent)

/-- The frame has taken the last slot of a segment that has ended: its stream closes there. With the take's last slot, open
and waiting ABSENT records go into the last block, and cells held ABSENT under R159 are released. -/
def State.closeFrame (s : State) (u f : Nat) (e : Ended) : State :=
  let i := StreamId.frame u f
  if e.final then
    let t := s.closeAbsent u f (e.last + 1) true 0xFFFFFFFF
    let t := t.setFrame u f { t.frame u f with heldAbsent := 0, lostSince := [] }
    let x := t.stream i
    (t.setStream i { x with absents := x.absents.map (fun a => (0, a.2)) }).closeSegment i e
  else s.closeSegment i e

/-- Slot `n` has been taken, which may be the last one of a segment that has ended. -/
def State.closeAt (s : State) (u f n : Nat) : State :=
  match s.take.closing.find? (fun e => e.last == n) with
  | none => s
  | some e => s.closeFrame u f e

/-- The record builder takes a slot: into the open block, or during a hole only as the value that later slots are
compared with. -/
def State.recordSlot (s : State) (u f : Nat) (r : SlotRec) : State :=
  let i := StreamId.frame u f
  let x := s.stream i
  if !x.present then s
  else if x.hole.isSome || decide (8 * r.n < x.first) then
    if s.stateMode u f && !r.valid then s
    else s.setStream i { x with valueBefore := r.value, base := r.value }
  else s.setStream i { x with slots := x.slots ++ [r] }

/-! ### One slot of a frame -/

/-- The eight pattern words in a slot (R206, R209): new run lengths, raw results and qualified results. -/
def State.patternWords (s : State) (u f : Nat) (runs : List Nat) (qualBefore : Nat) (o : CellOut) :
    List Nat × Nat × Nat :=
  (List.range 8).foldl (fun a w =>
    let ws := s.wordSet u f w
    let p := rawResult ws o
    let q := qualify ws o.valid p (bitOf qualBefore w) (runs.getD w 0)
    (a.1 ++ [q.1], a.2.1 ||| flag p * 2 ^ w, a.2.2 ||| flag q.2 * 2 ^ w)) ([], 0, 0)

/-- Run lengths at the start of the take's first slot: 0 for the words with FRESH (R223). -/
def State.freshRuns (s : State) (u f : Nat) (runs : List Nat) : List Nat :=
  (List.range 8).map (fun w => if s.isSet (.frame u f) (R.FRAME_PW_CTRL_FRESH w) then 0 else runs.getD w 0)

/-- What the take's first slot sets in a frame before its update (R159, R179, R223, R224). -/
def State.startFrame (s : State) (u f : Nat) : State :=
  let x := s.frame u f
  let en := s.getF (.frame u f) R.FRAME_CELL_EN_EN
  let i := StreamId.frame u f
  let t := s.setFrame u f { x with
    runs := s.freshRuns u f x.runs
    counters := (List.range 4).map (fun n =>
      ⟨(s.counterSet u f n).init, s.isSet (.frame u f) (R.FRAME_CNT_CTRL_START_PAUSED n), false⟩)
    timers := List.replicate 4 ⟨0, false, false⟩
    ops := [], eval := [], flags := [], lostSince := []
    heldAbsent := en &&& (0xFFFFFFFF ^^^ x.present)
    snapshot := (x.value, x.present) }
  t.setStream i { t.stream i with base := x.value, valueBefore := if s.stateMode u f then x.before else x.value }

/-- FRAME_CELL_ABSENT and BLOCK_STATUS follow the cells (R163 and the closing paragraph of chapter 06's pages). -/
def State.showCells (s : State) (u f absent : Nat) : State :=
  let p := Page.frame u f
  let t := s.putF p R.FRAME_CELL_ABSENT_ABSENT absent
  t.putF p R.PAGE_STATUS_BLOCK_STATUS (flag (absent != 0) ||| 2 * flag (s.stateMode u f))

/-- The painter takes columns (R605), and `d` of its intervals of 2^d slots. -/
def State.painting (s : State) : Bool := s.enabled .board && s.isSet .board R.BOARD_PAINT_EN
def State.decim (s : State) : Nat := max 8 (min 24 (s.getF .board R.BOARD_PAINT_DECIM))

/-- A slot of interval `k` joins what the painter needs of the frame. -/
def paintSlot (l : List PaintAcc) (k : Nat) (o : CellOut) : List PaintAcc :=
  let absent := 0xFFFFFFFF ^^^ o.present
  match l with
  | [] => [⟨k, absent, o.rise ||| o.fall, o.value⟩]
  | a :: rest =>
    if a.interval = k then ⟨k, a.absent ||| absent, a.edge ||| o.rise ||| o.fall, o.value⟩ :: rest
    else ⟨k, absent, o.rise ||| o.fall, o.value⟩ :: l.take 3

/-- The frame takes its next slot. -/
def State.frameSlot (s : State) (u f : Nat) : State :=
  let n := (s.frame u f).next
  let s := if s.take.begun && n == s.take.first then s.startFrame u f else s
  let x := s.frame u f
  let p := s.pod u f
  let valid := !s.stateMode u f || p.validOf n
  let ins := s.cellsIn u f n
  let oh := cellOutputs x valid ins
  let o := oh.1
  let absent := cellsWhere ins (· == .absent)
  let w := s.patternWords u f x.runs x.qual o
  let gone := 0xFFFFFFFF ^^^ o.present
  let horizon := fun (k : Nat) => decide (n ≤ k + 8)
  let trim := fun (l : LaneSt) =>
    { l with buffer := l.buffer.filter (fun b => horizon b.n), bitmaps := l.bitmaps.filter (fun g => horizon (g.1 + 64)) }
  let t := s.setPod u f { p with laneA := trim p.laneA, laneB := trim p.laneB }
  let t := t.setFrame u f { x with
    next := n + 1, value := o.value, held := oh.2, present := o.present, runs := w.1, qual := w.2.2
    before := if valid then o.value else x.before
    seen := (x.seen &&& (0xFFFFFFFF ^^^ gone)) ||| (if valid then o.present else 0)
    eval := x.eval ++ [⟨n, valid, w.2.1, w.2.2, x.qual⟩]
    paint := if s.painting then paintSlot x.paint (n / 2 ^ s.decim) o else x.paint }
  let t := t.showCells u f absent
  if s.slotInTake n then
    ((t.trackAbsent u f n absent).recordSlot u f ⟨n, o.value, valid, absent, w.2.2, s.coasting u, false⟩).closeAt u f n
  else t

/-! ### Counters and timers -/

/-- The operation word due in a slot, or none (R220). -/
def FrameSt.opAt (x : FrameSt) (n : Nat) : Option Nat := (x.ops.find? (fun o => o.slot == n)).map (·.word)

/-- The counters after a slot, each with whether it wrapped and whether it reloaded (R215). -/
def State.countersAt (s : State) (u f : Nat) (x : FrameSt) (e : EvalSlot) : List (Counter × Bool × Bool) :=
  let op := (x.opAt e.n).getD 0
  (List.range 4).map (fun n =>
    let c := s.counterSet u f n
    counterUpdate c (counterOp op n) (counterFires c e) (x.counters.getD n ⟨0, false, false⟩))

/-- The timers after a slot (R218). -/
def State.timersAt (s : State) (u f : Nat) (x : FrameSt) (e : EvalSlot) : List Timer :=
  let op := (x.opAt e.n).getD 0
  (List.range 4).map (fun n =>
    let c := s.timerSet u f n
    timerUpdate c (timerOp op n) (timerStops c e) (timerStarts c e s.take.first)
      (x.timers.getD n ⟨0, false, false⟩))

/-- Something happens in the slot that is a step of its own: an operation takes effect, a counter wraps or reloads, a
timer's flag rises. -/
def State.slotEvents (s : State) (u f : Nat) (x : FrameSt) (e : EvalSlot) : Bool :=
  (x.opAt e.n).isSome || (s.countersAt u f x e).any (fun c => c.2.1 || c.2.2)
    || ((List.range 4).any (fun n =>
        ((s.timersAt u f x e).getD n ⟨0, false, false⟩).flagged && !(x.timers.getD n ⟨0, false, false⟩).flagged))

/-- The sixteen flags of a slot (R211). -/
def frameFlags (e : EvalSlot) (cs : List Counter) (ts : List Timer) : Nat :=
  e.qual ||| ofBits ((List.range 4).filter (fun n => (cs.getD n ⟨0, false, false⟩).flagged)) <<< 8
    ||| ofBits ((List.range 4).filter (fun n => (ts.getD n ⟨0, false, false⟩).flagged)) <<< 12

/-- FRAME_CNTn_VAL, FRAME_CNT_STATUS, FRAME_TMRn_VAL and FRAME_TMRn_STATUS show the counters and timers. -/
def State.showCounters (s : State) (u f : Nat) : State :=
  let x := s.frame u f
  let p := Page.frame u f
  let s := s.putF p R.FRAME_CNT_STATUS_PAUSED
    (ofBits ((List.range 4).filter (fun n => (x.counters.getD n ⟨0, false, false⟩).paused)))
  (List.range 4).foldl (fun t n =>
    let c := x.counters.getD n ⟨0, false, false⟩
    let m := x.timers.getD n ⟨0, false, false⟩
    let t := t.putPair p (R.FRAME_CNT_VAL_LO_VAL n) (R.FRAME_CNT_VAL_HI_VAL n) c.value
    let t := t.putPair p (R.FRAME_TMR_VAL_LO_VAL n) (R.FRAME_TMR_VAL_HI_VAL n) m.value
    t.putF p (R.FRAME_TMR_STATUS_RUNNING n) (flag m.running)) s

/-- FRAME_FLAGS shows the latest slot whose flags are valid. -/
def State.showFlags (s : State) (u f : Nat) (e : EvalSlot) (flags : Nat) : State :=
  (s.putF (.frame u f) R.FRAME_FLAGS_RAW e.raw).putF (.frame u f) R.FRAME_FLAGS_FLAGS flags

/-- The oldest evaluated slot is worked on: counters and timers update within the take (R221), a wrap is shown, counted
and raised (R216), and the slot's flags go to the super sequencer. -/
def State.evalSlot (s : State) (u f : Nat) : State :=
  let x := s.frame u f
  match x.eval with
  | [] => s
  | e :: rest =>
    if s.slotInTake e.n then
      let cs := s.countersAt u f x e
      let ts := s.timersAt u f x e
      let t := s.setFrame u f { x with
        eval := rest, counters := cs.map Prod.fst, timers := ts
        flags := x.flags ++ [(e.n, frameFlags e (cs.map Prod.fst) ts)]
        ops := x.ops.filter (fun o => !(o.slot == e.n)) }
      (List.range 4).foldl (fun t n =>
        if (cs.getD n (⟨0, false, false⟩, false, false)).2.1 then
          ((t.setBitF (.frame u f) R.FRAME_CNT_WRAP_WRAPPED n).bump (.frame u f) R.FRAME_CNT_WRAP_COUNT 1).raise
            (.frame u f) 3
        else t) ((t.showCounters u f).showFlags u f e (frameFlags e (cs.map Prod.fst) ts))
    else (s.setFrame u f { x with eval := rest }).showFlags u f e (frameFlags e x.counters x.timers)

/-- Slots without an event of their own are worked on as they come; `fuel` bounds their number. -/
def State.runQuiet (s : State) (u f : Nat) : Nat → State
  | 0 => s
  | fuel + 1 =>
    match (s.frame u f).eval with
    | [] => s
    | e :: _ =>
      if s.slotInTake e.n && s.slotEvents u f (s.frame u f) e then s else (s.evalSlot u f).runQuiet u f fuel

/-- Every slot up to the next event. -/
def State.runEval (s : State) (u f : Nat) : State := s.runQuiet u f (s.frame u f).eval.length

/-! ### Taking slots -/

/-- The lanes that feed the frame have delivered every base slot that a cell may place in slot `n` (R169). -/
def State.delivered (s : State) (u f n : Nat) : Bool :=
  let p := s.pod u f
  let ok := fun (l : LaneSt) => !l.feeds || decide (n + 9 ≤ l.newest)
  ok p.laneA && ok p.laneB

/-- The super's intake is stopped at slot `n` (R109). -/
def State.intakeStopped (s : State) (u n : Nat) : Bool := s.stopped.any (fun e => e.1 == u && decide (e.2 ≤ n))

/-- The frame takes slots below `bound` for as long as it can; `fuel` bounds their number (DEDUCED, log entry 56). -/
def State.takeSlots (s : State) (u f bound : Nat) : Nat → State
  | 0 => s
  | fuel + 1 =>
    let n := (s.frame u f).next
    if n < bound ∧ s.delivered u f n ∧ !s.intakeStopped u n then
      ((s.frameSlot u f).runEval u f).takeSlots u f bound fuel
    else s

/-- The slots that reach a frame by now: those of the beats four or more before the present one (R170). While a take is
ARMED, its first slot waits for the take to begin. -/
def State.reached (s : State) : Nat :=
  let n := 4 * (beatOf s.hiveTime + 1 - 4)
  if s.takeState = 1 then min n s.take.first else n

/-- The frame catches up with the slots that have reached it. -/
def State.catchUp (s : State) (u f : Nat) : State :=
  if s.enabled (.frame u f) then
    (s.takeSlots u f s.reached (s.reached - (s.frame u f).next)).runEval u f
  else s

/-- Every frame of a super catches up. -/
def State.catchUpAll (s : State) (u : Nat) : State := (List.range 8).foldl (fun t f => t.catchUp u f) s

/-- The frame begins afresh: an apply of ENABLE at 1 (R661). -/
def State.restartFrame (s : State) (u f : Nat) : State :=
  s.setFrame u f { FrameSt.reset with
    next := s.reached, counters := (s.frame u f).counters, timers := (s.frame u f).timers }

/-- After a load of hive time, slots have new numbers: what the alignment buffers hold is gone, and every frame goes on at
the slots that reach it now. -/
def State.regrid (s : State) : State :=
  let empty := fun (l : LaneSt) => { l with newest := 0, group := none, buffer := [], bitmaps := [] }
  let t := s.supers.foldl (fun t u => (List.range 8).foldl (fun t f =>
    let p := t.pod u f
    let t := t.setPod u f { p with laneA := empty p.laneA, laneB := empty p.laneB }
    t.setFrame u f { t.frame u f with next := s.reached, eval := [] }) t) s
  { t with turnAt := none }

/-- Run lengths restart at 0 for the words in `mask` (R223). -/
def State.restartRuns (s : State) (u f mask : Nat) : State :=
  let x := s.frame u f
  s.setFrame u f { x with runs := (List.range 8).map (fun w => if bitOf mask w then 0 else x.runs.getD w 0) }

end Sys2Proof.Machine
end

