-- ==== Sys2Proof/Machine/Scouts.lean ====
section
/-!
DEFINITION. Scout recorders (chapter 05, R281): transitions wait until the store gates and window controls of their beat
are in effect, and are then formed into records under the token bucket, suspension and resumption rules.
-/
namespace Sys2Proof.Machine

/-- Units of the bucket in one token (R196). -/
def tokenUnits : Nat := 12800

/-- Units in the bucket at tick `t`: ALLOW at every tick, up to BURST tokens (R196). -/
def State.bucketAt (s : State) (u k t : Nat) : Nat :=
  let x := s.scout u k
  min (s.getF (.scout u k) R.SCOUT_BUDGET_BURST * tokenUnits)
    (x.bucket + s.getF (.scout u k) R.SCOUT_BUDGET_ALLOW * (t - x.bucketAt))

/-- Tokens are spent at tick `t`. -/
def State.spend (s : State) (u k t tokens : Nat) : State :=
  s.setScout u k { s.scout u k with bucket := s.bucketAt u k t - tokens * tokenUnits, bucketAt := t }

/-- An item joins the super's scout stream, in order of tick and then of index (R191). -/
def insertRec (r : ScoutRec) : List ScoutRec → List ScoutRec
  | [] => [r]
  | x :: xs =>
    if x.tick < r.tick ∨ (x.tick = r.tick ∧ x.index ≤ r.index) then x :: insertRec r xs else r :: x :: xs

/-- The recorder of scout `k` writes an item. -/
def State.scoutItem (s : State) (u k t : Nat) (i : ScoutItem) : State :=
  let x := s.stream (.scout u)
  let r : ScoutRec := ⟨t, k, i, s.coasting u⟩
  if t < x.first then s.setStream (.scout u) { x with snaps := snapAfter x.snaps r }
  else s.setStream (.scout u) { x with recs := insertRec r x.recs }

/-- A transition is left out: it is counted in SCOUT_LOST and for the LOST of the next RESUME (R188, R199). -/
def State.leaveOut (s : State) (u k t : Nat) (level : Bool) : State :=
  let x := s.scout u k
  ((s.setScout u k { x with lost := satAdd 32 x.lost 1, recLevel := level }).bump (.scout u k) R.SCOUT_LOST_COUNT 1).scoutItem
    u k t (.silent level)

/-- SCOUT_STATUS.IN_OVERRUN follows the recorder. -/
def State.setSuspend (s : State) (u k : Nat) (v : Suspend) : State :=
  (s.setScout u k { s.scout u k with suspend := v }).putF (.scout u k) R.SCOUT_STATUS_IN_OVERRUN
    (flag (v == .overrun))

/-- The scout writes a RESUME at tick `t`, carrying LOST (R192): 3 tokens. A transition of that very tick shows in its
LEVEL alone (R660). -/
def State.writeResume (s : State) (u k t : Nat) : State :=
  let x := s.scout u k
  let here := x.raw.filter (fun e => e.1 == t)
  let level := match here.getLast? with | none => x.recLevel | some e => e.2
  let s := (s.spend u k t 3).scoutItem u k t (.resume level x.lost)
  (s.setScout u k { s.scout u k with
    lost := 0, recLevel := level, raw := x.raw.filter (fun e => !(e.1 == t)) }).setSuspend u k .none

/-- The first tick from `a` on at which an overrun scout's bucket holds SCOUT_RESUME.LEVEL tokens (R197), when its
bucket fills at all. -/
def State.resumeTick (s : State) (u k a : Nat) : Option Nat :=
  let x := s.scout u k
  let need := s.getF (.scout u k) R.SCOUT_RESUME_LEVEL * tokenUnits
  let allow := s.getF (.scout u k) R.SCOUT_BUDGET_ALLOW
  if need ≤ s.bucketAt u k a then some a
  else if allow = 0 then none
  else some (max a (x.bucketAt + ceilDiv (need - x.bucket) allow))

/-- A transition at tick `t` is recorded, or meets fewer than 3 tokens: then an OVERRUN is written (R197, R199). -/
def State.recordEdge (s : State) (u k t : Nat) (level : Bool) : State :=
  let x := s.scout u k
  if 3 * tokenUnits ≤ s.bucketAt u k t then
    let s := s.spend u k t 1
    (s.setScout u k { s.scout u k with recLevel := level }).scoutItem u k t (.edge level)
  else
    let s := ((s.spend u k t 2).scoutItem u k t (.overrun x.recLevel)).setSuspend u k .overrun
    let s := (s.bump (.scout u k) R.SCOUT_OVERRUN_COUNT 1).raise (.scout u k) 0
    (s.setScout u k { s.scout u k with lost := 1, recLevel := level }).bump (.scout u k) R.SCOUT_LOST_COUNT 1

/-- A scout that left transitions out resumes at tick `t` when its bucket holds at least 5 tokens, and else stays suspended
as though it had written an OVERRUN (R195, R281). -/
def State.resumeOrHold (s : State) (u k t : Nat) : State :=
  if 5 * tokenUnits ≤ s.bucketAt u k t then s.writeResume u k t
  else (s.setSuspend u k .overrun).scoutItem u k t (.held (s.scout u k).recLevel)

/-- Storing of a stream is off by choice. -/
def StreamSt.chosenHole (x : StreamSt) : Bool :=
  match x.hole with
  | some (_, c) => c
  | none => false

/-- SCOUT_STATUS.SETTLING, and BLOCK_STATUS with it. -/
def State.showSettling (s : State) (u k : Nat) (b : Bool) : State :=
  (s.putF (.scout u k) R.SCOUT_STATUS_SETTLING (flag b)).putF (.scout u k) R.PAGE_STATUS_BLOCK_STATUS (flag b)

/-- Settling ends for the recorder at tick `t` (R185, R195). -/
def State.settle (s : State) (u k t : Nat) : State := (s.showSettling u k false).resumeOrHold u k t

/-- The next transition waiting is formed into a record, or left out, or an overrun scout resumes, or settling ends,
first; ticks from `a` up to, but not including, `b`. While storing is off no tokens are taken (R281). -/
def State.formOne (s : State) (u k a b : Nat) : State :=
  let x := s.scout u k
  let due := if (s.stream (.scout u)).chosenHole then none
    else if x.suspend == .overrun then
      match s.resumeTick u k a with
      | none => none
      | some t => if t < b then some t else none
    else if x.suspend == .settling && decide (x.settleEnd < b) then some (max a x.settleEnd)
    else none
  let go := fun (t : Nat) => if x.suspend == .settling then s.settle u k t else s.writeResume u k t
  match x.raw, due with
  | [], none => s
  | [], some t => go t
  | (t, v) :: rest, d =>
    let resumeFirst := match d with | none => false | some r => decide (r ≤ t)
    if resumeFirst then go (d.getD 0)
    else if t < b then
      let s := s.setScout u k { x with raw := rest }
      if x.suspend == .none then s.recordEdge u k t v else s.leaveOut u k t v
    else s

/-- Scout `k` forms what lies from `a` up to `b`; `fuel` bounds the number of items. -/
def State.formScout (s : State) (u k a b : Nat) : Nat → State
  | 0 => s
  | fuel + 1 => (s.formOne u k a b).formScout u k a b fuel

/-- Scouts of the super that record: those enabled. -/
def State.activeScouts (s : State) (u : Nat) : List Nat := (List.range 8).filter (fun k => s.enabled (.scout u k))

/-- Storing of the scout stream stops by choice at tick `a`: its block ends, and its scouts take no tokens (R281). -/
def State.stopByChoice (s : State) (u a : Nat) : State :=
  let t := s.holeBegin (.scout u) a true
  (s.activeScouts u).foldl (fun t k =>
    if (t.scout u k).suspend == .none then
      (t.setScout u k { t.scout u k with lost := 0 }).setSuspend u k .chosen
    else t) t

/-- Storing resumes at tick `a`: a scout that left transitions out writes a RESUME when its bucket holds at least 5
tokens, else stays suspended as in overrun (R281). -/
def State.startByChoice (s : State) (u a : Nat) : State :=
  let t := s.holeEnd (.scout u) a
  (s.activeScouts u).foldl (fun t k =>
    let x := t.scout u k
    if x.suspend == .chosen then
      if x.lost = 0 then t.setSuspend u k .none
      else t.resumeOrHold u k a
    else t) t

/-- The next gate or window change, or end of a segment, after tick `a` and before `b`, or `b`. -/
def State.nextChange (s : State) (u a b : Nat) : Nat :=
  (((s.stream (.scout u)).gates ++ s.take.scoutPauses).map Prod.fst ++ s.take.closing.map (fun (e : Ended) => 8 * (e.last + 1))).foldl
    (fun m e => if a < e ∧ e < m then e else m) b

/-- The scout stream has been formed up to tick `a`, which may be the end of a segment. -/
def State.closeScouts (s : State) (u a : Nat) : State :=
  match s.take.closing.find? (fun (e : Ended) => 8 * (e.last + 1) == a) with
  | none => s
  | some e => s.closeSegment (.scout u) e

/-- The recorders of a super form their records up to, but not including, tick `b`; each stretch between two gate or
window changes is formed under the state that holds in it. -/
def State.formScouts (s : State) (u b : Nat) : Nat → State
  | 0 => s
  | fuel + 1 =>
    let x := s.stream (.scout u)
    let a := x.formed
    if b ≤ a ∨ !x.present then s
    else
      let c := s.nextChange u a b
      let on := s.storing (.scout u) a
      let t := if on && x.chosenHole then s.startByChoice u a
        else if !on && !x.chosenHole && x.hole.isNone then s.stopByChoice u a else s
      let t := (t.activeScouts u).foldl (fun t k => t.formScout u k a c (2 * (t.scout u k).raw.length + 3)) t
      ((t.setStream (.scout u) { t.stream (.scout u) with formed := c }).closeScouts u c).formScouts u b fuel

/-- The tick before which recorders have formed their records by now: 32 beats behind (R281), and never past the slot at
which the intake of the super stopped. -/
def State.formBound (s : State) (u : Nat) : Nat :=
  let b := 32 * (beatOf s.hiveTime + 1 - 32)
  match s.stopped.find? (fun e => e.1 == u) with
  | none => b
  | some e => min b (8 * e.2)

/-- Recorders catch up to a tick. -/
def State.formTo (s : State) (u b : Nat) : State :=
  s.formScouts u b ((s.stream (.scout u)).gates.length + s.take.scoutPauses.length + s.take.closing.length + 2)

/-- A scout sample of a new level (R183): the transition's time is its tick plus the deskew. -/
def State.scoutTime (s : State) (u k tick : Nat) : Nat :=
  ((tick : Int) + signedOf 8 (s.getF (.scout u k) R.SCOUT_DESKEW_DESKEW)).toNat

/-- The edge kind chosen by SCOUT_TRIG.EDGE takes in a change to `level` (R186). -/
def edgeChosen (edge : Nat) (level : Bool) : Bool :=
  match edge with
  | 0 => false
  | 1 => level
  | 2 => !level
  | _ => true

end Sys2Proof.Machine
end

