-- ==== Sys2Proof/Machine/Clock.lean ====
section
/-!
DEFINITION. The PLLs (chapter 03): reference and output frequencies, commits of a PLL page, relocking, coasting, the
stop and resumption of intake, and the start of hive time.
-/
namespace Sys2Proof.Machine

/-! ### Frequencies, as exact fractions in Hz -/

/-- A frequency: numerator and denominator. -/
structure Freq where
  num : Nat
  den : Nat
deriving DecidableEq, Repr

def Freq.le (a b : Freq) : Bool := decide (a.num * b.den ≤ b.num * a.den)

/-- Dividers: P as it acts, M, N. -/
structure Div where
  p : Nat
  m : Nat
  n : Nat
deriving DecidableEq, Repr

/-- The output divider of a P field: 0 means 32 (PLL_DIV). -/
def outDiv (p : Nat) : Nat := if p = 0 then 32 else p

/-- Dividers in force, and in the shadow. -/
def State.activeDiv (s : State) (p : Page) : Div :=
  ⟨outDiv (s.getF p R.PLL_DIV_P), s.getF p R.PLL_DIV_M, s.getF p R.PLL_DIV_N⟩
def State.shadowDiv (s : State) (p : Page) : Div :=
  ⟨outDiv (s.getShadowF p R.PLL_DIV_P), s.getShadowF p R.PLL_DIV_M, s.getShadowF p R.PLL_DIV_N⟩

/-- fout = fref × N ÷ (M × P). -/
def outputOf (ref : Freq) (d : Div) : Freq := ⟨ref.num * d.n, ref.den * d.m * d.p⟩

/-- The MPLL's reference for a REF_SEL (R90). -/
def mpllRef (sel : Nat) : Freq := ⟨if sel = 0 then Config.refSysHz else Config.refMachHz, 1⟩

/-- The hive clock (R90). -/
def State.hiveClock (s : State) : Freq :=
  outputOf (mpllRef (s.getF (.pll 0) R.PLL_CTRL_REF_SEL)) (s.activeDiv (.pll 0))

/-- The reference of a PLL (R90). -/
def State.refOf (s : State) (p : Page) (sel : Nat) : Freq :=
  match p with
  | .pll 0 => mpllRef sel
  | .pll 2 => s.hiveClock
  | .spll _ _ => s.hiveClock
  | _ => ⟨Config.refSysHz, 1⟩

/-- The limits of R89. -/
def divAllowed (ref : Freq) (d : Div) : Bool :=
  decide (1 ≤ d.m) && decide (d.m ≤ 255) && decide (16 ≤ d.n) && decide (d.n ≤ 4095) && decide (1 ≤ d.p)
    && decide (d.p ≤ 32)
    && (Freq.le ⟨2000000, 1⟩ ⟨ref.num, ref.den * d.m⟩) && (Freq.le ⟨ref.num, ref.den * d.m⟩ ⟨100000000, 1⟩)
    && (Freq.le ⟨2000000000, 1⟩ ⟨ref.num * d.n, ref.den * d.m⟩)
    && (Freq.le ⟨ref.num * d.n, ref.den * d.m⟩ ⟨6400000000, 1⟩)

/-- Spread spectrum may be set on the HPLL, the FPLLs and the DPLLs alone (R102, R103). -/
def sscAllowed (p : Page) (mode depth : Nat) : Bool :=
  (match p with
    | .pll i => i == 1
    | .spll _ k => k == 1 || k == 2
    | _ => false) &&
  match mode with
  | 0 => true
  | 1 => decide (depth ≤ 10)
  | 2 => decide (depth ≤ 5)
  | _ => false

/-- The `j` of the bypass output of R96. -/
def bypassShift (ref old new : Freq) : Nat :=
  let low := if old.le new then old else new
  ((List.range 8).find? (fun j => Freq.le ⟨ref.num, ref.den * 2 ^ j⟩ low)).getD 7

/-! ### States -/

/-- PLL_STATUS.STATE. -/
def State.pllState (s : State) (p : Page) : Nat := s.getF p R.PLL_STATUS_STATE

def State.locked (s : State) (p : Page) : Bool := s.pllState p == 3

/-- STATE and LOCK together: LOCK is 1 in LOCKED alone. An SPLL that leaves LOCKED clears ALIGNED (R82). -/
def State.setPllState (s : State) (p : Page) (st : Nat) : State :=
  let t := (s.putF p R.PLL_STATUS_STATE st).putF p R.PLL_STATUS_LOCK (flag (st == 3))
  match p with
  | .spll _ 0 => if st = 3 then t else t.putF p R.PLL_TIME_STATUS_ALIGNED 0
  | _ => t

/-- SEARCH, LOCKING or BYPASS: a relock or first lock is in progress. -/
def State.relocking (s : State) (p : Page) : Bool :=
  s.pllState p == 1 || s.pllState p == 2 || s.pllState p == 4

/-- Length of the coast that began at `coastAt`, in µs (COAST_TIME). -/
def State.coastLength (s : State) (p : Page) : Nat := min ((s.hiveTime - (s.pll p).coastAt) / ticksPerUs) 0xFFFFF

/-- The coast is over: COAST_TIME keeps its length. -/
def State.endCoast (s : State) (p : Page) : State := s.putF p R.PLL_STATUS_COAST_TIME (s.coastLength p)

/-- A relock through bypass (R96): a new band search, or BYPASS while the reference is absent (R658). A coast that was
under way has ended. -/
def State.startRelock (s : State) (p : Page) (j : Nat) : State :=
  let s := if s.pllState p = 5 then s.endCoast p else s
  let t := (s.setPllState p (if s.isSet p R.PLL_STATUS_REF_PRESENT then 1 else 4)).bump p R.PLL_COUNTS_RELOCKS 1
  t.setPll p { t.pll p with bypassExp := j, searched := true, relock := true }

/-- The PLLs that follow the hive clock: GPLL and every SPLL, FPLL and DPLL present (R99). -/
def State.clockedPlls (s : State) : List Page :=
  .pll 2 :: s.supers.flatMap (fun u => [.spll u 0, .spll u 1, .spll u 2])

/-- Every PLL of the part. -/
def State.allPlls (s : State) : List Page :=
  ((List.range 4).map Page.pll).filter (pagePresent s.fuse.part)
    ++ s.supers.flatMap (fun u => [.spll u 0, .spll u 1, .spll u 2])

/-! ### Commits of a PLL page (R94 to R98, R101 to R104) -/

/-- COMMIT clears. -/
def State.clearCommit (s : State) (p : Page) : State :=
  (((s.putF p R.COMMIT_COMMIT 0).putF p R.SHADOW_STATUS_COMMIT_WAIT 0).putF p R.SHADOW_STATUS_HELD 0).settleDirty p

/-- One step of N that is followed without losing lock (R95). -/
def followed (old new : Div) : Bool :=
  old.p == new.p && old.m == new.m && decide (64 ≤ old.n) && decide (64 ≤ new.n)
    && (new.n == old.n + 1 || old.n == new.n + 1)

/-- The shadow of a PLL page is applied (R94, R95, R96, R98, R103, R104). -/
def State.applyPll (s : State) (p : Page) : State :=
  let sel := s.getShadowF p R.PLL_CTRL_REF_SEL
  let old := s.activeDiv p
  let new := s.shadowDiv p
  if !divAllowed (s.refOf p sel) new then (s.putF p R.PLL_FLAGS_DIV_REFUSED 1).clearCommit p
  else
    let mode := s.getShadowF p R.PLL_SSC_MODE
    let depth := s.getShadowF p R.PLL_SSC_DEPTH
    let newSsc := mode != s.getF p R.PLL_SSC_MODE || depth != s.getF p R.PLL_SSC_DEPTH
    let refused := newSsc && !sscAllowed p mode depth
    let newRef := sel != s.getF p R.PLL_CTRL_REF_SEL
    let j := bypassShift (s.refOf p sel) (outputOf (s.refOf p (s.getF p R.PLL_CTRL_REF_SEL)) old)
      (outputOf (s.refOf p sel) new)
    let t := s.copyToActive (fun q o => if o = 0x108 ∧ refused then 0 else shadowMask q o) p
    let t := if refused then t.putF p R.PLL_FLAGS_SSC_REFUSED 1 else t
    let t := if newSsc && !refused then t.setPll p { t.pll p with sscWaits := true } else t
    let t := t.countApply p
    if newRef || (old != new && !followed old new) || (followed old new && newSsc && !refused) then
      (t.startRelock p j).settleDirty p
    else if t.locked p then t.clearCommit p
    else t.settleDirty p

/-- A commit of this PLL page is held for a take (R101): the HPLL and the VPLL apply during one. -/
def heldByTake : Page → Bool
  | .pll i => i == 0 || i == 2
  | .spll _ _ => true
  | _ => false

/-- A channel of super `u` is in a gathering step (R395, R398). -/
def State.gathering (s : State) (u k : Nat) : Bool :=
  let p := Page.dram u k
  (s.getF p R.DRAM_TRAIN_STATUS_STATE == 2 && decide (3 ≤ s.getF p R.DRAM_TRAIN_STATUS_STEP)
    && decide (s.getF p R.DRAM_TRAIN_STATUS_STEP ≤ 7)) || s.isSet p R.DRAM_TRAIN_STATUS_PERIODIC

/-- A change of this PLL would change the clock of a channel that is in a gathering step (R400). -/
def State.gatherHold (s : State) : Page → Bool
  | .pll 0 => s.supers.any (fun u => s.gathering u 0 || s.gathering u 1)
  | .spll u 2 => s.gathering u 0 || s.gathering u 1
  | _ => false

/-- A COMMIT written to a PLL page: held during a take (R101), waiting while a relock is in progress (R98) or a training
measures (R400), or applied at once (DEDUCED, log entry 41; DEDUCED, log entry 42). -/
def State.commitPll (s : State) (p : Page) : State :=
  let t := s.putF p R.COMMIT_COMMIT 1
  if s.inTake && heldByTake p then
    (t.putF p R.SHADOW_STATUS_HELD 1).putF p R.SHADOW_STATUS_COMMIT_WAIT 1
  else if s.gatherHold p || (s.relocking p && (s.pll p).relock) then t.putF p R.SHADOW_STATUS_COMMIT_WAIT 1
  else t.applyPll p

/-- At STOPPED the held commits are applied, each page's as one (R101). -/
def State.applyHeldPlls (s : State) : State :=
  s.allPlls.foldl (fun t p =>
    if t.isSet p R.SHADOW_STATUS_HELD && t.isSet p R.COMMIT_COMMIT then
      (t.putF p R.SHADOW_STATUS_HELD 0).putF p R.SHADOW_STATUS_COMMIT_WAIT 0 |>.applyPll p
    else t) s

/-! ### Intake (R109, R111, R658) -/

/-- The frame and scout streams of a super. -/
def sampleStreams (u : Nat) : List StreamId := (List.range 8).map (StreamId.frame u) ++ [.scout u]

/-- Intake of a super stops: the first slot not taken in is the next one to begin. Frames and scouts run on up to it;
every stream's hole begins there. -/
def State.stopIntake (s : State) (u : Nat) : State :=
  if s.taking && !(s.stopped.any (fun e => e.1 == u)) then
    let n := ceilDiv s.hiveTime 8
    let t := (s.catchUpAll u).formTo u (s.formBound u)
    { t with stopped := t.stopped ++ [(u, n)] }
  else s

/-- A slot that some lane feeding the frame has not delivered is taken all the same: its missing cells are ABSENT, and
those of lanes that feed are counted late (R170). -/
def State.lateCells (s : State) (u f n : Nat) : Nat :=
  let p := s.pod u f
  let shifts := s.deskews u f
  popCount 32 (ofBits ((List.range 32).filter (fun c =>
    bitOf (s.getF (.frame u f) R.FRAME_CELL_EN_EN) c && !bitOf (s.frame u f).heldAbsent c &&
      match cellLane (s.linkVersion u f) c with
      | none => false
      | some (l, _) =>
        (p.lane l).feeds && !(l == .b && s.isSet (.pod u f) R.POD_LINK_CTRL_LANE_B_OFF)
          && ((p.lane l).placedAt (deskewOf shifts c) n).isNone)))

/-- The frame takes its next slot whatever has been delivered (R170). -/
def State.forceSlot (s : State) (u f : Nat) : State :=
  let n := (s.frame u f).next
  let late := s.lateCells u f n
  let t := if late = 0 then s else
    (s.bump (.frame u f) R.FRAME_CELL_LATE_COUNT late).raise (.frame u f) 4
  t.frameSlot u f

/-- The frame takes every slot below `bound`; `fuel` bounds their number. -/
def State.fillTo (s : State) (u f bound : Nat) : Nat → State
  | 0 => s
  | fuel + 1 =>
    if (s.frame u f).next < bound ∧ s.enabled (.frame u f) then
      (if s.delivered u f (s.frame u f).next then s.frameSlot u f else s.forceSlot u f).fillTo u f bound fuel
    else s

/-- Frames of a super take every slot below `bound`. -/
def State.fillAll (s : State) (u bound : Nat) : State :=
  (List.range 8).foldl (fun t f => t.fillTo u f bound (bound - (t.frame u f).next)) s

/-- Intake of a super resumes at slot 0 of the beat at `t` (R111): frames and scouts go on from there, and each stream's
hole ends. -/
def State.resumeIntake (s : State) (u t : Nat) : State :=
  match s.stopped.find? (fun e => e.1 == u) with
  | none => s
  | some (_, n) =>
    let r := { s with stopped := s.stopped.filter (fun e => !(e.1 == u)) }
    let r := (r.fillAll u n).formTo u (8 * n)
    let r := (sampleStreams u).foldl (fun r i => r.holeBegin i (8 * n) false) r
    let r := (List.range 8).foldl (fun r f => r.setFrame u f { r.frame u f with next := t / 8 }) r
    let r := r.setStream (.scout u) { r.stream (.scout u) with formed := t }
    let r := r.setSeq u { r.seq u with next := max (r.seq u).next (t / 8) }
    (sampleStreams u).foldl (fun r i => r.holeEnd i t) r

/-- Supers whose samples a PLL clocks: all for the MPLL, its own for an SPLL (R108). -/
def State.clockedSupers (s : State) : Page → List Nat
  | .pll 0 => s.supers
  | .spll u 0 => [u]
  | _ => []

/-! ### Losing lock or reference (R105, R658) -/

/-- The source that reports a PLL's loss (R115, R116): the SPLL page's source 0 for the PLLs of a super, else LOCK_LOST or
REF_LOST of its own page. -/
def State.raisePll (s : State) (p : Page) (reference : Bool) : State :=
  match p with
  | .spll u _ => s.raise (.spll u 0) 0
  | _ => s.raise p (flag reference)

/-- A locked PLL, or one in PULL_IN, coasts (R105). -/
def State.coast (s : State) (p : Page) (c : CoastCause) : State :=
  let again := s.pllState p == 6
  let t := ((s.setPllState p 5).bump p R.PLL_COUNTS_COASTS 1).putF p R.PLL_FLAGS_LOCK_LOST 1
  let from' := if again then (s.pll p).coastFrom else s.hiveTime
  let t := t.setPll p { t.pll p with cause := c, coastAt := s.hiveTime, coastFrom := from' }
  t.raisePll p (c == .reference)

/-- A coast of the MPLL or an SPLL has ended at lock: its COAST record (R297). -/
def State.coastRecord (s : State) (p : Page) : State :=
  match p with
  | .pll 0 => s.systemMark (sysRec 0x08 0xF (s.pll p).coastFrom 0 0 s.hiveTime 0)
  | .spll u 0 => s.systemMark (sysRec 0x08 u (s.pll p).coastFrom 1 0 s.hiveTime 0)
  | _ => s

/-- Hive time starts at 0 once the MPLL and every present SPLL report lock (R79). -/
def State.startTime (s : State) : State :=
  if !s.timeRuns && s.locked (.pll 0) && s.supers.all (fun u => s.locked (.spll u 0)) then
    { (s.loadTime 0) with timeRuns := true }
  else s

/-- The pulse density of LOCKMON in sixteenths (R113). -/
def State.lockmon (s : State) : Nat :=
  let v := s.getF (.pll 0) R.PLL_LOCKMON_SEL_SEL
  let p : Page := if v < 4 then .pll v else .spll ((v - 0x10) / 4) ((v - 0x10) % 4)
  if (v < 4 ∨ (0x10 ≤ v ∧ (v - 0x10) % 4 < 3)) ∧ pagePresent s.fuse.part p then
    match s.pllState p with
    | 3 => 15
    | 5 => 8
    | 2 => 4
    | 6 => 4
    | _ => 0
  else 0

end Sys2Proof.Machine
end

