-- ==== Sys2Proof/Machine/Takes.lean ====
section
/-!
DEFINITION. Takes and the store (chapter 08): stop causes and the last slot, triggers, windows, segments, the store ring
and the mark records that go with them.
-/
namespace Sys2Proof.Machine

/-! ### Settings of the take -/

def State.pre (s : State) : Nat := s.getPair .hive R.HIVE_TAKE_PRE_LO_PRE R.HIVE_TAKE_PRE_HI_PRE
def State.post (s : State) : Nat := s.getPair .hive R.HIVE_TAKE_POST_LO_POST R.HIVE_TAKE_POST_HI_POST
def State.segments (s : State) : Nat := s.getF .hive R.HIVE_TAKE_SEGS_SEGS_M1 + 1

/-- The beat under way at S0: `b` of R268. -/
def State.beatNow (s : State) : Nat := beatOf s.hiveTime

/-- The current segment is the take's last. -/
def State.lastSegment (s : State) : Bool := s.segment + 1 == s.segments

/-! ### Stop causes (R268, R269) -/

/-- A cause fixes a last slot: the earliest counts, and among equal ones the first in the order FAULT, POWER, FULL, HOST,
POST_DONE, which is that of falling codes (R269). -/
def State.setLast (s : State) (n reason : Nat) : State :=
  let better := match s.take.last with
    | none => true
    | some (m, r) => decide (n < m) || (n == m && decide (r < reason))
  if better then { s with take := { s.take with last := some (n, reason) } } else s

/-- Slot 3 of beat b + 16. -/
def State.stopSlot (s : State) : Nat := 4 * (s.beatNow + 16) + 3

/-! ### Triggers and windows (R271 to R275, R280) -/

/-- The end of a segment at a slot, for the take's last segment the take's last slot (R276). -/
def State.setSegLast (s : State) (n ending : Nat) : State :=
  let t := { s with take := { s.take with segLast := some (n, ending) } }
  if s.lastSegment then t.setLast n (if ending = 3 then 3 else 1) else t

/-- The hold-off H of R271. -/
def State.holdOff (s : State) : Nat := if s.isSet .hive R.HIVE_TAKE_CTRL_FULL_PRE then s.pre else 1600

/-- The store acts on a TRIGGER at instant `t` (R271). -/
def State.triggerActs (s : State) (t : Nat) : Bool :=
  s.takeState == 2 && decide (s.take.start + s.holdOff ≤ t / 8) && s.marksEntered s.segment

/-- The store acts on the trigger of sample beat `h` at instant `t` (R272, R273, R297). -/
def State.actOnTrigger (s : State) (h t : Nat) : State :=
  let n := t / 8
  let kept := max s.take.start (n - s.pre)
  let s := (s.setTakeState 3).bump .hive R.HIVE_TAKE_TRIGS_COUNT 1
  let s := { s with take := { s.take with kept := some kept } }
  let s := if s.post = max48 then s else s.setSegLast (max (n + s.post) (4 * (h + 18) + 3)) 1
  s.systemMark (sysRec 0x03 0xF t (s.getF .hive R.HIVE_TAKE_CTRL_FULL_PRE) s.segment (8 * kept) (n - kept))

/-- A TRIGGER action of sample beat `h` with instant `t` (R250): counted, latched and raised when it is the take's
first, and acted on by the store when R271 allows. -/
def State.trigger (s : State) (h t : Nat) : State :=
  let s := s.bump .hseq R.SEQ_TRIG_COUNT_COUNT 1
  let s := if s.take.firstTrigger.isNone then
      let r := s.putPair .hseq R.SEQ_TRIG_TIME_LO_TIME R.SEQ_TRIG_TIME_HI_TIME t
      { r with take := { r.take with firstTrigger := some t } }.raiseAt (sourceNumber .hseq 9) t false
    else s
  if s.triggerActs t then s.actOnTrigger h t else s

/-- END_POST of sample beat `h` with origin `o` (R275). -/
def State.endPost (s : State) (h o : Nat) : State :=
  let n := max (o / 8) (4 * (h + 18) + 3)
  let sooner := match s.take.segLast with
    | none => true
    | some e => decide (n < e.1)
  if s.takeState == 3 && sooner then s.setSegLast n 2 else s

/-- PAUSE or RESUME of sample beat `h` from the slot that holds the origin (R248, R280). It is in effect at the supers in beat
h + 27, when the scouts' recorders form beat h − 5: to the scout streams a control of an earlier origin applies from the
first tick of that beat (R281). -/
def State.setPaused (s : State) (h o : Nat) (paused : Bool) : State :=
  { s with take := { s.take with
    pauses := (8 * (o / 8), paused) :: s.take.pauses
    scoutPauses := (max (8 * (o / 8)) (32 * (h - 5)), paused) :: s.take.scoutPauses } }

/-- A store gate change of a stream, from the slot that holds the origin (R245, R280). -/
def State.setGate (s : State) (i : StreamId) (o : Nat) (on : Bool) : State :=
  let x := s.stream i
  s.setStream i { x with gates := (8 * (o / 8), on) :: x.gates }

/-! ### The store ring (R276 to R279) -/

/-- Slot `r` of a part holds data of a kept slot. -/
def keptSlot (kept : Option Nat) (r : RingSlot) : Bool :=
  match kept with
  | none => false
  | some k => decide (8 * k < r.stop)

/-- The part of a segment in a super's store. -/
def StoreSt.part (x : StoreSt) (k : Nat) : StorePart :=
  match x.parts.find? (fun p => p.segment == k) with
  | some p => p
  | none => ⟨k, k * x.partSize, []⟩

def StoreSt.setPart (x : StoreSt) (p : StorePart) : StoreSt :=
  { x with parts := x.parts.filter (fun q => !(q.segment == p.segment)) ++ [p] }

/-- Free block slots of the current part: those that the store may still overwrite (R279). -/
def State.freeSlots (s : State) (u : Nat) : Nat :=
  let x := s.store u
  x.partSize - ((x.part s.segment).written.filter (keptSlot s.take.kept)).length

/-- The oldest kept slot of a part: the oldest one written while nothing is protected. -/
def oldestKept (kept : Option Nat) (p : StorePart) : Nat :=
  match p.written.find? (fun r => kept.isNone || keptSlot kept r) with
  | some r => r.slot
  | none => p.next

/-- HIVE_STORE_OLDESTs and HIVE_STORE_NEXTs show the current part (R279). -/
def State.showStore (s : State) (u : Nat) : State :=
  let p := (s.store u).part s.segment
  (s.putF .hive (R.HIVE_STORE_OLDEST_SLOT u) (oldestKept s.take.kept p)).putF .hive (R.HIVE_STORE_NEXT_SLOT u) p.next

/-- A super's store is full while the segment is TRIGGERED: it ends the segment (R268, R276, R279). -/
def State.checkFull (s : State) (u : Nat) : State :=
  let n := s.stopSlot
  let sooner := match s.take.segLast with
    | none => true
    | some e => decide (n < e.1)
  if s.takeState == 3 && decide (s.freeSlots u ≤ 320) && sooner then s.setSegLast n 3 else s

/-- A block takes the next slot of its segment's part, over the oldest one when the part has wrapped (R278). Answers
the slot. -/
def State.takeSlot (s : State) (u segment first stop : Nat) : Nat × State :=
  let x := s.store u
  let p := x.part segment
  let base := segment * x.partSize
  let next := if p.next + 1 < base + x.partSize then p.next + 1 else base
  let q := { p with next := next, written := p.written.filter (fun r => !(r.slot == p.next)) ++ [⟨p.next, first, stop⟩] }
  (p.next, ((s.setStore u (x.setPart q)).showStore u).checkFull u)

/-! ### Segments and the end of a take -/

/-- A super whose intake has stopped before the end of a segment: its frames and scouts stand there, and every stream is
in a hole. -/
def State.standStill (s : State) (u m : Nat) : State :=
  let t := (s.fillAll u m).formTo u (8 * m)
  (sampleStreams u).foldl (fun t i => t.holeBegin i (8 * m) false) t

/-- A segment has ended: each frame and scout stream closes it, at once when its data up to the last slot has come, and
otherwise as that data comes. -/
def State.closeStreams (s : State) (e : Ended) : State :=
  let kept := s.take.closing.filter (fun c => s.allStreams.any (fun i =>
    (s.stream i).present && decide ((s.stream i).segment ≤ c.segment)))
  let s := { s with take := { s.take with closing := kept ++ [e] } }
  s.supers.foldl (fun t u =>
    let still := match t.stopped.find? (fun c => c.1 == u) with
      | none => none
      | some c => if c.2 ≤ e.last then some c.2 else none
    let t := match still with
      | none => t
      | some m => t.standStill u m
    let t := (List.range 8).foldl (fun t f =>
      if still.isSome || decide (e.last < (t.frame u f).next) || !t.enabled (.frame u f) then t.closeFrame u f e else t) t
    if still.isSome || decide (8 * (e.last + 1) ≤ (t.stream (.scout u)).formed) then t.closeSegment (.scout u) e else t) s

/-- The SEGMENT record of every super becomes due (R297). -/
def State.oweSegments (s : State) (n ending : Nat) : State :=
  s.supers.foldl (fun t u =>
    let x := t.store u
    t.setStore u { x with owed := x.owed ++ [⟨s.segment, 8 * (n + 1), ending, s.take.kept⟩] }) s

/-- The next segment begins in RUNNING at slot `n` + 1 (R276). -/
def State.nextSegment (s : State) (n : Nat) : State :=
  let t := (s.setTakeState 2).putF .hive R.HIVE_TAKE_STATE_SEGMENT (s.segment + 1)
  let t := { t with take := { t.take with start := n + 1, segLast := none, kept := none } }
  t.supers.foldl (fun t u => t.showStore u) t

/-- Blocks of a segment of a super that have not reached DRAM: still open, cut, waiting or queued. -/
def State.pendingBlocks (s : State) (u segment : Nat) : Bool :=
  let x := s.store u
  (sampleStreams u).any (fun i => (s.stream i).present && decide ((s.stream i).segment ≤ segment))
    || x.cut.any (fun b => b.segment == segment) || x.out.any (fun b => b.segment == segment)
    || x.queued.any (fun b => b.segment == segment)

/-- The mark stream is closed once the take is over, no SEGMENT record is owed, and every mark has entered it. -/
def State.closeMarks (s : State) : State :=
  let x := s.stream .mark
  if x.present && s.takeState == 4 && s.take.system.isEmpty && s.take.waiting.isEmpty
      && (List.range 9).all (fun u => (s.seq u).marks.isEmpty && !(s.seq u).running)
      && s.supers.all (fun u => (s.store u).owed.isEmpty) then
    let stop := match s.take.last with | none => s.hiveTime | some e => 8 * (e.1 + 1)
    let t := s.cutMark (max stop x.first) true
    t.setStream .mark { t.stream .mark with present := false }
  else s

/-- A super's store becomes impossible to write from tick `t` on, for a cause of R295, or can be written again. -/
def State.beginStoreLoss (s : State) (u t cause : Nat) : State :=
  let x := s.store u
  if x.lossFrom.isSome then s
  else s.setStore u { x with lossFrom := some (t, cause), cut := [], out := [], pushed := 0, queued := [], popped := 0, popBad := [] }

/-- The interval ends at tick `t`: S0 writes its STORE_LOSS record (R295). -/
def State.endStoreLoss (s : State) (u t : Nat) : State :=
  let x := s.store u
  match x.lossFrom with
  | none => s
  | some (a, c) =>
    (s.setStore u { x with lossFrom := none }).systemMark (sysRec 0x0B u a c 0 t 0)

end Sys2Proof.Machine
end

