-- ==== Sys2Proof/Machine/Sequencers.lean ====
section
/-!
DEFINITION. The super sequencers, the hive sequencer and the waggle network (chapter 07): term values and their
origins, exits, and what an exit issues. A sequencer goes on of its own accord through slots, or sample beats, in which
no exit is taken, and waits at the first one in which an exit is: taking it is the step SUPER_EXIT or HIVE_EXIT.
-/
namespace Sys2Proof.Machine

/-! ### Terms -/

/-- A term's value, with the origin that counts when it is 1 (R237). -/
structure Term where
  value : Bool
  origin : Nat
deriving DecidableEq, Repr

def Term.zero : Term := ⟨false, 0⟩

/-- The level of a TRIG_IN ball at a tick. -/
def State.pinLevel (s : State) (n t : Nat) : Bool :=
  match s.trigIn.find? (fun e => e.pin == n && decide (e.tick ≤ t)) with
  | none => false
  | some e => e.level

/-- The first qualifying TRIG_IN edge in a stretch of `len` ticks (R252). -/
def State.pinEdge (s : State) (n a len : Nat) (rise fall : Bool) : Option Nat :=
  (s.trigIn.reverse.find? (fun e =>
    e.pin == n && decide (a ≤ e.tick) && decide (e.tick < a + len) && (if e.level then rise else fall))).map (·.tick)

/-- The term of TRIG_INn over the slot or beat of `len` ticks from `a` (R252). -/
def State.pinTerm (s : State) (n a len : Nat) : Term :=
  let edge := fun (rise fall : Bool) =>
    match s.pinEdge n a len rise fall with
    | none => Term.zero
    | some t => ⟨true, t⟩
  match s.getF .hseq (R.SEQ_TIN_KIND n) with
  | 1 => ⟨s.pinLevel n a, a⟩
  | 2 => ⟨!s.pinLevel n a, a⟩
  | 3 => edge true false
  | 4 => edge false true
  | 5 => edge true true
  | _ => .zero

/-- The flags that a frame gives for slot `n`: 0 while it is disabled (R213). -/
def State.flagsAt (s : State) (u f n : Nat) : Nat :=
  if s.enabled (.frame u f) then
    match (s.frame u f).flags.find? (fun e => e.1 == n) with
    | none => 0
    | some e => e.2
  else 0

/-- The inbound flags presented to super `u` with sample beat `b`: 0 when the beat was lost, or the super's WAGGLE page is
disabled (R234, R243, R244) (DEDUCED, log entry 63). -/
def State.inbound (s : State) (u b : Nat) : Nat :=
  if s.enabled (.waggle u) && !((sget (fun _ => SideSt.reset) s.sides u).lostIn.contains b) then
    match (s.seq 8).sent.find? (fun e => e.beat == b) with
    | none => 0
    | some e => e.value
  else 0

/-- The term that a selector names, for slot `n` of super `u` (R229, R233, R237). -/
def State.superTerm (s : State) (u n sel : Nat) : Term :=
  let a := 8 * n
  if sel < 0x80 then ⟨bitOf (s.flagsAt u (sel / 16) n) (sel % 16), a⟩
  else if sel < 0x88 then
    let k := sel - 0x80
    let b := n / 4
    match (s.scout u k).edges.find? (fun t => beatOf t == b) with
    | none => .zero
    | some t => if t / 8 = n ∧ s.enabled (.scout u k) then ⟨true, t⟩ else .zero
  else if sel < 0x90 then ⟨bitOf (s.inbound u (n / 4)) (sel - 0x88), a⟩
  else if sel < 0x94 then if u = 0 then s.pinTerm (sel - 0x90) a 8 else .zero
  else if sel = 0x94 then ⟨(s.seq u).entered, a⟩
  else if sel = 0x95 then ⟨(s.seq u).first, a⟩
  else .zero

/-- The flags that super `u` sent for sample beat `b`, as S0 takes them: 0 when the beat was lost (R241, R243). -/
def State.sentBy (s : State) (u b : Nat) : FlagBeat :=
  if (sget (fun _ => SideSt.reset) s.sides u).lostOut.contains b then ⟨b, 0, []⟩
  else match (s.seq u).sent.find? (fun e => e.beat == b) with
  | none => ⟨b, 0, []⟩
  | some e => e

/-- The contribution of a hive of the apiary to AFn in sample beat `h` (R538): its latest SET or CLEAR, and a PULSE in its
own beat only (DEDUCED, log entry 59). -/
def contribution (af member h : Nat) : List AfAct → Option Nat
  | [] => none
  | x :: xs =>
    if x.af = af ∧ x.member = member ∧ x.beat ≤ h then
      if x.op = 2 then some x.origin
      else if x.op = 3 then none
      else if x.op = 1 ∧ x.beat = h then some x.origin
      else contribution af member h xs
    else contribution af member h xs

/-- The origins of the contributions that are 1. -/
def State.afOrigins (s : State) (af h : Nat) : List Nat :=
  (List.range 32).filterMap (fun m => contribution af m h s.afLog)

/-- The ring carries flags: STATE is UP or WRAPPED (R542). -/
def State.ringUp (s : State) : Bool :=
  s.getF .ring R.RING_STATUS_STATE == 4 || s.getF .ring R.RING_STATUS_STATE == 5

/-- The apiary flag term (R236, R237, R540): in the beat in which it becomes 1, its origin is the earliest among the
contributions that made it 1. -/
def State.afTerm (s : State) (af h : Nat) : Term :=
  if s.ringUp then
    match s.afOrigins af h with
    | [] => .zero
    | o :: os =>
      if (s.afOrigins af (h - 1)).isEmpty then ⟨true, os.foldl min o⟩ else ⟨true, 32 * h⟩
  else .zero

/-- The term that a selector names, for sample beat `h` at the hive sequencer (R230, R236, R237). -/
def State.hiveTerm (s : State) (h sel : Nat) : Term :=
  let a := 32 * h
  if sel < 0x40 then
    let u := sel / 8
    let k := sel % 8
    if u < s.fuse.part.supers then
      let now := s.sentBy u h
      if bitOf now.value k then
        if bitOf (s.sentBy u (h - 1)).value k then ⟨true, a⟩
        else
          match now.tags.find? (fun t => t.1 == k) with
          | none => ⟨true, a⟩
          | some t => ⟨true, a + t.2⟩
      else .zero
    else .zero
  else if sel < 0x50 then s.afTerm (sel - 0x40) h
  else if sel < 0x54 then s.pinTerm (sel - 0x50) a 32
  else if sel < 0x58 then ⟨((s.seq 8).timers.getD (sel - 0x54) ⟨0, false, false⟩).flagged, a⟩
  else if sel = 0x58 then ⟨(s.seq 8).entered, a⟩
  else if sel = 0x59 then ⟨(s.seq 8).first, a⟩
  else .zero

/-! ### Exits -/

/-- The truth-table index of four term values (R228). -/
def ttIndex (ts : List Term) : Nat :=
  flag (ts.getD 0 .zero).value + 2 * flag (ts.getD 1 .zero).value + 4 * flag (ts.getD 2 .zero).value
    + 8 * flag (ts.getD 3 .zero).value

/-- Term `k` is used: two entries of TT whose indices differ in its bit alone differ (R238). -/
def termUsed (tt k : Nat) : Bool := (List.range 16).any (fun i => bitOf tt i != bitOf tt (i ^^^ 2 ^ k))

/-- The origin of an exit taken in the slot or beat that begins at `a` (R238). -/
def exitOrigin (tt a : Nat) (ts : List Term) : Nat :=
  let used := ((List.range 4).filter (fun k => termUsed tt k && (ts.getD k .zero).value)).map
    (fun k => (ts.getD k .zero).origin)
  match used with
  | [] => a
  | o :: os => os.foldl max o

/-- The lowest-numbered exit of the level that is enabled and true, with its origin (R231, R260). -/
def firstExit (s : State) (p : Page) (level a : Nat) (term : Nat → Term) : Option (Nat × Nat) :=
  (List.range 4).findSome? (fun e =>
    let x := 4 * level + e
    if s.isSet p (R.SEQ_COND_EN x) then
      let ts := [term (s.getF p (R.SEQ_TERMS_T0 x)), term (s.getF p (R.SEQ_TERMS_T1 x)),
        term (s.getF p (R.SEQ_TERMS_T2 x)), term (s.getF p (R.SEQ_TERMS_T3 x))]
      let tt := s.getF p (R.SEQ_COND_TT x)
      if bitOf tt (ttIndex ts) then some (e, exitOrigin tt a ts) else none
    else none)

/-- The exit that super `u` takes in slot `n`; none while its SEQ page is disabled (R259). -/
def State.superExitAt (s : State) (u n : Nat) : Option (Nat × Nat) :=
  if s.enabled (.sseq u) then firstExit s (.sseq u) (s.seq u).level (8 * n) (s.superTerm u n) else none

/-- The exit that the hive sequencer takes for sample beat `h`. -/
def State.hiveExitAt (s : State) (h : Nat) : Option (Nat × Nat) :=
  if s.enabled .hseq then firstExit s .hseq (s.seq 8).level (32 * h) (s.hiveTerm h) else none

/-! ### Marks (R249) -/

/-- SEQ_MARKS.DEPTH follows the queue. -/
def State.setMarks (s : State) (u : Nat) (l : List MarkRec) : State :=
  (s.setSeq u { s.seq u with marks := l }).putF (seqPage u) R.SEQ_MARKS_DEPTH l.length

/-- The page source for marks lost: 8 on both kinds of SEQ page (R261, R262). -/
def marksLostSource : Nat := 8

/-- An exit queues a mark, or drops it when the queue of 64 is full. -/
def State.queueMark (s : State) (u origin level exit code : Nat) : State :=
  let x := s.seq u
  let r : MarkRec := ⟨origin, 0x05, if u = 8 then 0xF else u, level <<< 12 ||| exit <<< 10 ||| code, 0, 0, 0, s.segment⟩
  if x.marks.length < 64 then s.setMarks u (x.marks ++ [r])
  else
    let d := match x.dropped with
      | none => (1, origin, origin)
      | some (n, a, _) => (n + 1, a, origin)
    ((s.setSeq u { x with dropped := some d }).bump (seqPage u) R.SEQ_MARKS_LOST 1).raise (seqPage u) marksLostSource

/-- The record of dropped marks is queued once there is space. -/
def State.queueLoss (s : State) (u : Nat) : State :=
  let x := s.seq u
  match x.dropped with
  | none => s
  | some (n, a, b) =>
    if x.marks.length < 64 then
      (s.setSeq u { x with dropped := none }).setMarks u
        (x.marks ++ [⟨a, 0x06, if u = 8 then 0xF else u, 0, n, b, 0, s.segment⟩])
    else s

/-! ### Super exits (R240, R241, R245) -/

/-- The flag `k` was made 1 in slot `n` by an exit with the given origin: the beat's first such slot gives the tag. -/
def FlagBeat.raise (x : FlagBeat) (k origin : Nat) : FlagBeat :=
  if bitOf x.value k then x
  else { x with value := x.value ||| 2 ^ k, tags := x.tags ++ [(k, origin % 32)] }

/-- The beat under way before slot 0 of beat `b`: flags whose state is 1 are 1 with tag 0. -/
def openBeat (b state : Nat) : FlagBeat := ⟨b, state, []⟩

/-- SET, CLEAR or PULSE of waggle flag `k` (R240). -/
def State.waggleAct (s : State) (u op k origin : Nat) : State :=
  let x := s.seq u
  match op with
  | 1 => s.setSeq u { x with beat := x.beat.raise k origin }
  | 2 => s.setSeq u { x with beat := x.beat.raise k origin, flagState := withBit x.flagState k true }
  | 3 => s.setSeq u { x with flagState := withBit x.flagState k false }
  | _ => s

/-- The operation set issued on slot `n` goes to every frame, for slot n + 24 (R220, R245). -/
def State.issueOps (s : State) (u k n : Nat) : State :=
  (List.range 8).foldl (fun t f =>
    let w := bitsOf (t.word (pageBase (.sseq u) + 0x200 + 0x20 * k + 4 * f)).toNat 23 0
    if w = 0 ∨ !t.enabled (.frame u f) then t
    else
      let x := t.frame u f
      t.setFrame u f { x with ops := x.ops.filter (fun o => !(o.slot == n + 24)) ++ [⟨n + 24, w⟩] }) s

/-- The store gate of an exit, for the streams that GATE selects (R245, R280). -/
def State.gateAct (s : State) (u x op origin : Nat) : State :=
  if op = 1 ∨ op = 2 then
    let on := op == 2
    let frames := s.getF (.sseq u) (R.SEQ_GATE_FRAMES x)
    let t := (bitsSet 8 frames).foldl (fun t f => t.setGate (.frame u f) origin on) s
    if s.isSet (.sseq u) (R.SEQ_GATE_SCOUT x) then t.setGate (.scout u) origin on else t
  else s

/-- SEQ_STATUS.LEVEL, SEQ_LAST, SEQ_LAST_ORIGIN and SEQ_EXIT_COUNT record an exit taken. -/
def State.noteExit (s : State) (u from' e to' origin : Nat) : State :=
  let p := seqPage u
  let t := (((s.putF p R.SEQ_STATUS_LEVEL to').putF p R.SEQ_LAST_FROM from').putF p R.SEQ_LAST_EXIT e).putF p
    R.SEQ_LAST_TO to'
  (t.putPair p R.SEQ_LAST_ORIGIN_LO_ORIGIN R.SEQ_LAST_ORIGIN_HI_ORIGIN origin).bump p R.SEQ_EXIT_COUNT_COUNT 1

/-- Exit `e` of super `u` is taken on slot `n` with its origin, and issues its actions (R245). -/
def State.takeSuperExit (s : State) (u n e origin : Nat) : State :=
  let p := Page.sseq u
  let level := (s.seq u).level
  let x := 4 * level + e
  let next := s.getF p (R.SEQ_COND_NEXT x)
  let t := s.noteExit u level e next origin
  let t := t.setSeq u { t.seq u with level := next }
  let t := if s.isSet p (R.SEQ_ACT_OPSET_EN x) then t.issueOps u (s.getF p (R.SEQ_ACT_OPSET x)) n else t
  let t := t.waggleAct u (s.getF p (R.SEQ_ACT_WF_OP x)) (s.getF p (R.SEQ_ACT_WF_SEL x)) origin
  let t := t.gateAct u x (s.getF p (R.SEQ_ACT_GATE_OP x)) origin
  let t := if s.isSet p (R.SEQ_ACT_MARK_EN x) then t.queueMark u origin level e (s.getF p (R.SEQ_ACT_MARK x)) else t
  if s.isSet p (R.SEQ_ACT_EVENT_EN x) then t.raiseAt (sourceNumber p (s.getF p (R.SEQ_ACT_EVENT x))) origin false else t

/-- The slot after: ENTRY follows the exit, and at the end of a beat the super sends the beat's flags (R231, R241). What
is past use is dropped. -/
def State.endSlot (s : State) (u n : Nat) (taken : Bool) : State :=
  let x := s.seq u
  let past := match s.take.last with | none => false | some e => decide (e.1 ≤ n)
  let y := { x with next := n + 1, entered := taken, first := false, running := !past }
  let y := if n % 4 = 3 then
      { y with
        sent := (if x.beat.value = 0 ∨ !s.enabled (.waggle u) then [] else [x.beat]) ++ y.sent.take 64
        beat := openBeat (n / 4 + 1) x.flagState }
    else y
  let t := s.setSeq u y
  let t := if n % 4 = 3 then
      let v := if s.enabled (.waggle u) then x.beat.value else 0
      (t.putF (.waggle u) R.WAGGLE_FLAGS_OUT v).putF (.waggle u) R.WAGGLE_FLAGS_IN (s.inbound u (n / 4))
    else t
  let t := t.putF (.sseq u) R.SEQ_STATUS_RUNNING (flag (!past && s.enabled (.sseq u)))
  let t := (List.range 8).foldl (fun t f =>
    let z := t.frame u f
    t.setFrame u f { z with flags := z.flags.filter (fun e => decide (n < e.1)) }) t
  (List.range 8).foldl (fun t k =>
    let z := t.scout u k
    t.setScout u k { z with edges := z.edges.filter (fun e => decide (n / 4 ≤ beatOf e)) }) t

/-- Slot `n` is ready for super `u`: its beat is 9 or more before the present one, every enabled frame has given its
flags, and the hive sequencer has decided the inbound flags of the beat (R45, R232). -/
def State.superReady (s : State) (u n : Nat) : Bool :=
  (s.seq u).running && decide (n / 4 + 9 ≤ s.beatNow) && !s.intakeStopped u n
    && (!(s.seq 8).running || decide (n / 4 < (s.seq 8).next + 20))
    && (List.range 8).all (fun f =>
      !s.enabled (.frame u f) || (s.frame u f).flags.any (fun e => e.1 == n)
        || (decide (n < (s.frame u f).next) && (s.frame u f).eval.all (fun e => decide (n < e.n))))

/-- A super sequencer goes on through slots without an exit; `fuel` bounds their number. -/
def State.superQuiet (s : State) (u : Nat) : Nat → State
  | 0 => s
  | fuel + 1 =>
    let n := (s.seq u).next
    if s.superReady u n ∧ (s.superExitAt u n).isNone then (s.endSlot u n false).superQuiet u fuel else s

/-! ### Hive exits (R235, R246) -/

/-- Hive timers for the next sample beat (R251). -/
def State.hiveTimers (s : State) : List Timer :=
  let x := s.seq 8
  (List.range 4).map (fun n =>
    let c : TimerSet := ⟨0, 0, if s.isSet .hseq (R.SEQ_HT_CTRL_ONESHOT n) then 1 else 0, 0,
      s.isSet .hseq (R.SEQ_HT_CTRL_MODE n), s.getPair .hseq (R.SEQ_HT_LIM_LO_LIM n) (R.SEQ_HT_LIM_HI_LIM n)⟩
    timerUpdate c (bitsOf x.timerOps (3 * n + 2) (3 * n)) false false (x.timers.getD n ⟨0, false, false⟩))

/-- SEQ_HTn_VAL and SEQ_HTn_STATUS show the hive timers. -/
def State.showHiveTimers (s : State) : State :=
  (List.range 4).foldl (fun t n =>
    let m := (s.seq 8).timers.getD n ⟨0, false, false⟩
    (t.putPair .hseq (R.SEQ_HT_VAL_LO_VAL n) (R.SEQ_HT_VAL_HI_VAL n) m.value).putF .hseq (R.SEQ_HT_STATUS_RUNNING n)
      (flag m.running)) s

/-- Some hive timer's flag rises in the sample beat whose update comes next. -/
def State.hiveTimerRises (s : State) : Bool :=
  (List.range 4).any (fun n =>
    (s.hiveTimers.getD n ⟨0, false, false⟩).flagged && !((s.seq 8).timers.getD n ⟨0, false, false⟩).flagged)

/-- A TRIG_OUT output takes a level before INVERT at a tick. -/
def State.driveOut (s : State) (n tick : Nat) (level : Bool) (pulseEnd : Option Nat) : State :=
  let old := sget (fun _ => (false, none)) s.trigOut n
  let t := { s with trigOut := sput (fun _ => (false, none)) s.trigOut n (level, pulseEnd) }
  let t := t.putBitF .hseq R.SEQ_STATUS_TOUT n level
  if old.1 == level then t else t.emit (.trigOut n tick (Bool.xor level (s.isSet .hseq (R.SEQ_TOUT_INVERT n))))

/-- A pulse that ends before a tick ends. -/
def State.endPulse (s : State) (n tick : Nat) : State :=
  match (sget (fun _ => (false, none)) s.trigOut n).2 with
  | none => s
  | some e => if e < tick then s.driveOut n e false none else s

/-- A TRIG_OUT action of sample beat `h` (R253). A pulse whose end lies before the tick of the action ends first. -/
def State.trigOutAct (s : State) (op n h origin : Nat) : State :=
  let at' := max origin (32 * h) + 736
  let s := if op = 0 then s else s.endPulse n at'
  let w := s.getF .hseq (R.SEQ_TOUT_WIDTH n)
  match op with
  | 1 => s.driveOut n at' true (some (at' + 32 * (if w = 0 then 1 else w)))
  | 2 => s.driveOut n at' true none
  | 3 => s.driveOut n at' false none
  | _ => s

/-- SET, CLEAR or PULSE of inbound flag `k`, presented with sample beat h + 20 (R242, R246). -/
def State.inboundAct (s : State) (op k : Nat) : State :=
  let x := s.seq 8
  match op with
  | 1 => s.setSeq 8 { x with beat := x.beat.raise k 0 }
  | 2 => s.setSeq 8 { x with beat := x.beat.raise k 0, flagState := withBit x.flagState k true }
  | 3 => s.setSeq 8 { x with
      flagState := withBit x.flagState k false
      beat := { x.beat with value := withBit x.beat.value k false } }
  | _ => s

/-- An apiary flag action enters the launch queue in beat `b` (R537, R541, R542): delivery beat d, and the origin, or the
first tick of the launch beat for one more than 2^47 ticks old. A full queue drops the action, counted as a gap. -/
def State.queueFlag (s : State) (op af b origin : Nat) : State :=
  if op = 0 ∨ !s.ringUp then s
  else
    let a : AfAct := ⟨b + s.getF .ring R.RING_STATUS_AF_DELAY, af, s.getF .ring R.RING_STATUS_POSITION, op, origin⟩
    if 16 ≤ s.afQueue.length then (s.bump .ring R.RING_FLAG_COUNTS_GAP 1).raise .ring 8
    else { s with afQueue := s.afQueue ++ [a], ring := { s.ring with noted := s.ring.noted ++ [a] } }

/-- Exit `e` of the hive sequencer is taken for sample beat `h`, and issues its actions (R246). -/
def State.takeHiveExit (s : State) (h e origin : Nat) : State :=
  let p := Page.hseq
  let level := (s.seq 8).level
  let x := 4 * level + e
  let next := s.getF p (R.SEQ_COND_NEXT x)
  let t := s.noteExit 8 level e next origin
  let t := t.setSeq 8 { t.seq 8 with level := next, timerOps := bitsOf (s.word (pageBase p + 0x40C + 0x10 * x)).toNat 11 0 }
  let t := if s.isSet p (R.SEQ_HACT_TRIG x) then t.trigger h origin else t
  let t := match s.getF p (R.SEQ_HACT_WINDOW x) with
    | 1 => t.setPaused h origin true
    | 2 => t.setPaused h origin false
    | 3 => t.endPost h origin
    | _ => t
  let t := t.trigOutAct (s.getF p (R.SEQ_HACT_TO_OP x)) (s.getF p (R.SEQ_HACT_TO_SEL x)) h origin
  let t := t.queueFlag (s.getF p (R.SEQ_HACT_AF_OP x)) (s.getF p (R.SEQ_HACT_AF_SEL x)) (h + 23) origin
  let t := t.inboundAct (s.getF p (R.SEQ_HACT_WI_OP x)) (s.getF p (R.SEQ_HACT_WI_SEL x))
  let t := if s.isSet p (R.SEQ_HACT_MARK_EN x) then t.queueMark 8 origin level e (s.getF p (R.SEQ_HACT_MARK x)) else t
  if s.isSet p (R.SEQ_HACT_EVENT_EN x) then t.raiseAt (sourceNumber p (s.getF p (R.SEQ_HACT_EVENT x))) origin false else t

/-- A forced trigger that waits acts for sample beat `h` (R258): one trigger with an exit's own, and a mark with code
0xFF after the exit's mark. -/
def State.forcedTrigger (s : State) (h level : Nat) (exitTriggers : Bool) : State :=
  if s.take.forced then
    let t := { s with take := { s.take with forced := false } }
    let t := if exitTriggers then t else t.trigger h (32 * h)
    t.queueMark 8 (32 * h) level 0 0xFF
  else s

/-- The sample beat after: hive timers update with the operations just issued, the beat's inbound flags are sent, and
RING_AF_STATE.VALUE shows the apiary flags presented (R235, R242, R251). -/
def State.endBeat (s : State) (h : Nat) (taken : Bool) : State :=
  let x := s.seq 8
  let past := match s.take.last with | none => false | some e => decide (e.1 / 4 ≤ h)
  let b : FlagBeat := { x.beat with beat := h + 20 }
  let y := { x with
    next := h + 1, entered := taken, first := false, running := !past, timers := s.hiveTimers, timerOps := 0
    sent := (if b.value = 0 then [] else [b]) ++ x.sent.take 64, beat := openBeat (h + 21) x.flagState }
  let t := (s.setSeq 8 y).showHiveTimers
  let t := t.putF .ring R.RING_AF_STATE_VALUE
    (ofBits ((List.range 16).filter (fun n => (s.afTerm n h).value)))
  t.putF .hseq R.SEQ_STATUS_RUNNING (flag (!past && s.enabled .hseq))

/-- Sample beat `h` is ready for the hive sequencer: 19 beats old, with every super's flags for it, and no apiary flag
action still to be delivered for it (R45, R236, R538). -/
def State.hiveReady (s : State) (h : Nat) : Bool :=
  (s.seq 8).running && decide (h + 19 ≤ s.beatNow)
    && !s.ring.noted.any (fun a => decide (a.beat ≤ h))
    && s.supers.all (fun u => !(s.seq u).running || decide (4 * h + 3 < (s.seq u).next) || s.intakeStopped u (s.seq u).next)

/-- Something happens for sample beat `h` that is a step of its own: an exit is taken, a timer's flag rises, or a forced
trigger waits. -/
def State.hiveEvents (s : State) (h : Nat) : Bool := (s.hiveExitAt h).isSome || s.hiveTimerRises

/-- Sample beat `h` passes, with the exit that is taken for it, if any. -/
def State.hiveBeat (s : State) (h : Nat) : State :=
  let level := (s.seq 8).level
  match s.hiveExitAt h with
  | none => (s.forcedTrigger h level false).endBeat h false
  | some (e, o) =>
    let trig := s.isSet .hseq (R.SEQ_HACT_TRIG (4 * level + e))
    ((s.takeHiveExit h e o).forcedTrigger h level trig).endBeat h true

/-- The hive sequencer goes on through sample beats without an event; `fuel` bounds their number. -/
def State.hiveQuiet (s : State) : Nat → State
  | 0 => s
  | fuel + 1 =>
    let h := (s.seq 8).next
    if s.hiveReady h ∧ !s.hiveEvents h then (s.hiveBeat h).hiveQuiet fuel else s

/-! ### Going on -/

/-- Frames catch up, and every sequencer goes on to its next exit; `rounds` bounds the exchanges between supers and
hive. -/
def State.seqRounds (s : State) : Nat → State
  | 0 => s
  | rounds + 1 => ((s.supers.foldl (fun t u => t.superQuiet u 84) s).hiveQuiet 21).seqRounds rounds

/-- Every part of the trigger path catches up with hive time. -/
def State.settleSeqs (s : State) : State :=
  if (List.range 9).any (fun u => (s.seq u).running) then
    let t := s.supers.foldl (fun t u => t.catchUpAll u) s
    t.seqRounds ((t.beatNow - (t.seq 8).next) / 19 + 2)
  else s

/-- The sequencers at the take's first slot (R255, R256). -/
def State.startSeqs (s : State) (n : Nat) : State :=
  let start := fun (u : Nat) (t : State) =>
    let l := t.getF (seqPage u) R.SEQ_CTRL_START_LEVEL
    let k := if u = 8 then n / 4 else n
    let t := t.setSeq u { SeqSt.reset with
      level := l, running := true, next := k, entered := true, first := true
      beat := openBeat (if u = 8 then n / 4 + 20 else n / 4) 0 }
    ((t.putF (seqPage u) R.SEQ_STATUS_LEVEL l).putF (seqPage u) R.SEQ_STATUS_RUNNING
      (flag (t.enabled (seqPage u)))).putF (seqPage u) R.SEQ_MARKS_DEPTH 0
  let t := start 8 (s.supers.foldl (fun t u => start u t) s)
  let t := (List.range 4).foldl (fun t k => t.driveOut k (8 * n) false none) t
  t.showHiveTimers

end Sys2Proof.Machine
end

