-- ==== Sys2Proof/Machine/Queues.lean ====
section
/-!
DEFINITION. Queues and HOLD (chapter 10): pushes and pops, watermarks and their notices, the words of a queue in on-chip
memory, and what drives the HOLD outputs.
-/
namespace Sys2Proof.Machine

/-! ### Instances (R342) -/

def queueIx : QueueId → Nat
  | .super u i => 10 * u + i
  | .hive i => 80 + i

def queuePage : QueueId → Page
  | .super u i => .queue u i
  | .hive i => .hqueue i

def State.queue (s : State) (q : QueueId) : QueueSt := sget (fun _ => QueueSt.reset) s.queues (queueIx q)
def State.setQueue (s : State) (q : QueueId) (x : QueueSt) : State :=
  { s with queues := sput (fun _ => QueueSt.reset) s.queues (queueIx q) x }

/-- The queues of the part. -/
def State.allQueues (s : State) : List QueueId :=
  s.supers.flatMap (fun u => (List.range 10).map (QueueId.super u)) ++ [.hive 0, .hive 1]

/-- The queue exists on the part. -/
def State.hasQueue (s : State) (q : QueueId) : Bool := pagePresent s.fuse.part (queuePage q)

/-- Words of an entry, and usable depth in words. -/
def entryWords (q : QueueId) : Nat := (queueShape (queuePage q)).1
def usableWords (q : QueueId) : Nat := (queueShape (queuePage q)).2.1

/-- Entries of the memory that holds the queue: the nominal depth (R342). -/
def nominalEntries (q : QueueId) : Nat :=
  match q with
  | .super _ 0 => 16384
  | .super _ 1 => 8192
  | .super _ _ => 2048
  | .hive 0 => 8192
  | .hive _ => 2048

/-- Depth in words (R340) (DESIGN CHOICE, log entry 84). -/
def QueueSt.depth (x : QueueSt) : Nat := x.entries.foldl (fun n e => n + e.words.length) 0

/-- Whole packets waiting (R340). -/
def QueueSt.packets (x : QueueSt) : Nat := (x.entries.filter (·.last)).length

def State.queueDepth (s : State) (q : QueueId) : Nat := (s.queue q).depth

/-- Full, as reported to the producer (R344, R346). -/
def State.queueFull (s : State) (q : QueueId) : Bool :=
  decide (usableWords q < s.queueDepth q + entryWords q)

/-! ### Storage (R424, R425) -/

/-- The super whose memory holds the queue, and the window offset of word `w` of entry `e`. -/
def queueSuper : QueueId → Nat
  | .super u _ => u
  | .hive _ => 0

def queueWordAt (q : QueueId) (e w : Nat) : Nat :=
  match q with
  | .super _ 0 => 0x100000 + e % 4 * 0x40000 + e / 4 * 64 + 8 * w
  | .super _ 1 => 0x200000 + 8 * e
  | .super _ i => 0x400000 + (i - 2) * 0x40000 + 8 * e
  | .hive 0 => 0x2C0000 + e % 2 * 0x40000 + e / 2 * 64 + 8 * w
  | .hive _ => 0x340000 + 16 * e + 8 * w

/-- The master that pops the queue (R428). -/
def queueMaster : QueueId → Nat
  | .super _ 0 => 2
  | .super _ _ => 0
  | .hive _ => 3

/-! ### Watermarks (R349 to R354) and what the page shows -/

/-- The super queue's WM is forced: the super's store is disabled (R354). -/
def State.queueForced (s : State) (q : QueueId) : Bool :=
  match q with
  | .super u 0 => s.storeDisabled u
  | _ => false

/-- WM as R349, R353 and R354 give it on the present depth. -/
def State.wmNext (s : State) (q : QueueId) : Bool :=
  let p := queuePage q
  if !s.enabled p then false
  else if s.queueForced q then true
  else if s.getF p R.QUEUE_HWM_LEVEL ≤ s.queueDepth q then true
  else if s.queueDepth q ≤ s.getF p R.QUEUE_LWM_LEVEL then false
  else (s.queue q).wm

/-- The sources of a queue's up-crossing, down-crossing, full and poisoned word events (R360, R361). -/
def queueSource (q : QueueId) (n : Nat) : Option (Page × Nat) :=
  match q with
  | .super u 0 => some (.queue u 0, n)
  | .super _ 1 => none
  | .super u i => if n < 3 then some (.frame u (i - 2), n) else none
  | .hive i => if n < 3 then some (.hqueue i, n) else none

def State.raiseQueue (s : State) (q : QueueId) (n : Nat) : State :=
  match queueSource q n with
  | none => s
  | some e => s.raise e.1 e.2

/-- QUEUE_DEPTH, QUEUE_PACKETS and BLOCK_STATUS show the queue. -/
def State.showQueue (s : State) (q : QueueId) : State :=
  let p := queuePage q
  let x := s.queue q
  let t := (s.putF p R.QUEUE_DEPTH_WM (flag x.wm)).putF p R.QUEUE_DEPTH_FULL (flag (s.queueFull q))
  let t := (t.putF p R.QUEUE_DEPTH_EMPTY (flag (x.depth == 0))).putF p R.QUEUE_DEPTH_FORCED (flag (s.queueForced q))
  let t := (t.putF p R.QUEUE_DEPTH_DEPTH x.depth).putF p R.QUEUE_PACKETS_COUNT x.packets
  t.putF p (blockBit 16) (flag x.wm)

/-- WM is evaluated; a change is noticed, counted and raised while the page is enabled (R350, R352, R353). -/
def State.settleWm (s : State) (q : QueueId) : State :=
  let p := queuePage q
  let old := (s.queue q).wm
  let new := s.wmNext q
  let t := (s.setQueue q { s.queue q with wm := new }).showQueue q
  if old == new || !s.enabled p then t
  else if new then ((t.putF p R.QUEUE_NOTICE_UP 1).bump p R.QUEUE_CROSS_UP_COUNT 1).raiseQueue q 0
  else ((t.putF p R.QUEUE_NOTICE_DOWN 1).bump p R.QUEUE_CROSS_DOWN_COUNT 1).raiseQueue q 1

/-- QUEUE_PEAK follows the depth. -/
def State.settlePeak (s : State) (q : QueueId) : State :=
  let p := queuePage q
  if s.getF p R.QUEUE_PEAK_COUNT < s.queueDepth q then s.putF p R.QUEUE_PEAK_COUNT (s.queueDepth q) else s

/-- QUEUE_HWM and QUEUE_LWM of the shadow make a pair that R351 applies. -/
def State.wmPairGood (s : State) (q : QueueId) : Bool :=
  let h := s.getShadowF (queuePage q) R.QUEUE_HWM_LEVEL
  let l := s.getShadowF (queuePage q) R.QUEUE_LWM_LEVEL
  decide (1 ≤ h) && decide (h ≤ usableWords q) && decide (l < h)

/-! ### HOLD (R355 to R358) -/

/-- Bits of the HOLDs that a queue calls for. -/
def State.holdOf (s : State) (q : QueueId) : Nat :=
  if (s.queue q).wm && s.enabled (queuePage q) then s.getF (queuePage q) R.QUEUE_HOLD_MAP_MAP else 0

/-- HOLD bits as S0 takes them: those of every queue, and every bit of a super whose beat is lost (R357). -/
def State.queueHolds (s : State) : Nat :=
  (s.allQueues.foldl (fun m q => m ||| s.holdOf q) 0)
    ||| (if s.supers.any (fun u => (sget (fun _ => SideSt.reset) s.sides u).holdLost) then 0xFF else 0)

/-- The HOLDs that the hive drives low (R355), none before the clerk has booted (R358). -/
def State.holdDrive (s : State) : Nat :=
  if s.isSet .hive R.HIVE_READY_BOOTED then
    s.queueHolds ||| s.getF .hive R.HIVE_HOLD_CTRL_FORCE
      ||| (if s.inTake then 0 else s.getF .hive R.HIVE_HOLD_CTRL_IDLE)
  else 0

/-- The counter of assertions of HOLD `h`. -/
def holdCount (h : Nat) : Fld := if h % 2 = 0 then R.HIVE_HOLD_CNT_LO (h / 2) else R.HIVE_HOLD_CNT_HI (h / 2)

/-- The HOLD outputs follow R355, and each new assertion is counted. -/
def State.settleHolds (s : State) : State :=
  let old := s.getF .hive R.HIVE_HOLD_STATE_DRIVE
  let new := s.holdDrive
  let t := (s.putF .hive R.HIVE_HOLD_STATE_DRIVE new).putF .hive R.HIVE_HOLD_STATE_QUEUE s.queueHolds
  (List.range 8).foldl (fun t h => if bitOf new h && !bitOf old h then t.bump .hive (holdCount h) 1 else t) t

/-- Every command whose effect reaches the take, the queues or the HOLD registers ends so. -/
def State.finish (s : State) : Host.Outcome State Fault Refusal := .next s.settleHolds

/-- The page, and with it its block, exists on this part (DESIGN CHOICE, log entry 3). -/
def State.has (s : State) (p : Page) : Bool := pagePresent s.fuse.part p

/-- A command on the block of page `p`: on a part without it nothing happens (R9). -/
def State.on (s : State) (p : Page) (t : State) : Host.Outcome State Fault Refusal :=
  if s.has p then t.finish else .next s

/-! ### Pushes and pops (R339, R344, R346, R348) -/

/-- A refused push: the run is counted once, and its beginning is raised (R348, R360). -/
def State.refusePush (s : State) (q : QueueId) : State :=
  if (s.queue q).refusing then s
  else
    let t := s.setQueue q { s.queue q with refusing := true }
    (t.bump (queuePage q) R.QUEUE_FULL_HITS_COUNT 1).raiseQueue q 2

/-- An entry is pushed, or refused as full. Answers whether it entered. -/
def State.push (s : State) (q : QueueId) (words : List Nat) (last : Bool) : Bool × State :=
  if s.queueFull q then (false, s.refusePush q)
  else
    let x := s.queue q
    let e := (x.head + x.entries.length) % nominalEntries q
    let t := words.zipIdx.foldl (fun t v => t.setSramBytes (queueSuper q) (queueWordAt q e v.2) (leBytes 8 v.1)) s
    let t := t.setQueue q { x with entries := x.entries ++ [⟨words, last⟩], refusing := false }
    (true, (t.settlePeak q).settleWm q)

/-- An entry is popped, its words with an error found on the way: corrected, or delivered poisoned (R341, R426). The
masks name words of the entry. Answers the entry and the words delivered poisoned. -/
def State.pop (s : State) (q : QueueId) (corrected uncorrectable : Nat) : Option (QueueEntry × Nat) × State :=
  let p := queuePage q
  let x := s.queue q
  match x.entries with
  | [] => (none, s.bump p R.QUEUE_UNDERFLOW_COUNT 1)
  | e :: rest =>
    let n := e.words.length
    let bad := uncorrectable % 2 ^ n
    let good := (List.range n).filter (fun w => bitOf corrected w && !bitOf bad w)
    let t := s.setQueue q { x with entries := rest, head := (x.head + 1) % nominalEntries q }
    let t := good.foldl (fun t w =>
      (t.bump p R.QUEUE_ECC_CORR 1).sramError (queueSuper q) (queueWordAt q x.head w) (queueMaster q) false) t
    let t := (bitsSet n bad).foldl (fun t w =>
      ((t.bump p R.QUEUE_ECC_UNCORR 1).sramError (queueSuper q) (queueWordAt q x.head w) (queueMaster q) true).raiseQueue
        q 3) t
    (some (e, bad), t.settleWm q)

/-- Every entry of a queue is thrown away (R419, R509). -/
def State.emptyQueue (s : State) (q : QueueId) : State :=
  let x := s.queue q
  (s.setQueue q { x with entries := [], head := (x.head + x.entries.length) % nominalEntries q, refusing := false }).settleWm q

/-- An apply of a QUEUE page: a watermark pair outside R351 is kept out, and WM is evaluated at once (R352, R353). -/
def State.applyQueue (s : State) (q : QueueId) : State :=
  let p := queuePage q
  let good := s.wmPairGood q
  let t := s.copyToActive
    (fun p o => if !good && (o == 0x104 || o == 0x108) then 0 else shadowMask p o) p
  let t := if good then t else t.putF p R.QUEUE_NOTICE_SET_REFUSED 1
  t.settleWm q

/-- A page reset of a QUEUE page keeps what the queue holds (R663). -/
def State.resetQueue (s : State) (q : QueueId) : State :=
  let t := s.setQueue q { s.queue q with wm := false, refusing := false }
  (t.clearPage (queuePage q)).settleWm q

end Sys2Proof.Machine
end

