-- ==== Sys2Proof/Machine/Dram.lean ====
section
/-!
DEFINITION. The DRAM channels (chapters 11 and 12): requests and modes, panic, activate windows and row counts, refresh,
self-refresh, error reports, command replay, channel failure, the layouts of a super's store, and training.
-/
namespace Sys2Proof.Machine

/-! ### Tolerances and self-refresh (R383 to R385) -/

/-- The super has drain work outstanding (R486). -/
def State.drainBusy (s : State) (u : Nat) : Bool := s.host.drains.any (fun d => d.super == u)

/-- The smallest latency tolerance stated for a channel, in µs; 0xFFFF unlimited. -/
def State.tolerance (s : State) (u k : Nat) : Nat :=
  min (if s.drainBusy u then 0 else 0xFFFF)
    (min (s.getF (.dram u k) R.DRAM_LTR_HOSTWIN_US) (if u = 0 ∧ k = 0 then s.nbTolerance else 0xFFFF))

/-- A training, full or periodic, is under way. -/
def State.trainingNow (s : State) (u k : Nat) : Bool :=
  let st := s.chanState u k
  st == 1 || st == 2 || st == 3 || s.isSet (.dram u k) R.DRAM_TRAIN_STATUS_PERIODIC

/-- Hive time at which the channel has been idle long enough (DRAM_SR.IDLE_US; 0 acts as 1). -/
def State.idleAt (s : State) (u k : Nat) : Nat :=
  (s.chan u k).lastRequest + max 1 (s.getF (.dram u k) R.DRAM_SR_IDLE_US) * ticksPerUs

def State.inSelfRefresh (s : State) (u k : Nat) : Bool := s.isSet (.dram u k) R.DRAM_LTR_STATUS_SR

/-- The blocking conditions of DRAM_LTR_STATUS. -/
def State.blockTake (s : State) : Bool := s.inTake
def State.blockLtr (s : State) (u k : Nat) : Bool := decide (s.tolerance u k < 2)
def State.blockOther (s : State) (u k : Nat) : Bool :=
  !s.isSet (.dram u k) R.DRAM_SR_SR_EN || s.trainingNow u k || decide (s.hiveTime < s.idleAt u k)

/-- The channel leaves self-refresh; MR4 is read before any other access (R380, R385). -/
def State.leaveSelfRefresh (s : State) (u k : Nat) : State :=
  if s.inSelfRefresh u k then
    let t := s.putF (.dram u k) R.DRAM_LTR_STATUS_SR 0
    (t.setChan u k { t.chan u k with mr4Due := true }).emit (.dramCommand u k 5 [])
  else s

/-! ### Commands of the controller, and panic (R370, R410) -/

/-- A command goes to a rank: it wakes the rank (R383), and stays in the retry buffer until it is acknowledged (R410). -/
def State.command (s : State) (u k sub rank : Nat) (code : List Nat) : State :=
  let x := s.chan u k
  let y := x.sub sub
  let l := y.retry ++ [code]
  s.setChan u k (x.setSub sub
    { y with down := y.down.filter (fun r => !(r == rank)), retry := l.drop (l.length - 64) })

/-- The REFsb commands of one refresh interval: four bank indices of every rank of both subchannels (R378). -/
def State.issueRefresh (s : State) (u k : Nat) : State :=
  (List.range 2).foldl (fun t sub =>
    (List.range (if s.rankBits u k = 1 then 2 else 1)).foldl (fun t rank =>
      (List.range 4).foldl (fun t b =>
        (t.command u k sub rank [1, b]).emit (.dramCommand u k 1 [sub, rank, b])) t) t) s

def State.issueRefreshes (s : State) (u k : Nat) : Nat → State
  | 0 => s
  | n + 1 => (s.issueRefresh u k).issueRefreshes u k n

/-- The channel enters panic when the super queue's depth exceeds DRAM_PANIC_ON, and leaves it when the depth falls
below DRAM_PANIC_OFF; owed refreshes are then repaid (R370, R382). -/
def State.settlePanicOf (s : State) (u k : Nat) : State :=
  let p := Page.dram u k
  let d := s.queueDepth (.super u 0)
  let on := s.isSet p R.DRAM_PANIC_STAT_PANIC
  if !on && s.getF p R.DRAM_PANIC_ON_LEVEL < d && s.chanState u k == 4 then
    let t := (s.putF p R.DRAM_PANIC_STAT_PANIC 1).bump p R.DRAM_PANIC_STAT_ENTRIES 1
    (t.setChan u k { t.chan u k with panicAt := some s.hiveTime }).raise p 0
  else if on && d < s.getF p R.DRAM_PANIC_OFF_LEVEL then
    let x := s.chan u k
    let ticks := x.panicRest + (match x.panicAt with | none => 0 | some a => s.hiveTime - a)
    let t := (s.putF p R.DRAM_PANIC_STAT_PANIC 0).bump p R.DRAM_PANIC_US_TIME (ticks / ticksPerUs)
    let t := t.setChan u k { x with panicAt := none, panicRest := ticks % ticksPerUs }
    (t.issueRefreshes u k (t.getF p R.DRAM_REF_STATUS_OWED)).putF p R.DRAM_REF_STATUS_OWED 0
  else s

def State.settlePanic (s : State) (u : Nat) : State := (s.settlePanicOf u 0).settlePanicOf u 1

/-- Total time in panic now, in µs (DRAM_PANIC_US). -/
def State.panicUs (s : State) (u k : Nat) : Nat :=
  let x := s.chan u k
  let now := match x.panicAt with | none => 0 | some a => (x.panicRest + (s.hiveTime - a)) / ticksPerUs
  satAdd 32 (s.getF (.dram u k) R.DRAM_PANIC_US_TIME) now

/-! ### Queues of a channel and modes (R365, R369) -/

/-- DRAM_QUEUES shows the entries of the queues. -/
def State.showChanQueues (s : State) (u k : Nat) : State :=
  let p := Page.dram u k
  let x := s.chan u k
  let t := (s.putF p R.DRAM_QUEUES_WQ_A x.subA.wq.length).putF p R.DRAM_QUEUES_RQ_A x.subA.rq.length
  (t.putF p R.DRAM_QUEUES_WQ_B x.subB.wq.length).putF p R.DRAM_QUEUES_RQ_B x.subB.rq.length

/-- One evaluation of the mode (R369). -/
def modeStep (y : SubSt) (panic : Bool) (hi lo : Nat) : SubSt :=
  let wq := y.wq.length
  let rq := y.rq.length
  if y.writing then
    { y with writing := !(wq == 0 || (!panic && decide (wq ≤ lo) && decide (0 < rq))) }
  else { y with writing := panic || decide (hi ≤ wq) || (rq == 0 && decide (0 < wq)) }

/-- The mode of a subchannel is evaluated; when that does not give the wanted mode, once more in the next clock. -/
def State.settleMode (s : State) (u k sub : Nat) (write : Bool) : State :=
  let p := Page.dram u k
  let f := fun y => modeStep y (s.isSet p R.DRAM_PANIC_STAT_PANIC) (s.getF p R.DRAM_SCHED_WR_HI)
    (s.getF p R.DRAM_SCHED_WR_LO)
  let x := s.chan u k
  let y := f (x.sub sub)
  s.setChan u k (x.setSub sub (if y.writing == write then y else f y))

/-- Read queue entries that a port may hold (R365). -/
def portLimit (port : Nat) : Nat :=
  match port with
  | 1 => 16 | 2 => 8 | 3 => 6 | 4 => 2 | _ => 0

/-- A read request enters the read queue, when its port has room and it is not there already. -/
def State.enterRead (s : State) (u k sub port piece : Nat) : State :=
  let x := s.chan u k
  let y := x.sub sub
  let mine := y.rq.filter (fun r => r.port == port)
  if y.rq.contains ⟨port, piece⟩ || decide (portLimit port ≤ mine.length) then s
  else
    let t := s.setChan u k { x.setSub sub { y with rq := y.rq ++ [⟨port, piece⟩] } with lastRequest := s.hiveTime }
    t.showChanQueues u k

/-- A write request enters the write queue, which holds 64. -/
def State.enterWrite (s : State) (u k sub : Nat) (q : WriteReq) : State :=
  let x := s.chan u k
  let y := x.sub sub
  let t := s.setChan u k { x.setSub sub { y with wq := y.wq ++ [q] } with lastRequest := s.hiveTime }
  t.showChanQueues u k

/-- Free entries of a write queue. -/
def State.writeRoom (s : State) (u k sub : Nat) : Nat := 64 - ((s.chan u k).sub sub).wq.length

/-! ### Activates and row counts (R386 to R389) -/

/-- MAX and THRESH as they act. -/
def State.actMax (s : State) (u k : Nat) : Nat := max 1 (s.getF (.dram u k) R.DRAM_ACT_CTRL_MAX)
def State.rhThresh (s : State) (u k : Nat) : Nat := max 64 (s.getF (.dram u k) R.DRAM_RH_CTRL_THRESH)

/-- Activates of a port to a bank in the present window. -/
def State.actsOf (s : State) (u k sub port bank : Nat) : Nat :=
  sget (fun _ => 0) ((s.chan u k).sub sub).acts (64 * port + bank)

/-- The port's requests to a bank are held until the next window; RT is never held (R386, R387). -/
def State.portHeld (s : State) (u k sub port bank : Nat) : Bool :=
  decide (1 ≤ port) && decide (port ≤ 4) && decide (s.actMax u k ≤ s.actsOf u k sub port bank)

/-- The field of DRAM_ACT_HELD of a port. -/
def heldField (port : Nat) : Fld :=
  match port with
  | 1 => R.DRAM_ACT_HELD_DR | 2 => R.DRAM_ACT_HELD_NB | 3 => R.DRAM_ACT_HELD_HW | _ => R.DRAM_ACT_HELD_SC

/-- The window is one in which the port was held: counted once, and raised after a window in which none was (R386). -/
def State.holdPort (s : State) (u k port : Nat) : State :=
  let x := s.chan u k
  if bitOf x.heldNow port then s
  else
    let t := (s.setChan u k { x with heldNow := x.heldNow ||| 2 ^ port }).bump (.dram u k) (heldField port) 1
    if x.heldNow = 0 ∧ x.heldBefore = 0 then t.raise (.dram u k) 2 else t

/-- One activate in a table of row counts (R388). -/
def countRow (l : List (Nat × Nat)) (row : Nat) : List (Nat × Nat) :=
  if l.any (fun e => e.1 == row) then l.map (fun e => if e.1 = row then (e.1, e.2 + 1) else e)
  else if l.length < 64 then l ++ [(row, 1)]
  else
    let least := l.foldl (fun m e =>
      match m with
      | none => some e
      | some b => if e.2 < b.2 ∨ (e.2 = b.2 ∧ e.1 < b.1) then some e else some b) none
    match least with
    | none => l
    | some b => l.map (fun e => if e.1 = b.1 then (row, b.2 + 1) else e)

/-- Every activate is counted by port and bank, and by row. -/
def State.countActivate (s : State) (u k sub port : Nat) (b : BankAt) : State :=
  let x := s.chan u k
  let y := x.sub sub
  let n := 64 * port + b.index
  let acts := sput (fun _ => 0) y.acts n (sget (fun _ => 0) y.acts n + 1)
  let rows := sput (fun _ => []) y.rows b.index (countRow (sget (fun _ => []) y.rows b.index) b.row)
  s.setChan u k (x.setSub sub { y with acts := acts, rows := rows })

/-- A row whose count has reached THRESH has its neighbours refreshed (R389). -/
def State.refreshNeighbours (s : State) (u k sub bank row : Nat) : State :=
  let p := Page.dram u k
  let x := s.chan u k
  let y := x.sub sub
  let l := sget (fun _ => []) y.rows bank
  if l.any (fun e => e.1 == row && decide (s.rhThresh u k ≤ e.2)) then
    let t := s.setChan u k (x.setSub sub { y with
      rows := sput (fun _ => []) y.rows bank (l.map (fun e => if e.1 = row then (row, 0) else e)) })
    let directed := s.isSet p R.DRAM_RH_CTRL_USE_DRFM && s.isSet p R.DRAM_CFG_DRFM
    let t := t.bump p (if directed then R.DRAM_RH_COUNT_DRFM else R.DRAM_RH_COUNT_RFM) 1
    (t.command u k sub (bank / 32) [if directed then 3 else 2, bank, if directed then row else 0]).emit
      (.dramCommand u k (if directed then 3 else 2) [sub, bank, if directed then row else 0])
  else s

/-- The rows due for a neighbour refresh in the banks of one bank index, the lower row first (R389, R390). -/
def State.dueRows (s : State) (u k sub bank : Nat) : List (Nat × Nat) :=
  let y := (s.chan u k).sub sub
  let m := s.rhThresh u k
  let due := y.rows.flatMap (fun e =>
    if e.1 % 4 = bank % 4 ∧ e.1 / 32 = bank / 32 then
      (e.2.filter (fun r => decide (m ≤ r.2))).map (fun r => (e.1, r.1)) else [])
  due.mergeSort (fun a b => decide (a.2 ≤ b.2))

/-! ### Store loss and layouts (R295, R414 to R420) -/

/-- What a super's store holds of the take, in DRAM and in its queue: first tick, and the tick after the last. -/
def StoreSt.held (x : StoreSt) : Option (Nat × Nat) :=
  (x.parts.flatMap (fun p => p.written.map (fun r => (r.first, r.stop)))).foldl
    (fun m e => match m with | none => some e | some a => some (min a.1 e.1, max a.2 e.2)) none

/-- The store's blocks are out of reach: nothing in the parts any more. -/
def StoreSt.forget (x : StoreSt) : StoreSt := { x with parts := [] }

/-- BOARD_STATUS.NO_FB follows CH0 of S0 while the timing generator runs, and its becoming 1 is raised (R593). -/
def State.settleNoFb (s : State) : State :=
  let was := s.isSet .board R.BOARD_STATUS_NO_FB
  let now := s.isSet .board R.BOARD_STATUS_RUNNING && !s.chanUsable 0 0
  if was == now then s
  else
    let t := s.putF .board R.BOARD_STATUS_NO_FB (flag now)
    let t := { t with board := { t.board with mixed := t.board.mixed || t.board.blankAt.isNone } }
    if now then t.raise .board 6 else t

/-- BLOCK_STATUS, READY and FAULT of a DRAM page follow STATE; REMAP the layout (chapter 12, Registers). -/
def State.showChan (s : State) (u k : Nat) : State :=
  let p := Page.dram u k
  let st := s.chanState u k
  let remap := flag (s.layout u == k + 1)
  let t := (s.putF p R.PAGE_STATUS_READY (flag (st == 4))).putF p R.PAGE_STATUS_FAULT (flag (st == 5 || st == 6))
  let t := (t.putF p (blockBit 16) (flag (st == 4))).putF p (blockBit 17) (flag (st == 5))
  ((t.putF p (blockBit 18) remap).putF p R.DRAM_TRAIN_STATUS_REMAP remap).settleNoFb

def State.setChanState (s : State) (u k st step : Nat) : State :=
  let p := Page.dram u k
  let t := (s.putF p R.DRAM_TRAIN_STATUS_STATE st).putF p R.DRAM_TRAIN_STATUS_STEP step
  t.showChan u k

/-- A super's store becomes disabled: its super queue is discarded, its WM forced, and during a take its streams write
nothing (R419, R440). -/
def State.disableStore (s : State) (u cause : Nat) : State :=
  let x := s.store u
  let t := s.emptyQueue (.super u 0)
  let t := if s.inTake then
      let from' := match x.held with
        | some e => e.1
        | none => if s.takeState = 1 then 8 * s.take.first else s.hiveTime
      t.beginStoreLoss u from' cause
    else t
  (t.setStore u (t.store u).forget).settleWm (.super u 0)

/-- The layout in force becomes the one that the channels' states call for. `cleared` is a channel that has just been
written with zeros; `start` means that this is part of start-up, whose clearing is no switch (R485)
(DEDUCED, log entry 89). -/
def State.settleLayout (s : State) (u : Nat) (cleared : Option Nat) (start : Bool) : State :=
  let x := s.store u
  let new := s.layoutWanted u
  if new = x.layout ∨ x.switchOwed then s
  else
    let t := s.setStore u { x with layout := new, fresh := if start || new == 0 then x.fresh else some [] }
    let t := if start then t else
      (List.range 2).foldl (fun t k =>
        if cleared = some k || s.chanState u k != 4 then t else t.loseDram u k) t
    (t.showChan u 0).showChan u 1

/-- A channel becomes FAILED (R414): it takes no requests, cause and time are recorded, and the channel state event is
raised. With the other channel usable the super is to switch layouts (R416); with none its store is disabled (R419). -/
def State.failChannel (s : State) (u k cause : Nat) : State :=
  let st := s.chanState u k
  if st = 0 ∨ st = 5 ∨ st = 6 then s
  else
    let p := Page.dram u k
    let used := s.layout u != 0
    let t := (s.putF p R.DRAM_FAIL_CAUSE cause).putPair p R.DRAM_FAIL_TIME_LO_TIME R.DRAM_FAIL_TIME_HI_TIME s.hiveTime
    let t := (t.putF p R.DRAM_TRAIN_STATUS_TRIES 0).putF p R.DRAM_TRAIN_STATUS_PERIODIC 0
    let t := (t.setChanState u k 5 0).raise p 7
    let t := t.setChan u k { t.chan u k with
      alert := false, replaying := false, periodic := 0, slotWanted := false, restart := false, startup := false }
    let x := t.store u
    if t.layoutWanted u != 0 then
      if used then t.setStore u { x with switchOwed := true } else t.settleLayout u none false
    else
      let t := (t.setStore u { x with switchOwed := false }).settleLayout u none false
      if t.channelsGone u then t.disableStore u 1 else t

/-- Every queued request of a channel is thrown away (R417). -/
def State.dropRequests (s : State) (u k : Nat) : State :=
  let x := s.chan u k
  (s.setChan u k { x with subA := { x.subA with wq := [], rq := [] }, subB := { x.subB with wq := [], rq := [] } }).showChanQueues u k

/-! ### Errors found by reads (R405 to R409) -/

/-- A word with a single-bit error is delivered corrected (R405). -/
def State.reportCorrected (s : State) (u k sub port piece w bit : Nat) : State :=
  let p := Page.dram u k
  let t := s.bump p R.DRAM_ECC_CE_COUNT 1
  let t := if s.isSet p R.DRAM_ECC_CTRL_LOG_CE then t.logError u k sub 1 port piece w bit else t
  t.raise p 4

/-- A word that cannot be corrected (R406), which may be one too many within a millisecond (R408). -/
def State.reportUncorrectable (s : State) (u k sub port piece w : Nat) : State :=
  let p := Page.dram u k
  let t := ((s.bump p R.DRAM_ECC_UE_COUNT 1).logError u k sub 2 port piece w 0xFF).raise p 5
  let x := t.chan u k
  let times := (s.hiveTime :: x.ueTimes).filter (fun a => decide (s.hiveTime - a < 1000 * ticksPerUs))
  let t := t.setChan u k { x with ueTimes := times }
  let limit := s.getF p R.DRAM_ECC_CTRL_UE_LIMIT
  if limit ≠ 0 ∧ limit ≤ times.length then t.failChannel u k 4 else t

/-- A word is written with all check bits inverted (R407). -/
def State.reportPoison (s : State) (u k sub port piece w : Nat) : State :=
  let p := Page.dram u k
  let t := ((s.bump p R.DRAM_ECC_POISON_COUNT 1).logError u k sub 3 port piece w 0xFF).raise p 5
  let x := t.chan u k
  t.setChan u k (x.setFlaw (dramWordAt sub piece w) badWord)

/-- An error strikes word `w` of a piece in DRAM: of one bit, or uncorrectable, when the word's bits are no longer known.
A second bit in error makes the word uncorrectable (R404). -/
def State.strike (s : State) (u k sub piece w bit : Nat) : State :=
  let x := s.chan u k
  let a := dramWordAt sub piece w
  if 32 ≤ w ∨ x.flaw a = badWord then s
  else if bit < 72 ∧ (x.flaw a = 0 ∨ x.flaw a = bit + 1) then s.setChan u k (x.setFlaw a (bit + 1))
  else
    let d := (s.setChan u k (x.setFlaw a badWord)).drawFree
    (leBytes 8 (Config.upsetWord d.1).toNat).zipIdx.foldl
      (fun t e => t.setDramStored u k sub (256 * piece + 8 * w + e.2) e.1) d.2

/-- A read of a piece checks its words: errors found now join those already stored. A flaw names a word and the bit in
error, or 72 and above for an uncorrectable word (DEDUCED, log entry 138). -/
def State.checkPiece (s : State) (u k sub port piece : Nat) (flaws : List (Nat × Nat)) : State :=
  let t := flaws.foldl (fun t f => t.strike u k sub piece f.1 f.2) s
  let x := t.chan u k
  (List.range 32).foldl (fun t w =>
    let e := x.flaw (dramWordAt sub piece w)
    if oneBit e then t.reportCorrected u k sub port piece w (e - 1)
    else if e = badWord then t.reportUncorrectable u k sub port piece w
    else t) t

/-- A write request reaches the DRAM: whole words replace what was there; a part of a word is merged into the word as
read (R376, R407). -/
def State.storeWrite (s : State) (u k sub : Nat) (q : WriteReq) : State :=
  let t := (List.range 32).foldl (fun t w =>
    let a := dramWordAt sub q.piece w
    if q.wholeWord w then
      if q.poison.contains w then t.reportPoison u k sub q.port q.piece w
      else t.setChan u k ((t.chan u k).setFlaw a 0)
    else if q.touches w then
      let e := (t.chan u k).flaw a
      if oneBit e then
        let t := t.reportCorrected u k sub q.port q.piece w (e - 1)
        t.setChan u k ((t.chan u k).setFlaw a 0)
      else if e = badWord then
        (t.reportUncorrectable u k sub q.port q.piece w).reportPoison u k sub q.port q.piece w
      else t
    else t) s
  q.bytes.zipIdx.foldl (fun t e => t.setDramStored u k sub (256 * q.piece + q.start + e.2) e.1) t

/-! ### The drain reader's pieces (R484) -/

def State.reader (s : State) (u : Nat) : DrainSt := sget (fun _ => DrainSt.reset) s.host.readers u
def State.setReader (s : State) (u : Nat) (x : DrainSt) : State :=
  { s with host := { s.host with readers := sput (fun _ => DrainSt.reset) s.host.readers u x } }

/-- The drain descriptor that a super's reader serves: the first in tally order (R483). -/
def State.drainNow (s : State) (u : Nat) : Option DrainDesc := s.host.drains.find? (fun d => d.super == u)

/-- The block slot that the reader reads next. -/
def DrainDesc.slot (d : DrainDesc) : Nat := d.first + d.delivered

/-- The reader takes piece `p` of its block, once. -/
def State.stagePiece (s : State) (u slot p : Nat) : State :=
  let r := s.reader u
  if r.staged.any (fun e => e.piece == p) then s
  else
    let a := pieceAt (s.layout u) slot p
    s.setReader u { r with staged := r.staged ++
      [⟨p, s.dramPiece u a.1 a.2.1 a.2.2, s.dramPieceBad u a.1 a.2.1 a.2.2⟩] }

/-- A read of the DR port that belongs to the block the reader is at. -/
def State.stageRead (s : State) (u k sub piece : Nat) : State :=
  match s.drainNow u with
  | none => s
  | some d =>
    match (List.range 16).find? (fun p => pieceAt (s.layout u) d.slot p == (k, sub, piece)) with
    | none => s
    | some p => s.stagePiece u d.slot p

/-- The RT port writes block slot `i` while the reader has read some of it and not all (R484). -/
def State.noteTorn (s : State) (u i : Nat) : State :=
  match s.drainNow u with
  | none => s
  | some d =>
    let r := s.reader u
    if d.slot = i ∧ 0 < r.staged.length ∧ r.staged.length < 16 then s.setReader u { r with torn := true } else s

/-! ### Accesses (R369, R373, R375) -/

/-- The channel issues commands: it serves requests, no alert stands, and it is awake with MR4 read. -/
def State.chanIssues (s : State) (u k : Nat) : Bool :=
  s.chanUsable u k && !(s.chan u k).alert && !s.inSelfRefresh u k && !(s.chan u k).mr4Due

/-- An access is issued: neighbour refreshes due in its banks go first, the row is activated, and the activate counted. -/
def State.activate (s : State) (u k sub port piece : Nat) (write : Bool) : State :=
  let b := bankOf (s.rankBits u k) piece
  let t := (s.dueRows u k sub b.index).foldl (fun t e => t.refreshNeighbours u k sub e.1 e.2) s
  (t.countActivate u k sub port b).command u k sub b.rank [0, flag write, piece]

/-- The oldest queued write of a piece goes to the DRAM (R372, R375). -/
def State.accessWrite (s : State) (u k sub piece : Nat) : State :=
  let t := s.settleMode u k sub true
  let y := (t.chan u k).sub sub
  match y.wq.find? (fun q => q.piece == piece) with
  | none => s
  | some q =>
    if y.writing && !t.portHeld u k sub q.port (bankOf (t.rankBits u k) piece).index then
      let t := t.activate u k sub q.port piece true
      let x := t.chan u k
      let y := x.sub sub
      let t := (t.setChan u k (x.setSub sub { y with wq := y.wq.erase q })).showChanQueues u k
      t.storeWrite u k sub q
    else if y.writing then t.holdPort u k q.port
    else t

/-- Scrub writes a corrected piece back where it found single-bit errors and no uncorrectable word: of such a word there is
no corrective write (R365, R405, R406) (DEDUCED, log entry 140). -/
def State.correctivePiece (s : State) (u k sub piece : Nat) : State :=
  let x := s.chan u k
  if (List.range 32).any (fun w => oneBit (x.flaw (dramWordAt sub piece w))) && !s.dramPieceBad u k sub piece
      && decide (0 < s.writeRoom u k sub) then
    s.enterWrite u k sub ⟨4, piece, 0, s.dramPiece u k sub piece, []⟩
  else s

/-- A read request of a port enters the channel and is issued when the scheduler is in READ mode and the port is not held.
A piece with a write queued is served from the queue (R375). `strobe` counts the reads that met no strobe (R413). -/
def State.accessRead (s : State) (u k sub port piece : Nat) (flaws : List (Nat × Nat)) (strobe : Nat) : State :=
  let t := s.enterRead u k sub port piece
  let served := fun (t : State) =>
    let x := t.chan u k
    let y := x.sub sub
    let t := (t.setChan u k (x.setSub sub { y with rq := y.rq.erase ⟨port, piece⟩ })).showChanQueues u k
    if port = 1 then t.stageRead u k sub piece else t
  if !((t.chan u k).sub sub).rq.contains ⟨port, piece⟩ then t
  else if ((t.chan u k).sub sub).wq.any (fun q => q.piece == piece) then served t
  else
    let t := t.settleMode u k sub false
    if ((t.chan u k).sub sub).writing then t
    else if t.portHeld u k sub port (bankOf (t.rankBits u k) piece).index then t.holdPort u k port
    else
      let t := t.activate u k sub port piece false
      if 2 ≤ strobe then t.failChannel u k 3
      else
        let t := t.checkPiece u k sub port piece flaws
        let t := if port = 4 then t.correctivePiece u k sub piece else t
        served t

/-! ### Training (R393 to R403) -/

/-- The module is in the table of R362. -/
def dimmFits (d : Dimm) : Bool :=
  d.sound && decide (1 ≤ d.density) && decide (d.density ≤ 3) && (d.ranks == 1 || d.ranks == 2)

/-- Channel capacity in GiB (R362). -/
def dimmGib (d : Dimm) : Nat := (if d.density = 1 then 32 else if d.density = 2 then 48 else 64) * d.ranks

/-- Every field of DRAM_CFG (R393). -/
def State.setCfg (s : State) (u k gib density ranks grade drfm : Nat) : State :=
  let p := Page.dram u k
  ((((s.putF p R.DRAM_CFG_CAP_GIB gib).putF p R.DRAM_CFG_DENSITY density).putF p R.DRAM_CFG_RANKS ranks).putF p
    R.DRAM_CFG_GRADE grade).putF p R.DRAM_CFG_DRFM drfm

/-- A module is refused: STATE REFUSED, DRAM_CFG 0, and the channel state event (R393, R394). -/
def State.refuseDimm (s : State) (u k : Nat) : State :=
  let t := ((s.setCfg u k 0 0 0 0 0).setChanState u k 6 0).raise (.dram u k) 7
  let t := t.setChan u k { t.chan u k with startup := false, fallTo := 0 }
  let t := t.settleLayout u none (s.chan u k).startup
  if t.channelsGone u then t.disableStore u 1 else t

/-- The super's DPLL is set for a grade (R91), and relocks when its N changes (R96). -/
def State.setDpll (s : State) (u grade : Nat) : State :=
  let p := Page.spll u 2
  let mhz := if grade = 3 then 3200 else if grade = 2 then 2800 else 2400
  let h := s.hiveClock
  let n := mhz * 1000000 * 128 * h.den / h.num
  if n = s.getF p R.PLL_DIV_N then s
  else ((s.putF p R.PLL_DIV_N n).putShadowF p R.PLL_DIV_N n).startRelock p 0

/-- A full training of a channel begins at step 1 (R395, R397); its contents are lost. -/
def State.startTraining (s : State) (u k : Nat) (startup : Bool) : State :=
  let p := Page.dram u k
  let t := ((s.putF p R.DRAM_TRAIN_STATUS_TRIES 0).putF p R.DRAM_TRAIN_STATUS_PERIODIC 0).setChanState u k 1 1
  let t := (t.dropRequests u k).loseDram u k
  let t := t.setChan u k { t.chan u k with
    startup := startup, periodic := 0, slotWanted := false, restart := false, fallTo := 0 }
  t.settleLayout u none startup

/-- The grades that a channel's module supports within a limit, as a bit mask over 1 to 3. -/
def State.gradesWithin (s : State) (u k top : Nat) : Nat :=
  match (s.chan u k).dimm with
  | none => 0
  | some d => ofBits ((List.range 4).filter (fun g => bitOf d.grades g && decide (1 ≤ g) && decide (g ≤ top)))

/-- The highest grade of a mask; 0 when there is none. -/
def topGrade (m : Nat) : Nat := if bitOf m 3 then 3 else if bitOf m 2 then 2 else if bitOf m 1 then 1 else 0

/-- The channels of a super that are identified and have no grade yet. -/
def State.waitGrade (s : State) (u : Nat) : List Nat :=
  (List.range 2).filter (fun k => s.chanState u k == 2 && s.getF (.dram u k) R.DRAM_CFG_GRADE == 0)

/-- The grade at which a channel of the super runs, if one does: the DPLL serves both (R394). -/
def State.runningGrade (s : State) (u : Nat) : Option Nat :=
  ((List.range 2).find? (fun k => s.chanState u k == 4)).map (fun k => s.getF (.dram u k) R.DRAM_CFG_GRADE)

/-- The grades that a waiting channel may take: the one that runs, or all within MAX_GRADE and a fallback's limit. -/
def State.gradeChoice (s : State) (u k : Nat) : Nat :=
  match s.runningGrade u with
  | some g => if bitOf (s.gradesWithin u k 3) g then 2 ^ g else 0
  | none =>
    let top := min (s.getF (.dram u 0) R.DRAM_TRAIN_CTRL_MAX_GRADE) (s.getF (.dram u 1) R.DRAM_TRAIN_CTRL_MAX_GRADE)
    s.gradesWithin u k ((s.waitGrade u).foldl (fun m k =>
      let g := (s.chan u k).fallTo
      if g = 0 then m else min m g) top)

/-- The grade is chosen once every accepted channel of the super is identified (R394). -/
def State.chooseGrade (s : State) (u : Nat) : State :=
  let waiting := s.waitGrade u
  if waiting.isEmpty || (List.range 2).any (fun k => s.chanState u k == 1) then s
  else
    let grades := s.gradeChoice u
    let none' := waiting.filter (fun k => grades k == 0)
    let good := waiting.filter (fun k => grades k != 0)
    let common := good.foldl (fun m k => m &&& grades k) 0xF
    let t := none'.foldl (fun t k => t.refuseDimm u k) s
    let keep := if common = 0 then good.take 1 else good
    let t := (good.filter (fun k => !keep.contains k)).foldl (fun t k => t.refuseDimm u k) t
    match keep with
    | [] => t
    | k :: _ =>
      let g := topGrade (if common = 0 then grades k else common)
      let t := keep.foldl (fun t k => t.putF (.dram u k) R.DRAM_CFG_GRADE g) t
      if (s.runningGrade u).isNone then t.setDpll u g else t

/-- Step 1 ends with what the clerk found in the socket (R393). -/
def State.identify (s : State) (u k : Nat) (found : Option Dimm) : State :=
  match found with
  | none =>
    let t := (s.setCfg u k 0 0 0 0 0).setChan u k { s.chan u k with
      dimm := none, empty := true, startup := false, fallTo := 0 }
    let t := (t.setChanState u k 0 0).settleLayout u none (s.chan u k).startup
    let t := t.chooseGrade u
    if t.channelsGone u then t.disableStore u 1 else t
  | some d =>
    let t := s.setChan u k { s.chan u k with dimm := some d, empty := false }
    if dimmFits d then
      ((t.setCfg u k (dimmGib d) d.density d.ranks 0 (flag d.drfm)).setChanState u k 2 2).chooseGrade u
    else (t.refuseDimm u k).chooseGrade u

/-- Falling back: both channels of the super train again at a lower grade (R403) (DEDUCED, log entry 112). -/
def State.fallBack (s : State) (u grade : Nat) : State :=
  (List.range 2).foldl (fun t k =>
    let st := t.chanState u k
    if st = 0 ∨ st = 6 then t
    else
      let t := (t.raise (.dram u k) 7).startTraining u k false
      t.setChan u k { t.chan u k with fallTo := grade }) s

/-- A gathering step has found no setting (R402, R403). -/
def State.noSetting (s : State) (u k : Nat) : State :=
  let p := Page.dram u k
  let tries := s.getF p R.DRAM_TRAIN_STATUS_TRIES + 1
  let t := s.bump p R.DRAM_TRAIN_COUNT_NO_SETTING 1
  if tries < 3 then t.putF p R.DRAM_TRAIN_STATUS_TRIES tries
  else if s.inTake || !s.isSet p R.DRAM_TRAIN_CTRL_FALLBACK || s.getF p R.DRAM_CFG_GRADE ≤ 1
      || (s.chan u k).fallTo != 0 then t.failChannel u k 1
  else t.fallBack u (s.getF p R.DRAM_CFG_GRADE - 1)

/-- A training slot may be granted now (R578). -/
def State.slotFree (s : State) (u : Nat) : Bool :=
  s.getF .reeve R.REEVE_STATUS_STEP == 0 && !s.isSet .reeve R.REEVE_STATUS_PRESSED
    && !(s.chan u 0).slot && !(s.chan u 1).slot

/-- A channel asks for a training slot; one that must wait is counted (R578). -/
def State.requestSlot (s : State) (u k : Nat) : State :=
  if (s.chan u k).slotWanted then s
  else
    let t := s.setChan u k { s.chan u k with slotWanted := true }
    if s.slotFree u then t else t.bump .reeve R.REEVE_TRAIN_WAITED 1

/-- A periodic retraining ends, or is given up (R398, R399). -/
def State.endPeriodic (s : State) (u k : Nat) : State :=
  let t := s.setChan u k { s.chan u k with periodic := 0 }
  (t.putF (.dram u k) R.DRAM_TRAIN_STATUS_PERIODIC 0).putF (.dram u k) R.DRAM_TRAIN_STATUS_TRIES 0

def State.abandonPeriodic (s : State) (u k : Nat) : State :=
  if (s.chan u k).periodic = 0 then s
  else (s.endPeriodic u k).bump (.dram u k) R.DRAM_TRAIN_COUNT_ABANDONED 1

/-- The clock of a super's channels changes: training is abandoned, and starts again once the DPLL is LOCKED; a periodic
retraining waits for its next period (R400, R401). -/
def State.abandonTraining (s : State) (u : Nat) : State :=
  (List.range 2).foldl (fun t k =>
    let st := t.chanState u k
    if st = 1 ∨ st = 2 ∨ st = 3 then
      let t := t.putF (.dram u k) R.DRAM_TRAIN_STATUS_STEP 0
      t.setChan u k { t.chan u k with restart := true }
    else if (t.chan u k).periodic ≠ 0 then t.endPeriodic u k
    else t) s

/-- The DPLL of a super is LOCKED: abandoned trainings start again at step 1. -/
def State.restartTraining (s : State) (u : Nat) : State :=
  (List.range 2).foldl (fun t k =>
    let x := t.chan u k
    if x.restart then
      let r := t.startTraining u k x.startup
      r.setChan u k { r.chan u k with fallTo := x.fallTo }
    else t) s

/-- The clock of every super's channels changes, or of one super's. -/
def State.abandonUnder (s : State) : Page → State
  | .pll 0 => s.supers.foldl (fun t u => t.abandonTraining u) s
  | .spll u 2 => s.abandonTraining u
  | _ => s

/-! ### Applies (R371, R391) -/

/-- An apply of a DRAM page: pairs outside R371 and a MAX_GRADE of 0b00 keep their active values. -/
def State.applyDram (s : State) (u k : Nat) : State :=
  let p := Page.dram u k
  let hi := s.getShadowF p R.DRAM_SCHED_WR_HI
  let lo := s.getShadowF p R.DRAM_SCHED_WR_LO
  let on := s.getShadowF p R.DRAM_PANIC_ON_LEVEL
  let off := s.getShadowF p R.DRAM_PANIC_OFF_LEVEL
  let sched := decide (1 ≤ lo) && decide (lo < hi) && decide (hi ≤ 64)
  let panic := decide (off < on) && decide (on ≤ 131068)
  let grade := s.getShadowF p R.DRAM_TRAIN_CTRL_MAX_GRADE != 0
  let was := s.layoutWanted u
  let t := s.copyToActive (fun p o =>
    if o = 0x104 ∧ !sched then 0
    else if (o = 0x108 ∨ o = 0x10C) ∧ !panic then 0
    else if o = 0x200 ∧ !grade then shadowMask p o &&& 0xFFFFFFFC#32
    else shadowMask p o) p
  let t := if sched && panic then t else t.putF p R.DRAM_FLAGS_SET_REFUSED 1
  let now := t.layoutWanted u
  let t := ((t.settleLayout u none false).settlePanic u).settleNoFb
  if was = now then t
  else
    let stays := if now = 1 ∨ now = 2 then now - 1 else if was = 1 ∨ was = 2 then was - 1 else k
    t.raise (.dram u stays) 7

end Sys2Proof.Machine
end

