-- ==== Sys2Proof/Machine/March.lean ====
section
/-!
DEFINITION. The march engine of a super's memories (chapter 13): runs, what they find, and what a super's store and the
SRAM page show of it.
-/
namespace Sys2Proof.Machine

/-- The Reeve's background pause is in force: shedding step 1 or a later one is (R44, R444, R573). -/
def State.bgPaused (s : State) : Bool := s.isSet .reeve R.REEVE_STATUS_STEP

/-- STATE of a run under way, with BLOCK_STATUS bit 16. -/
def State.showMarch (s : State) (u : Nat) : State :=
  let p := Page.sram u
  let on := (s.sramOf u).run.isSome
  let t := s.putF p (blockBit 16) (flag on)
  if on then t.putF p R.SRAM_MARCH_STATUS_STATE (if s.bgPaused then 2 else 1) else t

/-- A run begins. One over every memory takes READY to 0 (R442). -/
def State.beginMarch (s : State) (u : Nat) (r : MarchRun) : State :=
  let t := (s.setSramOf u { s.sramOf u with run := some r }).putF (.sram u) R.SRAM_MARCH_STATUS_BACKGROUND 0
  let t := if r.whole then t.putF (.sram u) R.PAGE_STATUS_READY 0 else t
  t.showMarch u

/-- A write of 1 to SRAM_MARCH_CTRL.START (R442, R434). -/
def State.marchStart (s : State) (u : Nat) : State :=
  let p := Page.sram u
  let hostOnly := s.isSet p R.SRAM_MARCH_CTRL_TARGET
  if (s.sramOf u).run.isSome || !s.enabled p || (s.inTake && !hostOnly) then
    s.putF p R.SRAM_MARCH_CTRL_START_REFUSED 1
  else s.beginMarch u ⟨!s.isSet p R.SRAM_MARCH_CTRL_MODE, !hostOnly, false, 0⟩

/-- A word that failed a march run: its memory and line, its place in the line, and how many of its bits failed. -/
structure MarchFail where
  memory : Nat
  line : Nat
  word : Nat
  bits : Nat
deriving DecidableEq, Repr

/-- Memories that a run tests: of the super, with the Noticeboard's line buffer on S0, or banks 14 and 15. -/
def State.marched (s : State) (u : Nat) (whole : Bool) : List Nat :=
  if whole then List.range (if u = 0 ∧ s.fuse.part.hasBoard then 25 else 24) else [14, 15]

/-- The data path uses the line of a memory (R424). -/
def dataLine (memory line : Nat) : Bool :=
  decide (memory < 14) || (decide (16 ≤ memory) && decide (memory < 24) && decide (line < 0x24000 / 64))

/-- The lines of a memory that need repair, in the order of finding: the first four move to spares (R439). -/
def linesOf (l : List (Nat × Nat)) (memory : Nat) : List (Nat × Nat) := l.filter (fun e => e.1 == memory)

/-- The contents of the memories that a run tested are zero (R437) (DESIGN CHOICE, log entry 90). -/
def State.zeroMarched (s : State) (u : Nat) (whole : Bool) : State :=
  if whole then s.zeroSram u
  else
    let mine := fun (off : Nat) => memoryCode off == 14 || memoryCode off == 15
    let t := s.clearSram (fun a => a / 2 ^ 23 == u && mine (a % 2 ^ 23))
    t.setSramOf u { t.sramOf u with bad := (t.sramOf u).bad.filter (fun a => !mine a) }

/-- What a finished run has found: repairs, memories left unrepaired, counts, and the store's state (R439, R440)
(DEDUCED, log entry 91). -/
def State.marchFound (s : State) (u : Nat) (r : MarchRun) (fails : List MarchFail) : State :=
  let p := Page.sram u
  let mems := s.marched u r.whole
  let fails := fails.filter (fun f => mems.contains f.memory)
  let weak := (fails.filter (fun f => f.bits == 1)).length
  let lines := ((fails.filter (fun f => decide (2 ≤ f.bits))).map (fun f => (f.memory, f.line))).eraseDups
  let repaired := mems.flatMap (fun m => (linesOf lines m).take 4)
  let beyond := mems.flatMap (fun m => (linesOf lines m).drop 4)
  let x := s.sramOf u
  let kept := x.repairs.filter (fun e => !mems.contains e.1)
  let mask := ofBits mems
  let unrepaired := (x.unrepaired &&& (0x1FFFFFF ^^^ mask)) ||| ofBits (beyond.map Prod.fst)
  let off := if r.whole then beyond.any (fun e => dataLine e.1 e.2) else x.off
  let t := s.setSramOf u { x with run := none, repairs := kept ++ repaired, unrepaired := unrepaired, off := off }
  let t := (t.putF p R.SRAM_MARCH_WEAK_COUNT (min weak 0xFFFF)).putF p R.SRAM_MARCH_FAIL_LINES (min lines.length 0xFF)
  let t := t.putF p R.SRAM_MARCH_FAIL_UNREPAIRED (flag (unrepaired != 0))
  let first := lines.headD (0, 0)
  let t := (t.putF p R.SRAM_MARCH_FAIL_MEMORY first.1).putF p R.SRAM_MARCH_FAIL_LINE first.2
  let t := t.putF p R.SRAM_REPAIR_MEMORIES (ofBits ((kept ++ repaired).map Prod.fst))
  let t := (t.putF p R.SRAM_UNREPAIRED_MEMORIES unrepaired).putF p R.PAGE_STATUS_FAULT (flag (unrepaired != 0))
  let t := t.putF p R.SRAM_MARCH_STATUS_STATE (if beyond.isEmpty then 3 else 4)
  let t := t.putF p (blockBit 17) (flag off)
  let t := (beyond.map Prod.fst).eraseDups.foldl (fun t _ => t.raise p 1) t
  let t := if off && !x.off then t.disableStore u 2 else t
  t.settleWm (.super u 0)

/-- The run is over: its engine is idle, and the page READY again (R441, R442). -/
def State.endMarch (s : State) (u : Nat) (r : MarchRun) (fails : List MarchFail) : State :=
  let t := if r.destructive then s.zeroMarched u r.whole else s
  let t := t.marchFound u r fails
  let t := if r.whole then t.putF (.sram u) R.PAGE_STATUS_READY 1 else t
  t.showMarch u

end Sys2Proof.Machine
end

