-- ==== Sys2Proof/Machine/Boot.lean ====
section
/-!
DEFINITION. Start-up after PWR_OK (chapter 19): the stages that HIVE_BOOT and HIVE_READY report, the march runs and the
trainings that follow one another for each super, and PAGE_STATUS.READY of every page.
-/
namespace Sys2Proof.Machine

/-! ### HIVE_READY -/

/-- PWR_OK is high. -/
def State.powerOk (s : State) : Bool := s.isSet .hive R.HIVE_READY_POWER

/-- The clerk has booted (R614). -/
def State.booted (s : State) : Bool := s.isSet .hive R.HIVE_READY_BOOTED

/-- HIVE_READY.CLOCKS. -/
def State.clocksUp (s : State) : Bool :=
  s.allPlls.all s.locked && s.supers.all (fun u => s.isSet (.spll u 0) R.PLL_TIME_STATUS_ALIGNED)

/-- HIVE_READY.STORE bit of a super. -/
def State.storeReady (s : State) (u : Nat) : Bool :=
  s.isSet (.sram u) R.PAGE_STATUS_READY && (s.chanUsable u 0 || s.chanUsable u 1)
    && (List.range 2).all (fun k => !(s.chanState u k == 1 || s.chanState u k == 2 || s.chanState u k == 3))

/-- HIVE_READY as it reads: CLOCKS, STORE and ALL follow the hive. -/
def State.readyWord (s : State) : Word :=
  let w := s.word (pageBase .hive + R.HIVE_READY_ALL.off)
  let store := ofBits (s.supers.filter s.storeReady)
  let w := setBits (setBits w 1 1 (flag s.clocksUp)) 15 8 store
  setBits w 31 31 (flag (bitsOf w.toNat 4 0 == 31 && s.supers.all s.storeReady))

/-! ### PAGE_STATUS.READY -/

/-- The start-up march run of a super has ended. -/
def State.marchedOnce (s : State) (u : Nat) : Bool := !s.boot.marchOwed.contains u

/-- PAGE_STATUS.READY, as each chapter's register section has it (DESIGN CHOICE, log entry 31). -/
def State.readyOf (s : State) : Page → Bool
  | .hive => s.booted
  | .reeve => s.booted
  | .ivr => s.powerOk
  | .host => s.host.configured
  | .events => s.marchedOnce 0
  | .hqueue _ => s.marchedOnce 0
  | .frame u _ => s.marchedOnce u
  | .queue u _ => s.marchedOnce u
  | .sram u => s.marchedOnce u && !(match (s.sramOf u).run with | none => false | some r => r.whole)
  | .dram u k => s.chanState u k == 4
  | .press u => s.boot.clocks && !s.isSet (.press u) R.PRESS_SELFTEST_FAIL
  | _ => s.boot.clocks

/-- READY of one page. -/
def State.showReady (s : State) (p : Page) : State :=
  if pagePresent s.fuse.part p then s.putF p R.PAGE_STATUS_READY (flag (s.readyOf p)) else s

/-- The pages of the hive, and of a super. -/
def hivePages : List Page :=
  [.hive, .reeve, .ivr, .host, .events, .ring, .board, .pll 0, .pll 1, .pll 2, .pll 3, .hseq, .hqueue 0, .hqueue 1]
def allSuperPages (u : Nat) : List Page := superPages u ++ [.spll u 0, .spll u 1, .spll u 2]

/-- Every page of the part. -/
def State.allPages (s : State) : List Page :=
  (hivePages ++ s.supers.flatMap allSuperPages).filter (pagePresent s.fuse.part)

def State.showAllReady (s : State) : State := s.allPages.foldl (fun t p => t.showReady p) s

/-! ### Steps 3 to 7 of R609 -/

/-- HIVE_BOOT.STAGE: the latest step begun. -/
def State.stage (s : State) (n : Nat) : State :=
  if s.getF .hive R.HIVE_BOOT_STAGE < n then s.putF .hive R.HIVE_BOOT_STAGE n else s

/-- The channels of a super begin training, as part of start-up (R609). -/
def State.beginTraining (s : State) (u : Nat) : State :=
  ((s.startTraining u 0 true).startTraining u 1 true).stage 6

/-- The start-up run of a super, and its zero writes, are done: its channels begin training. -/
def State.marchEnds (s : State) (u : Nat) : State :=
  let t := { s with boot := { s.boot with marchOwed := s.boot.marchOwed.filter (fun x => !(x == u)) } }
  let t := (allSuperPages u).foldl (fun t p => t.showReady p) t
  let t := if u = 0 then [Page.events, .hqueue 0, .hqueue 1].foldl (fun t p => t.showReady p) t else t
  let t := if t.supers.any (fun x => t.boot.marchOwed.contains x) then t else t.putF .hive R.HIVE_READY_SRAM 1
  t.beginTraining u

/-- Step 5 of a super begins (R441): destructive at a cold start; at a release of RESET_N the run that BOOT chooses, over
memories that are written to zero first. -/
def State.startMarch (s : State) (u : Nat) : State :=
  let boot := s.getF (.sram u) R.SRAM_MARCH_CTRL_BOOT
  if s.getF .hive R.HIVE_BOOT_LAST_RESET = 1 ∨ boot = 0 ∨ boot = 3 then s.beginMarch u ⟨true, true, true, 0⟩
  else if boot = 1 then (s.zeroSram u).beginMarch u ⟨false, true, true, 0⟩
  else (s.zeroSram u).marchEnds u

/-- A run that has ended, when it was that of start-up. -/
def State.marchOver (s : State) (u : Nat) (r : MarchRun) : State := if r.startup then s.marchEnds u else s

/-- Steps 6 and 7 are done on a super: neither of its channels is in IDENTIFY, TRAINING or CLEARING any more. -/
def State.trainedOnce (s : State) (u : Nat) : Bool :=
  s.marchedOnce u && (List.range 2).all (fun k => !(s.chanState u k == 1 || s.chanState u k == 2 || s.chanState u k == 3))

/-- HIVE_LINKn.UP of the links that the part has: they are trained at the end of step 3 (R609). -/
def State.raiseLinks (s : State) : State :=
  ((List.range 10).filter (linkPresent s.fuse.part)).foldl (fun t l => t.putF .hive (R.HIVE_LINK_UP l) 1) s

/-- Start-up goes on: step 5 begins at the end of steps 3 and 4, and the end of step 7 is noted. -/
def State.settleBoot (s : State) : State :=
  let s := if !s.boot.clocks && s.powerOk && s.clocksUp then
      (({ s with boot := { s.boot with clocks := true } }).raiseLinks).showAllReady else s
  let s := if s.boot.clocks && s.booted && !s.boot.marching then
      s.supers.foldl (fun t u => t.startMarch u) (({ s with boot := { s.boot with marching := true } }).stage 5)
    else s
  if s.boot.trainOwed.isEmpty || !s.boot.marching then s
  else
    let owed := s.boot.trainOwed.filter (fun u => s.supers.contains u && !s.trainedOnce u)
    let s := { s with boot := { s.boot with trainOwed := owed } }
    let s := if s.supers.any (fun u => s.chanState u 0 == 3 || s.chanState u 1 == 3) then s.stage 7 else s
    if owed.isEmpty then
      let d := s.drawFree
      ((d.2.putF .hive R.HIVE_READY_DRAM 1).stage 8).putF .hive R.HIVE_BOOT_BOOT_MS (Config.bootMs d.1).toNat
    else s

end Sys2Proof.Machine
end

