-- ==== Sys2Proof/Machine/Board.lean ====
section
/-!
DEFINITION. The Noticeboard (chapter 18): its timing generator, its line buffer and framebuffer, the picture that it sends,
its applies, the two outputs and the trace painter. Hive time stands for the pixel clock: the scan is where that many pixel
clocks since line 0 have brought it.
-/
namespace Sys2Proof.Machine

def State.setBoard (s : State) (f : BoardSt → BoardSt) : State := { s with board := f s.board }

/-! ### The mode and the pixel clock -/

/-- Active values that the mode consists of. -/
def State.hTotal (s : State) : Nat := s.getF .board R.BOARD_HTIM_TOTAL
def State.hActive (s : State) : Nat := s.getF .board R.BOARD_HTIM_ACTIVE
def State.vTotal (s : State) : Nat := s.getF .board R.BOARD_VTIM_TOTAL
def State.vActive (s : State) : Nat := s.getF .board R.BOARD_VTIM_ACTIVE

/-- The pixel clock: 100 MHz × N ÷ (M × P) (R597). -/
def State.pixelClock (s : State) : Freq :=
  outputOf ⟨Config.refSysHz, 1⟩
    ⟨outDiv (s.getF .board R.BOARD_VPLL_P), s.getF .board R.BOARD_VPLL_M, s.getF .board R.BOARD_VPLL_N⟩

/-- Ticks that a number of pixel clocks takes, rounded up; 32 ticks make a hive clock (R76)
(DESIGN CHOICE, log entry 128). -/
def State.pixelTicks (s : State) (n : Nat) : Nat :=
  ceilDiv (n * 32 * s.hiveClock.num * s.pixelClock.den) (s.hiveClock.den * s.pixelClock.num)

/-- Whole pixel clocks in a number of ticks. -/
def State.pixelsIn (s : State) (d : Nat) : Nat :=
  d * s.hiveClock.den * s.pixelClock.num / (32 * s.hiveClock.num * s.pixelClock.den)

/-- Bytes of a framebuffer pixel (R587), pieces of a line, and pieces of a frame. -/
def State.pixelBytes (s : State) : Nat := if s.isSet .board R.BOARD_FB_FMT_FORMAT then 2 else 4
def State.linePieces (s : State) : Nat := ceilDiv (s.hActive * s.pixelBytes) 256
def State.framePieces (s : State) : Nat := s.linePieces * s.vActive

/-- The generator runs, and no relock of R596 holds it up. -/
def State.boardRuns (s : State) : Bool := s.isSet .board R.BOARD_STATUS_RUNNING
def State.relockHolds (s : State) : Bool := s.isSet .board R.BOARD_STATUS_RELOCK

/-! ### The line buffer (R588 to R592) -/

/-- The line being scanned. -/
def State.scanLine (s : State) : Nat :=
  if s.boardRuns && !s.relockHolds then s.pixelsIn (s.hiveTime - s.board.frameAt) / max 1 s.hTotal else 0

/-- Pieces of the frame that the scan has used up by now. -/
def State.usedPieces (s : State) : Nat :=
  if s.board.background || s.board.blankAt.isSome then s.framePieces
  else
    let n := s.pixelsIn (s.hiveTime - s.board.frameAt)
    let y := n / max 1 s.hTotal
    let x := n % max 1 s.hTotal
    if s.vActive ≤ y then s.framePieces
    else y * s.linePieces + (if s.hActive ≤ x then s.linePieces else x * s.pixelBytes / 256)

/-- The pixel clock of the frame at which `n` pieces have been used up. -/
def State.pieceClock (s : State) (n : Nat) : Nat :=
  let w := max 1 s.linePieces
  if n % w = 0 ∧ n ≠ 0 then (n / w - 1) * s.hTotal + s.hActive
  else n / w * s.hTotal + ceilDiv (n % w * 256) s.pixelBytes

/-- Pieces held ahead of the scan. -/
def State.piecesAhead (s : State) : List FbPiece := s.board.pieces.filter (fun p => decide (s.usedPieces ≤ p.index))

/-- The tolerance that the line buffer states, in µs (R590). -/
def State.boardTolerance (s : State) : Nat :=
  if s.boardRuns then
    let l := 256 * s.piecesAhead.length
    let u := 1024 * s.getF .board R.BOARD_LB_URGENT_KIB
    min 0xFFFF ((l - u) * s.hTotal * s.pixelClock.den * 1000000 / (s.hActive * s.pixelBytes * s.pixelClock.num))
  else 0xFFFF

/-- BOARD_LTR, BOARD_STATUS.LINE and what the DRAM channel is told. -/
def State.showBoard (s : State) : State :=
  let n := s.boardTolerance
  let t := (s.putF .board R.BOARD_LTR_LEVEL_KIB (s.piecesAhead.length / 4)).putF .board R.BOARD_LTR_LTR_US n
  { (t.putF .board R.BOARD_STATUS_LINE s.scanLine) with nbTolerance := n }

/-- Where piece `n` of the framebuffer lies (R585): block slot, and channel, subchannel and piece there. -/
def State.fbPiece (s : State) (n : Nat) : Nat × Nat × Nat × Nat :=
  let slot := s.getF .board R.BOARD_FB_SLOT_SLOT + n / 8
  (slot, pieceAt (s.layout 0) slot (4 * (n % 8 / 2) + n % 2))

/-- The framebuffer piece at place `i` in raster order. -/
def State.rasterPiece (s : State) (i : Nat) : Nat :=
  let w := max 1 s.linePieces
  let j := i % max 1 s.framePieces
  s.getF .board R.BOARD_FB_FMT_STRIDE * (j / w) + j % w

/-- Poisoned words that reach the line buffer are counted and raised (R592). -/
def State.countPoison (s : State) : Nat → State
  | 0 => s
  | n + 1 => ((s.bump .board R.BOARD_ERR2_POISON 1).raise .board 6).countPoison n

/-- One piece is fetched through the NB port of S0 CH0; one with a write queued is served from the queue (R375). -/
def State.fetchPiece (s : State) (sub piece slot : Nat) : State :=
  let i := s.board.fetchAt
  let t := if ((s.chan 0 0).sub sub).wq.any (fun q => q.piece == piece) then s
    else (s.activate 0 0 sub 2 piece false).checkPiece 0 0 sub 2 piece []
  let bad := (List.range 32).filter (fun w => t.dramBad 0 0 sub piece w)
  let x : FbPiece := ⟨i, t.dramPiece 0 0 sub piece, bad⟩
  let t := t.setBoard (fun b => { b with
    pieces := b.pieces ++ [x], fetchAt := i + 1, mixed := b.mixed || decide (s.slotCount 0 ≤ slot) })
  t.countPoison bad.length

/-- Pieces are fetched until the buffer is full, or the port is held at a bank (R386). -/
def State.fetchPieces (s : State) : Nat → State
  | 0 => s.setBoard (fun b => { b with fetching := false })
  | n + 1 =>
    let a := s.fbPiece (s.rasterPiece s.board.fetchAt)
    let sub := a.2.2.1
    let piece := a.2.2.2
    if s.portHeld 0 0 sub 2 (bankOf (s.rankBits 0 0) piece).index then
      (s.holdPort 0 0 2).setBoard (fun b => { b with fetching := true })
    else (s.fetchPiece sub piece a.1).fetchPieces n

/-- A fetch: it starts when the level has fallen to LOW_KIB, and fills the 256 KiB (R588). -/
def State.fetchLines (s : State) : State :=
  let low := 4 * s.getF .board R.BOARD_LB_LOW_KIB
  let ahead := s.piecesAhead
  let s := if ahead.length ≤ low ∨ s.board.fetching then s else
    match ahead[ahead.length - low - 1]? with
    | none => s
    | some p => if p.index < s.framePieces then
        s.advanceTo (s.board.frameAt + s.pixelTicks (s.pieceClock (p.index + 1))) else s
  let n := s.piecesAhead.length
  if n ≤ low ∨ s.board.fetching then
    let t := s.leaveSelfRefresh 0 0
    let t := t.setChan 0 0 { t.chan 0 0 with lastRequest := t.hiveTime }
    (t.setBoard (fun b => { b with fetchAt := max b.fetchAt s.usedPieces })).fetchPieces (1024 - n)
  else s

/-! ### The picture (R587, R591 to R593, R603, R605) -/

/-- A framebuffer pixel as 24-bit RGB. -/
def pixelColour (rgb565 : Bool) (v : Nat) : Nat :=
  if rgb565 then
    let up5 := fun (x : Nat) => x * 8 + x / 4
    let g := bitsOf v 10 5
    up5 (bitsOf v 15 11) * 2 ^ 16 + (g * 4 + g / 16) * 2 ^ 8 + up5 (bitsOf v 4 0)
  else v % 2 ^ 24

/-- The framebuffer's colour of a pixel: the background where its word came poisoned or its piece is not there. -/
def State.fbColour (s : State) (x y : Nat) : Nat :=
  let bg := s.getF .board R.BOARD_BG_RGB
  let o := x * s.pixelBytes
  match s.board.pieces.find? (fun p => p.index == y * s.linePieces + o / 256) with
  | none => bg
  | some p =>
    if p.bad.contains (o % 256 / 8) then bg
    else pixelColour (s.isSet .board R.BOARD_FB_FMT_FORMAT) (ofLeBytes ((p.bytes.drop (o % 256)).take s.pixelBytes))

/-- LEN of a strip as it acts. -/
def State.stripLen (s : State) (j : Nat) : Nat := max 1 (s.getF .board (R.BOARD_STRIP_SIZE_LEN j))

/-- Strip `j` covers a pixel. -/
def State.stripCovers (s : State) (j x y : Nat) : Bool :=
  let x0 := s.getF .board (R.BOARD_STRIP_POS_X j)
  let y0 := s.getF .board (R.BOARD_STRIP_POS_Y j)
  s.isSet .board (R.BOARD_STRIP_POS_EN j) && decide (x0 ≤ x) && decide (x < x0 + s.stripLen j)
    && decide (y0 ≤ y) && decide (y ≤ y0 + s.getF .board (R.BOARD_STRIP_SIZE_HEIGHT_M1 j))

/-- The stored code of a column of a strip. -/
def State.stripCode (s : State) (j col : Nat) : Nat := sget (fun _ => 0) s.board.codes (2048 * j + col)

/-- The colour of a pixel: the topmost strip over the framebuffer, and the background where R591 and R593 have it. -/
def State.pixelShown (s : State) (x y : Nat) : Nat :=
  let bg := s.getF .board R.BOARD_BG_RGB
  if s.board.background || s.isSet .board R.BOARD_STATUS_NO_FB then bg
  else if s.board.underruns.any (fun e => e.1 == y && decide (e.2 ≤ x)) then bg
  else if s.isSet .board R.BOARD_PAINT_EN then
    match (List.range 64).find? (fun j => s.stripCovers j x y) with
    | none => s.fbColour x y
    | some j => s.getF .board (R.BOARD_PAINT_COL_RGB (s.stripCode j (x - s.getF .board (R.BOARD_STRIP_POS_X j))))
  else s.fbColour x y

/-- The bytes R, G, B of every active pixel in raster order. -/
def State.picture (s : State) : List Byte :=
  (List.range s.vActive).flatMap (fun y => (List.range s.hActive).flatMap (fun x =>
    (leBytes 3 (s.pixelShown x y)).reverse))

/-! ### The outputs (R584) -/

def State.outOf (s : State) (port : Nat) : OutSt := if port = 0 then s.board.outA else s.board.outB
def State.setOut (s : State) (port : Nat) (x : OutSt) : State :=
  s.setBoard (fun b => if port = 0 then { b with outA := x } else { b with outB := x })

def outEnable (port : Nat) : Fld := if port = 0 then R.BOARD_OUT_A_EN else R.BOARD_OUT_B_EN
def outUp (port : Nat) : Fld := if port = 0 then R.BOARD_STATUS_A_UP else R.BOARD_STATUS_B_UP
def outFailed (port : Nat) : Fld := if port = 0 then R.BOARD_STATUS_A_FAILED else R.BOARD_STATUS_B_FAILED

/-- UP and FAILED bits, BLOCK_STATUS and FAULT follow the outputs. FAILED stays until the enable goes from 0 to 1. -/
def State.showOut (s : State) (port : Nat) : State :=
  let st := (s.outOf port).stage
  let t := s.putF .board (outUp port) (flag (st == .up))
  let t := if st == .failed then t.putF .board (outFailed port) 1
    else if st == .off then t else t.putF .board (outFailed port) 0
  let bad := fun (i : Nat) => t.isSet .board (outEnable i) && t.isSet .board (outFailed i)
  (t.putF .board (blockBit (16 + port)) (flag (st == .up))).putF .board R.PAGE_STATUS_FAULT (flag (bad 0 || bad 1))

/-- An apply has changed an output's enable. -/
def State.settleOut (s : State) (port : Nat) (was : Bool) : State :=
  let now := s.isSet .board (outEnable port)
  if now && !was then (s.setOut port ⟨.training, 0, 0⟩).showOut port
  else if was && !now then (s.setOut port .reset).showOut port
  else s

/-! ### Frames (R594 to R602) -/

/-- Line 0 of a frame begins (DEDUCED, log entry 129). -/
def State.beginFrame (s : State) (background : Bool) : State :=
  let n := s.framePieces
  let fresh := s.board.refetch || background
  let t := s.setBoard (fun b => { b with
    frameAt := s.hiveTime, blankAt := none, background := background, mixed := false, underruns := [], sent := none
    teCame := false, painted := false, refetch := false, fetching := b.fetching && !fresh
    pieces := if fresh then [] else
      (b.pieces.filter (fun p => decide (n ≤ p.index))).map (fun p => { p with index := p.index - n })
    fetchAt := if background then n else if fresh then 0 else b.fetchAt - n })
  let t := t.putF .board R.BOARD_FRAME_VALUE (t.getF .board R.BOARD_FRAME_VALUE + 1)
  let t := if t.board.appliedOwed && !background then
      ((t.setBoard (fun b => { b with appliedOwed := false })).putF .board R.BOARD_APPLIED_VALUE
        (t.getF .board R.BOARD_FRAME_VALUE)).raise .board 0
    else t
  t.showBoard

/-- The generator runs while the page is enabled and an output is (R598). -/
def State.settleGenerator (s : State) : State :=
  let want := s.enabled .board && (s.isSet .board R.BOARD_OUT_A_EN || s.isSet .board R.BOARD_OUT_B_EN)
  let t := if want == s.boardRuns then s
    else if want then
      let t := s.putF .board R.BOARD_STATUS_RUNNING 1
      let t := t.setBoard (fun b => { b with lastCrc := none, same := 0 })
      if t.relockHolds then t else t.beginFrame true
    else
      (((s.putF .board R.BOARD_STATUS_RUNNING 0).putF .board R.BOARD_STATUS_LOWERED 0).setBoard (fun b => { b with
        pieces := [], fetching := false, sent := none, same := 0, lastCrc := none })).showBoard
  t.settleNoFb

/-- The VPLL has locked: the relock of R596 is over, and the generator starts with a background frame. -/
def State.boardLock (s : State) (p : Page) : State :=
  if p == .pll 3 && s.relockHolds then
    let t := s.putF .board R.BOARD_STATUS_RELOCK 0
    if t.boardRuns then t.beginFrame true else t
  else s

/-- Lowering ends (R600). -/
def State.endLowering (s : State) : State :=
  (s.putF .board R.BOARD_STATUS_LOWERED 0).setBoard (fun b => { b with same := 0 })

/-- The shadow breaks a condition of R597. -/
def State.boardRefused (s : State) : Bool :=
  let g := fun f => s.getShadowF .board f
  let h := g R.BOARD_HTIM_ACTIVE
  let v := g R.BOARD_VTIM_ACTIVE
  let d : Div := ⟨outDiv (g R.BOARD_VPLL_P), g R.BOARD_VPLL_M, g R.BOARD_VPLL_N⟩
  let rate := match g R.BOARD_OUT_RATE with | 1 => 1620 | 2 => 2700 | _ => 5400
  let lanes := 1 + g R.BOARD_OUT_LANES
  let bytes := if g R.BOARD_FB_FMT_FORMAT = 1 then 2 else 4
  !(decide (16 ≤ h) && decide (h ≤ 1920) && decide (16 ≤ v) && decide (v ≤ 1200)
    && decide (h + g R.BOARD_HSYNC_START + g R.BOARD_HSYNC_WIDTH + 1 ≤ g R.BOARD_HTIM_TOTAL)
    && decide (v + g R.BOARD_VSYNC_START + g R.BOARD_VSYNC_WIDTH + 1 ≤ g R.BOARD_VTIM_TOTAL)
    && g R.BOARD_HSYNC_WIDTH != 0 && g R.BOARD_VSYNC_WIDTH != 0
    && divAllowed ⟨Config.refSysHz, 1⟩ d && decide (100 * d.n ≤ 300 * d.m * d.p)
    && decide (2400000 * d.n ≤ 776 * lanes * rate * d.m * d.p)
    && g R.BOARD_OUT_RATE != 0 && decide (h * bytes ≤ 256 * g R.BOARD_FB_FMT_STRIDE)
    && decide (g R.BOARD_LB_URGENT_KIB < g R.BOARD_LB_LOW_KIB))

/-- The registers whose change means that framebuffer data is fetched afresh (R595). -/
def State.fbWords (s : State) : List Word :=
  [s.word (pageBase .board + 0x118), s.word (pageBase .board + 0x11C), BitVec.ofNat 32 s.hActive, BitVec.ofNat 32 s.vActive]

/-- The BOARD page is applied, or its apply refused (R595 to R597). -/
def State.applyBoard (s : State) : State :=
  if s.boardRefused then
    ((s.clearCommit .board).putF .board R.BOARD_FLAGS_SET_REFUSED 1).raise .board 7
  else
    let t := ((s.copyToActive shadowMask .board).countApply .board).clearCommit .board
    let t := t.setBoard (fun b => { b with
      appliedOwed := true, refetch := b.refetch || t.fbWords != s.fbWords })
    let v := pageBase .board + 0x114
    let t := if t.word v = s.word v then t
      else
        let j := bypassShift ⟨Config.refSysHz, 1⟩ s.pixelClock t.pixelClock
        ((t.setWord (pageBase (.pll 3) + R.PLL_DIV_N.off) (t.word v)).putF .board R.BOARD_STATUS_RELOCK 1).startRelock
          (.pll 3) j
    let t := (t.settleOut 0 (s.isSet .board R.BOARD_OUT_A_EN)).settleOut 1 (s.isSet .board R.BOARD_OUT_B_EN)
    t.settleGenerator

/-- A COMMIT of the BOARD page waits for its apply instant (R594), and ends lowering (R600). -/
def State.commitBoard (s : State) : State :=
  let t := (s.putF .board R.COMMIT_COMMIT 1).putF .board R.SHADOW_STATUS_COMMIT_WAIT 1
  (t.setBoard (fun b => { b with commitAt := s.hiveTime })).endLowering

/-- The active lines of the frame are over: its CRC is known, and the apply instant has come. A COMMIT that took effect 64
pixel clocks before it applies (R594, R603). -/
def State.endActive (s : State) : State :=
  if s.boardRuns && !s.relockHolds && s.board.blankAt.isNone then
    let now := s.board.frameAt + s.pixelTicks (s.vActive * s.hTotal)
    let s := s.advanceTo now
    let free := s.board.mixed || s.board.painted
    let d := s.drawFree
    let crc := if free then (Config.pictureCrc d.1).toNat else crc32c s.picture
    let t := if free then d.2 else s
    let t := t.setBoard (fun b => { b with blankAt := some now, sent := some crc })
    let t := t.showBoard
    if t.isSet .board R.COMMIT_COMMIT && decide (t.board.commitAt ≤ now)
        && decide (64 ≤ t.pixelsIn (now - t.board.commitAt)) then t.applyBoard
    else t
  else s

/-- Lines that stretching adds (R599). -/
def State.stretchLines (s : State) : Nat :=
  let hz := max 1 (s.getF .board R.BOARD_REFRESH_FLOOR_HZ)
  let lines := ceilDiv s.pixelClock.num (s.pixelClock.den * s.hTotal * hz)
  min 65535 lines - s.vTotal

/-- Hive times at which the blanking that began at `b` ends, unstretched and as it stands. -/
def State.blankEnd (s : State) (b : Nat) : Nat := b + s.pixelTicks ((s.vTotal - s.vActive) * s.hTotal)
def State.stretchedEnd (s : State) (b : Nat) : Nat :=
  if s.isSet .board R.BOARD_STATUS_LOWERED || s.isSet .board R.BOARD_STATUS_FLOOR then
    b + s.pixelTicks ((s.vTotal - s.vActive + s.stretchLines) * s.hTotal)
  else s.blankEnd b

/-- Frames wait for an edge on a TE input (R602). -/
def State.teUsed (s : State) : Bool :=
  s.getF .board R.BOARD_TE_SEL == 1 || s.getF .board R.BOARD_TE_SEL == 2

/-- The generator waits under R602. -/
def State.teWaits (s : State) : Bool :=
  match s.board.blankAt with
  | none => false
  | some b => s.boardRuns && s.teUsed && !s.board.teCame && decide (s.stretchedEnd b ≤ s.hiveTime)

/-- The first line boundary at or after a time, in the blanking that began at `b`. -/
def State.lineUp (s : State) (b t : Nat) : Nat :=
  b + s.pixelTicks (ceilDiv (s.pixelsIn (t - b)) (max 1 s.hTotal) * s.hTotal)

/-! ### The painter (R605, R606) -/

/-- The code of a global cell for interval `k` (DEDUCED, log entry 131). -/
def State.paintCode (s : State) (cell k : Nat) : Nat :=
  let u := cell / 256
  let f := cell / 32 % 8
  if s.enabled (.frame u f) then
    match (s.frame u f).paint.find? (fun a => a.interval == k) with
    | none => 3
    | some a =>
      if bitOf a.absent (cell % 32) then 3
      else if bitOf a.edge (cell % 32) then 2
      else flag (bitOf a.value (cell % 32))
  else 3

/-- Every strip takes its column for interval `k`. A stored code that changes ends lowering. -/
def State.paintColumn (s : State) (k : Nat) : State :=
  (List.range 64).foldl (fun t j =>
    if t.isSet .board (R.BOARD_STRIP_POS_EN j) then
      let col := k % t.stripLen j
      let code := t.paintCode (t.getF .board (R.BOARD_STRIP_CELL_CELL j)) k
      if t.stripCode j col = code then t
      else
        (t.setBoard (fun b => { b with
          codes := sput (fun _ => 0) b.codes (2048 * j + col) code
          painted := b.painted || b.blankAt.isNone })).endLowering
    else t) s

/-- A BAR2 write reached the framebuffer: block slots of S0 from BOARD_FB_SLOT up to that of the last line (R585, R600). -/
def State.inFramebuffer (s : State) (slot : Nat) : Bool :=
  let a := s.getF .board R.BOARD_FB_SLOT_SLOT
  let n := s.getF .board R.BOARD_FB_FMT_STRIDE * s.vActive
  decide (a ≤ slot) && decide (slot < a + ceilDiv n 8)

end Sys2Proof.Machine
end

