-- ==== Sys2Proof/Machine/BoardCmds.lean ====
section
/-!
DEFINITION. The steps of the Noticeboard (chapter 18). On a part without one nothing happens (R7, R9).
-/
namespace Sys2Proof.Machine

/-- A command on the Noticeboard; BOARD_LTR, LINE and the tolerance stated follow. -/
def State.onBoard (s : State) (t : State) : Host.Outcome State Fault Refusal := s.on .board t.showBoard

/-! ### Frames -/

/-- BOARD_APPLY: the apply instant of the frame; while the generator is stopped a COMMIT applies at once (R594, R598). -/
def execBoardApply (s : State) : Host.Outcome State Fault Refusal :=
  s.onBoard (
    if s.boardRuns then s.endActive
    else if s.isSet .board R.COMMIT_COMMIT then s.applyBoard else s)

/-- FRAME_START: line 0 of the next frame, when the blanking is over and, under R602, the TE edge has come
(DEDUCED, log entry 132). -/
def execFrameStart (s : State) : Host.Outcome State Fault Refusal :=
  s.onBoard (
    match s.board.blankAt with
    | none => s
    | some b =>
      if s.boardRuns ∧ ¬ s.relockHolds ∧ s.board.sent.isNone ∧ (¬ s.teUsed ∨ s.board.teCame) then
        let t := if s.hiveTime ≤ s.stretchedEnd b then s.advanceTo (s.stretchedEnd b)
          else s.advanceTo (s.lineUp b s.hiveTime)
        t.beginFrame false
      else s)

/-- FRAME_CRC with the CRCs read back from the pads of the two outputs (R599, R603, R604). -/
def execFrameCrc (readA readB : Nat) (s : State) : Host.Outcome State Fault Refusal :=
  s.onBoard (
    let t := s.endActive
    match t.board.sent with
    | none => t
    | some c =>
      let upA := t.isSet .board R.BOARD_STATUS_A_UP
      let upB := t.isSet .board R.BOARD_STATUS_B_UP
      let t := t.putF .board R.BOARD_CRC_PRE_VALUE c
      let t := if upA then t.putF .board R.BOARD_CRC_A_VALUE readA else t
      let t := if upB then t.putF .board R.BOARD_CRC_B_VALUE readB else t
      let bad := (upA && readA % 2 ^ 32 != c) || (upB && readB % 2 ^ 32 != c)
      let t := if bad then (t.bump .board R.BOARD_ERR_CRC_BAD 1).raise .board 2 else t
      let wrong := t.isSet .board R.BOARD_CRC_CTRL_EXPECT_EN && t.getF .board R.BOARD_CRC_EXPECT_CRC != c
      let t := if wrong then (t.bump .board R.BOARD_ERR2_EXPECT_BAD 1).raise .board 3 else t
      t.setBoard (fun b => { b with
        sent := none, lastCrc := some c, same := if b.lastCrc == some c then b.same + 1 else 0 }))

/-- LOWERED: N_FRAMES frames in a row have been unchanged (R599). -/
def execLowered (s : State) : Host.Outcome State Fault Refusal :=
  s.onBoard (
    if s.boardRuns ∧ s.isSet .board R.BOARD_REFRESH_LOWER_EN
        ∧ max 1 (s.getF .board R.BOARD_REFRESH_N_FRAMES) ≤ s.board.same then
      s.putF .board R.BOARD_STATUS_LOWERED 1
    else s)

/-- TE: an edge on TE_A (0) or TE_B (1) at a tick. One before the unstretched blanking has ended is ignored (R602). -/
def execTe (input : Nat) (rising : Bool) (tick : Nat) (s : State) : Host.Outcome State Fault Refusal :=
  s.onBoard (
    let t := s.advanceTo tick
    match t.board.blankAt with
    | none => t
    | some b =>
      if t.boardRuns ∧ t.getF .board R.BOARD_TE_SEL = input + 1 ∧ input < 2
          ∧ t.isSet .board R.BOARD_TE_EDGE ≠ rising ∧ t.blankEnd b ≤ tick then
        t.setBoard (fun x => { x with teCame := true })
      else t)

/-- TE_MISS: TIMEOUT_MS after the end of the blanking as stretched no edge has come (R602). -/
def execTeMiss (s : State) : Host.Outcome State Fault Refusal :=
  s.onBoard (
    match s.board.blankAt with
    | none => s
    | some b =>
      if s.boardRuns ∧ s.teUsed ∧ ¬ s.board.teCame then
        let ms := max 1 (s.getF .board R.BOARD_TE_TIMEOUT_MS)
        let t := s.advanceTo (s.stretchedEnd b + ms * 1000 * ticksPerUs)
        ((t.setBoard (fun x => { x with teCame := true })).bump .board R.BOARD_ERR_TE_MISS 1).raise .board 5
      else s)

/-! ### The line buffer -/

/-- LINE_BUFFER_FETCH (R588, R593). -/
def execLineBufferFetch (s : State) : Host.Outcome State Fault Refusal :=
  s.onBoard (if s.boardRuns && !s.relockHolds && s.chanUsable 0 0 then s.fetchLines else s)

/-- UNDERRUN: the scan of `line` lacks pixel `pixel` (R591). -/
def execUnderrun (line pixel : Nat) (s : State) : Host.Outcome State Fault Refusal :=
  s.onBoard (
    let w := s.linePieces
    let i := line * w + pixel * s.pixelBytes / 256
    if s.boardRuns ∧ ¬ s.relockHolds ∧ ¬ s.board.background ∧ ¬ s.isSet .board R.BOARD_STATUS_NO_FB
        ∧ s.board.blankAt.isNone ∧ line < s.vActive ∧ pixel < s.hActive
        ∧ ¬ s.board.pieces.any (fun p => p.index == i) ∧ ¬ s.board.underruns.any (fun e => e.1 == line) then
      let t := s.advanceTo (s.board.frameAt + s.pixelTicks (line * s.hTotal + pixel))
      let t := t.setBoard (fun b => { b with
        underruns := b.underruns ++ [(line, pixel)]
        pieces := b.pieces.filter (fun p => decide (p.index < i) || decide ((line + 1) * w ≤ p.index))
        fetchAt := max b.fetchAt ((line + 1) * w) })
      (t.bump .board R.BOARD_ERR_UNDERRUN 1).raise .board 1
    else s)

/-! ### Outputs and AUX -/

/-- EDP_TRAINING_DONE of an output: up, or a failed try, of which the third leaves it FAILED (R584). -/
def execEdpTrainingDone (port : Nat) (good : Bool) (s : State) : Host.Outcome State Fault Refusal :=
  s.onBoard (
    let x := s.outOf port
    if port < 2 ∧ x.stage = .training then
      let later := s.hiveTime + 100000 * ticksPerUs
      if good then (s.setOut port ⟨.up, 0, later⟩).showOut port
      else if x.tries < 2 then s.setOut port ⟨.waiting, x.tries + 1, later⟩
      else ((s.setOut port ⟨.failed, 0, 0⟩).showOut port).raise .board 4
    else s)

/-- EDP_TRAIN_RETRY: 100 ms after a failed training. -/
def execEdpTrainRetry (port : Nat) (s : State) : Host.Outcome State Fault Refusal :=
  s.onBoard (
    let x := s.outOf port
    if port < 2 ∧ x.stage = .waiting then (s.advanceTo x.due).setOut port { x with stage := .training } else s)

/-- LANE_STATUS_POLL of an output that is up: a reported loss makes it retrain (DEDUCED, log entry 130). -/
def execLaneStatusPoll (port : Nat) (lost : Bool) (s : State) : Host.Outcome State Fault Refusal :=
  s.onBoard (
    let x := s.outOf port
    if port < 2 ∧ x.stage = .up then
      let t := s.advanceTo x.due
      if lost then
        (((t.setOut port ⟨.training, 0, 0⟩).showOut port).bump .board R.BOARD_ERR2_RETRAIN 1).raise .board 4
      else t.setOut port { x with due := t.hiveTime + 100000 * ticksPerUs }
    else s)

/-- Bytes of BOARD_AUX_DATA. -/
def State.auxBytes (s : State) : List Byte :=
  (List.range 4).flatMap (fun w => leBytes 4 (s.getF .board (R.BOARD_AUX_DATA_DATA w)))

/-- A write of 1 to BOARD_AUX_CTRL.GO: a transaction starts, for a write with its bytes. -/
def State.auxGo (s : State) : State :=
  if s.isSet .board R.BOARD_AUX_CTRL_BUSY then s
  else
    let kind := s.getF .board R.BOARD_AUX_CTRL_KIND
    let n := s.getF .board R.BOARD_AUX_CTRL_LEN_M1 + 1
    (s.putF .board R.BOARD_AUX_CTRL_BUSY 1).emit (.aux (s.getF .board R.BOARD_AUX_CTRL_PORT) kind
      (s.getF .board R.BOARD_AUX_CTRL_ADDR) (if kind % 2 = 0 then s.auxBytes.take n else []))

/-- AUX_GO: a write of BOARD_AUX_CTRL with GO at 1. -/
def execAuxGo (port kind lenM1 addr : Nat) (s : State) : Host.Outcome State Fault Refusal :=
  s.onBoard (
    let t := (s.putF .board R.BOARD_AUX_CTRL_PORT port).putF .board R.BOARD_AUX_CTRL_KIND kind
    ((t.putF .board R.BOARD_AUX_CTRL_LEN_M1 lenM1).putF .board R.BOARD_AUX_CTRL_ADDR addr).auxGo)

/-- AUX_DONE with RESULT 1 ACK, 2 NACK or DEFER exhausted, 3 timeout, and for a read that is acknowledged its bytes. -/
def execAuxDone (result : Nat) (bytes : List Byte) (s : State) : Host.Outcome State Fault Refusal :=
  s.onBoard (
    if s.isSet .board R.BOARD_AUX_CTRL_BUSY ∧ 1 ≤ result ∧ result ≤ 3 then
      let t := (s.putF .board R.BOARD_AUX_CTRL_BUSY 0).putF .board R.BOARD_AUX_CTRL_RESULT result
      if result = 1 ∧ s.getF .board R.BOARD_AUX_CTRL_KIND % 2 = 1 then
        let n := s.getF .board R.BOARD_AUX_CTRL_LEN_M1 + 1
        let l := padTo n 0 bytes ++ s.auxBytes.drop n
        (List.range 4).foldl (fun t w => t.putF .board (R.BOARD_AUX_DATA_DATA w) (ofLeBytes ((l.drop (4 * w)).take 4))) t
      else t
    else s)

/-! ### The painter -/

/-- PAINTER_COLUMN for interval `k`, once its last slot has reached the frames. While the background pause is in force no
column begins (R606). -/
def execPainterColumn (k : Nat) (s : State) : Host.Outcome State Fault Refusal :=
  s.onBoard (
    if s.painting then
      let n := 2 ^ s.decim
      let t := s.advanceTo (32 * ((k + 1) * n / 4 + 4))
      let t := (t.supers.foldl (fun t u => t.catchUpAll u) t).settleSeqs
      if t.bgPaused ∧ t.reeve.pausedAt ≤ 8 * k * n then t else t.paintColumn k
    else s)

end Sys2Proof.Machine
end

