-- ==== Sys2Proof/Machine/Events.lean ====
section
/-!
DEFINITION. The event queue and the event ring (chapter 15): the record's bytes, what enters the queue and what is lost,
and the writes to the ring in host memory.
-/
namespace Sys2Proof.Machine

/-- SOURCE_WORD (R500). -/
def sourceWord (r : EvRec) : Nat := 0x8000 ||| flag r.coalesced * 0x1000 ||| flag r.forced * 0x800 ||| r.source

/-- The two queue words of an event record with its tally (R342, R500). -/
def eventWords (r : EvRec) (tally : Nat) : List Nat :=
  let n := ofLeBytes (leBytes 4 tally ++ leBytes 8 r.time ++ leBytes 2 (sourceWord r) ++ leBytes 2 r.detail)
  [n % 2 ^ 64, n / 2 ^ 64]

/-- Entries free in the event queue. -/
def State.eventRoom (s : State) : Nat := usableWords (.hive 1) / 2 - (s.queue (.hive 1)).entries.length

/-- The size N of the event ring. -/
def State.eventRing (s : State) : Nat := 2 ^ s.getF .events R.EVENTS_RING_SIZE_LOG2

/-- The tally of a queued event record. -/
def entryTally (e : QueueEntry) : Nat := (e.words.headD 0) % 2 ^ 32

/-- The oldest queued record has a place in the ring (R507). -/
def State.eventFits (s : State) : Bool :=
  match (s.queue (.hive 1)).entries with
  | [] => false
  | e :: _ => decide ((entryTally e + 2 ^ 32 - s.getF .events R.EVENTS_FREED_TALLY) % 2 ^ 32 ≤ s.eventRing)

/-- Source 45 is raised once for each run of waiting for ring space (R507); a run lasts until no record waits. -/
def State.settleWait (s : State) : State :=
  if (s.queue (.hive 1)).entries.isEmpty then { s with ev := { s.ev with waitTold := false } }
  else if s.isSet .events R.EVENTS_RING_CTRL_EN && !s.eventFits && !s.ev.waitTold then
    { s with ev := { s.ev with waitTold := true } }.raise .events 0
  else s

/-- A record enters the event queue and takes the next tally (R501). -/
def State.queueEvent (s : State) (r : EvRec) : State :=
  let tally := (s.getF .host R.HOST_EVT_PRODUCED_SEQ + 1) % 2 ^ 32
  let q := s.push (.hive 1) (eventWords r tally) true
  if q.1 then (q.2.putF .host R.HOST_EVT_PRODUCED_SEQ tally).settleWait else q.2

/-- The oldest record of an origin reaches the queue: it enters, is dropped and counted when fewer than two entries are
free (R508), or is let go while the EVENTS page is disabled (R510). -/
def State.enqueueEvent (s : State) (origin : Nat) : State :=
  match s.ev.flight.find? (fun r => sourceOrigin r.source == origin) with
  | none => s
  | some r =>
    let t := { s with ev := { s.ev with flight := s.ev.flight.erase r } }
    if !s.enabled .events then t
    else if 2 ≤ s.eventRoom then t.queueEvent r
    else
      let d := match s.ev.dropped with
        | none => (1, r.time)
        | some e => (e.1 + 1, e.2)
      { t with ev := { t.ev with dropped := some d } }.bump .events R.EVENTS_LOST_COUNT 1

/-- After drops, source 46 reports how many records were lost once an entry is free (R508) and the EVENTS page is enabled
(R510) (DEDUCED, log entry 139). -/
def State.reportLost (s : State) : State :=
  match s.ev.dropped with
  | none => s
  | some (n, time) =>
    if s.eventRoom = 0 ∨ !s.enabled .events then s
    else
      let t := { s with ev := { s.ev with dropped := none } }
      let t := (t.setBitF .events R.EV_STICKY 1).bump .events (R.EV_COUNT 1) 1
      if bitOf (t.getF .events R.EV_ENABLE) 1 then
        if t.isSet .events (R.EVENTS_GROUP_RECORD 1) then t.queueEvent ⟨time, 46, false, false, min n 0xFFFF⟩
        else (t.causeReady 1).serveVectors
      else t

/-- A record popped from the event queue is written to its place in the ring; `bad` says that a word of it is poisoned. -/
def State.writeRecord (s : State) (e : QueueEntry) (bad : Bool) : State :=
  let tally := entryTally e
  let base := s.getPair .events R.EVENTS_RING_BASE_LO_BASE R.EVENTS_RING_BASE_HI_BASE / 4096 * 4096
  let t := s.emit (.hostWrite (base + 16 * (tally % s.eventRing)) (e.words.flatMap (leBytes 8)) bad)
  let t := t.putF .events R.EVENTS_WRITTEN_TALLY tally
  match groupOf (bitsOf (e.words.getD 1 0) 42 32) with
  | none => t
  | some g => (t.causeReady g).serveVectors

/-- The oldest queued record is written to the ring when it has a place there, and its cause becomes ready (R507,
R512). -/
def State.writeEvent (s : State) (corrected uncorrectable : Nat) : State :=
  if s.isSet .events R.EVENTS_RING_CTRL_EN && s.busMaster && s.eventFits then
    let r := s.pop (.hive 1) corrected uncorrectable
    match r.1 with
    | none => r.2
    | some (e, bad) => (r.2.writeRecord e (bad != 0)).settleWait
  else s.settleWait

/-- Setting EN is refused for a size outside 6 to 16 and while no host interface version is active (R506). -/
def State.enableEvents (s : State) : State :=
  let n := s.getF .events R.EVENTS_RING_SIZE_LOG2
  if decide (6 ≤ n) && decide (n ≤ 16) && s.getF .host R.HOST_HIF_ACTIVE_MAJOR != 0 then
    (s.putF .events R.EVENTS_RING_CTRL_EN 1).settleWait
  else s.putF .events R.EVENTS_RING_CTRL_EN_REFUSED 1

/-- Clearing EN stops ring writes (R509). -/
def State.disableEvents (s : State) : State := s.putF .events R.EVENTS_RING_CTRL_EN 0

/-- What a function-level reset, a host link loss and a hot reset do to the event ring (R509). -/
def State.dropEventRing (s : State) : State :=
  (s.disableEvents.clearRegs .events 0x100 0x10C).putF .events R.EVENTS_FREED_TALLY 0

/-- The event queue is emptied and both tallies are 0 (R509): PERST_N and a page reset of the EVENTS page. -/
def State.emptyEvents (s : State) : State :=
  let t := (s.emptyQueue (.hive 1)).putF .host R.HOST_EVT_PRODUCED_SEQ 0
  let t := t.putF .events R.EVENTS_WRITTEN_TALLY 0
  { t with ev := { t.ev with flight := [], waitTold := false, dropped := none } }

/-- A page's sources forget their hold-offs (R514). -/
def State.forgetSources (s : State) (p : Page) : State :=
  let mine := fun n => match sourceOf n with | none => false | some a => a.page == p
  { s with ev := { s.ev with
      lastRec := s.ev.lastRec.filter (fun e => !mine e.1), unrec := s.ev.unrec.filter (fun e => !mine e.1) } }

end Sys2Proof.Machine
end

