-- ==== Sys2Proof/Machine/QueueCmds.lean ====
section
/-!
DEFINITION. The steps of the queues (chapter 10): a push, a pop, and the DRAM writer's pop of a whole block.
-/
namespace Sys2Proof.Machine

/-! ### QUEUE_PUSH (R339, R348, R662) -/

/-- Word `i` of a block, as a number. -/
def OutBlock.word (b : OutBlock) (i : Nat) : Nat := ofLeBytes (((blockBytes b).drop (8 * i)).take 8)

/-- The frame stream of a block counts it in FRAME_STORE_BLOCKS. -/
def State.countBlock (s : State) (u stream : Nat) : State :=
  if 0x1000 ≤ stream ∧ stream < 0x2000 then s.bump (.frame u (stream % 8)) R.FRAME_STORE_BLOCKS_COUNT 1 else s

/-- The next entry of the block at the head of those that wait is pushed into the super queue; a refused one is kept by
its producer. -/
def State.pushBlock (s : State) (u : Nat) : State :=
  let x := s.store u
  match x.out with
  | [] => s
  | b :: rest =>
    let r := s.push (.super u 0) ((List.range 8).map (fun i => b.word (8 * x.pushed + i))) (x.pushed == 63)
    let t := if !r.1 then r.2
      else if x.pushed = 63 then
        (r.2.setStore u { x with out := rest, pushed := 0, queued := x.queued ++ [b] }).countBlock u b.stream
      else r.2.setStore u { x with pushed := x.pushed + 1 }
    t.settlePanic u

/-- The stream whose data passes through a queue that does not keep refused data. -/
def queueStream : QueueId → Option StreamId
  | .super u 1 => some (.scout u)
  | .super u i => if 2 ≤ i then some (.frame u (i - 2)) else none
  | .hive _ => none

/-- The newest entry of the queue ended its packet, or there is none: the next push begins a packet. -/
def QueueSt.atStart (x : QueueSt) : Bool := match x.entries.getLast? with | none => true | some e => e.last

/-- An entry is pushed by a producer that begins a packet only with room for the whole of it: `left` words follow the
entry in its packet, which holds beat `beat` (R662). -/
def State.pushPacket (s : State) (q : QueueId) (words : List Nat) (left beat : Nat) : State :=
  match queueStream q with
  | none => (s.push q words (left == 0)).2
  | some i =>
    if (s.queue q).atStart && decide (usableWords q < s.queueDepth q + words.length + left) then
      (s.refusePush q).holeBegin i (32 * beat) false
    else (s.push q words (left == 0)).2

/-- QUEUE_PUSH. The words of the super queue are those of the block that waits, and those of the event queue those of the
oldest record of S0 and the hive; other queues take the words given. -/
def execQueuePush (q : QueueId) (words : List DWord) (left beat : Nat) (s : State) :
    Host.Outcome State Fault Refusal :=
  s.on (queuePage q) (match q with
    | .super u 0 => s.pushBlock u
    | .hive 1 => s.enqueueEvent 8
    | _ => if words.length = entryWords q then s.pushPacket q (words.map BitVec.toNat) left beat else s)

/-! ### DRAM_WRITER_POP (R366, R367) -/

/-- Subchannels of a super, by channel and subchannel, in a layout. -/
def layoutSubs (layout : Nat) : List (Nat × Nat) :=
  if layout = 3 then [(0, 0), (0, 1), (1, 0), (1, 1)]
  else if layout = 0 then [] else [(layout - 1, 0), (layout - 1, 1)]

/-- Free entries that a block needs in each write queue: 4 in the layout of R299, 8 in that of R415. -/
def roomNeeded (layout : Nat) : Nat := if layout = 3 then 4 else 8

/-- A whole block stands in the super queue, and every write queue has room for its pieces. -/
def State.writerReady (s : State) (u : Nat) : Bool :=
  let x := s.store u
  x.layout != 0 && !x.switchOwed && !x.queued.isEmpty
    && (layoutSubs x.layout).all (fun c => decide (roomNeeded x.layout ≤ s.writeRoom u c.1 c.2))

/-- The DRAM writer pops the next entry of the block at the head of the super queue; answers nothing new once it holds all
64. -/
def State.popEntry (s : State) (u corrected uncorrectable : Nat) : State :=
  let i := (s.store u).popped
  if 64 ≤ i then s
  else
    let r := s.pop (.super u 0) (corrected % 256) (uncorrectable % 256)
    match r.1 with
    | none => r.2
    | some (_, bad) =>
      let x := r.2.store u
      r.2.setStore u { x with popped := i + 1, popBad := x.popBad ++ (bitsSet 8 bad).map (8 * i + ·) }

/-- The entries of the block that are still in the super queue leave it; the masks name words of the block. -/
def State.popBlock (s : State) (u corrected uncorrectable : Nat) : State :=
  (List.range 64).foldl (fun t i =>
    if i < (s.store u).popped then t
    else t.popEntry u (corrected / 2 ^ (8 * i)) (uncorrectable / 2 ^ (8 * i))) s

/-- The 16 pieces of a block enter the write queues of the RT port. -/
def State.placeBlock (s : State) (u slot : Nat) (bytes : List Byte) (poison : List Nat) : State :=
  (List.range 16).foldl (fun t p =>
    let a := pieceAt (s.layout u) slot p
    t.enterWrite u a.1 a.2.1 ⟨0, a.2.2, 0, (bytes.drop (256 * p)).take 256,
      (poison.filter (fun w => decide (32 * p ≤ w) && decide (w < 32 * p + 32))).map (fun w => w - 32 * p)⟩) s

/-- A block of an earlier take that was given up on its way to the DRAM (R267): it takes no block slot. -/
def OutBlock.givenUp (b : OutBlock) : Bool := b.segment == 65536

/-- The block slot has been written since the latest switch of layout (R485). -/
def StoreSt.freshen (x : StoreSt) (slot : Nat) : StoreSt :=
  { x with fresh := x.fresh.map (fun l => if l.contains slot then l else l ++ [slot]) }

/-- DRAM_WRITER_POP. The masks name the words of the block in which the pop meets an error. -/
def execDramWriterPop (u : Nat) (corrected uncorrectable : Nat) (s : State) : Host.Outcome State Fault Refusal :=
  s.on (.dram u 0) (
    if s.writerReady u then
      match (s.store u).queued with
      | [] => s
      | b :: rest =>
        let t := s.popBlock u corrected uncorrectable
        let bad := (t.store u).popBad
        let t := t.setStore u { t.store u with queued := rest, popped := 0, popBad := [] }
        if b.givenUp then t.settlePanic u else
        let w := t.takeSlot u b.segment b.first b.stop
        let t := w.2.noteTorn u w.1
        let d := t.upsetBytes (blockBytes b) (bad ++ b.poison)
        let t := d.2.placeBlock u w.1 d.1 (bad ++ b.poison)
        ((t.setStore u ((t.store u).freshen w.1)).settlePanic u)
    else s)

/-! ### QUEUE_POP (R339, R341) -/

/-- QUEUE_POP. The masks name the words of the entry in which the pop meets an error. The DRAM writer pops an entry of the
super queue only while the write queues have room for its block (R366); the event queue is popped by a write to the event
ring. -/
def execQueuePop (q : QueueId) (corrected uncorrectable : Nat) (s : State) : Host.Outcome State Fault Refusal :=
  s.on (queuePage q) (
    if (s.queue q).entries.isEmpty then
      let t := (s.pop q 0 0).2
      match q with
      | .super u 0 => t.settlePanic u
      | _ => t
    else match q with
    | .super u 0 => if s.writerReady u then (s.popEntry u corrected uncorrectable).settlePanic u else s
    | .hive 1 => s.writeEvent corrected uncorrectable
    | _ => (s.pop q corrected uncorrectable).2)

end Sys2Proof.Machine
end

