-- ==== Sys2Proof/Machine/DramCmds.lean ====
section
/-!
DEFINITION. The steps of the DRAM channels (chapters 11 and 12).
-/
namespace Sys2Proof.Machine

/-! ### Accesses and activates -/

/-- DRAM_ACCESS. A piece of a subchannel is written from the write queue, or read for a port. `flaws` are the words in
which the read finds an error, with the bit in error or 72 and above for an uncorrectable word; `strobe` counts the tries
of the read that met no data strobe (DESIGN CHOICE, log entry 85; DESIGN CHOICE, log entry 134). -/
def execDramAccess (u k sub : Nat) (write : Bool) (port piece : Nat) (flaws : List (Nat × Nat)) (strobe : Nat)
    (s : State) : Host.Outcome State Fault Refusal :=
  s.on (.dram u k) (
    if s.chanIssues u k then
      if write then s.accessWrite u k (sub % 2) piece else s.accessRead u k (sub % 2) port piece flaws strobe
    else s)

/-- PORT_HELD. A request of a port meets a bank in which the port has reached MAX. -/
def execPortHeld (u k sub port bank : Nat) (s : State) : Host.Outcome State Fault Refusal :=
  s.on (.dram u k) (if s.portHeld u k (sub % 2) port bank then s.holdPort u k port else s)

/-- WIN_US in ticks; 0 acts as 1. -/
def State.actWindow (s : State) (u k : Nat) : Nat := max 1 (s.getF (.dram u k) R.DRAM_ACT_CTRL_WIN_US) * ticksPerUs

/-- ACT_WINDOW. The window ends at the next multiple of WIN_US, and every count of it restarts at 0. -/
def execActWindow (u k : Nat) (s : State) : Host.Outcome State Fault Refusal :=
  s.on (.dram u k) (
    let t := s.advanceTo (ceilDiv s.hiveTime (s.actWindow u k) * s.actWindow u k)
    let x := t.chan u k
    t.setChan u k { x with
      subA := { x.subA with acts := [] }, subB := { x.subB with acts := [] }, heldBefore := x.heldNow, heldNow := 0 })

/-- RH_TABLE_CLEAR. -/
def execRhTableClear (u k : Nat) (s : State) : Host.Outcome State Fault Refusal :=
  s.on (.dram u k) (
    let x := s.chan u k
    s.setChan u k { x with subA := { x.subA with rows := [] }, subB := { x.subB with rows := [] } })

/-- NEIGHBOUR_REFRESH of a row of a bank that has reached THRESH; bank is rank × 32 + group × 4 + bank. -/
def execNeighbourRefresh (u k sub bank row : Nat) (s : State) : Host.Outcome State Fault Refusal :=
  s.on (.dram u k) (if s.chanState u k = 4 then s.refreshNeighbours u k (sub % 2) bank row else s)

/-! ### Refresh, MR4, power states -/

/-- The refresh interval of a grade, in controller clocks (R379). -/
def refreshInterval (grade : Nat) (hot : Bool) : Nat :=
  let n := match grade with
    | 1 => 4632
    | 2 => 5404
    | _ => 6176
  if hot then n / 2 else n

/-- A refresh interval begins: HOT follows the MR4 readings (R380), and INTERVAL the grade and HOT. -/
def State.startInterval (s : State) (u k : Nat) : State :=
  let p := Page.dram u k
  let hot := (s.chan u k).hotNext
  (s.putF p R.DRAM_REF_STATUS_HOT (flag hot)).putF p R.DRAM_REF_STATUS_INTERVAL
    (refreshInterval (s.getF p R.DRAM_CFG_GRADE) hot)

/-- REFRESH. A refresh interval falls due: its commands are issued, or in panic the interval is postponed, up to 4 owed,
and from then on issued ahead of the RT port's writes (R382, R390)
(DESIGN CHOICE, log entry 87; DEDUCED, log entry 99). -/
def execRefresh (u k : Nat) (s : State) : Host.Outcome State Fault Refusal :=
  s.on (.dram u k) (
    let p := Page.dram u k
    if s.chanState u k = 4 ∧ ¬ s.inSelfRefresh u k then
      let t := s.startInterval u k
      if t.isSet p R.DRAM_PANIC_STAT_PANIC then
        let owed := t.getF p R.DRAM_REF_STATUS_OWED
        if owed < 4 then
          (t.putF p R.DRAM_REF_STATUS_OWED (owed + 1)).bump p R.DRAM_REF_COUNT_POSTPONED 1
        else ((t.issueRefresh u k).bump p R.DRAM_REF_COUNT_FORCED 1).raise p 3
      else t.issueRefresh u k
    else s)

/-- MR4_READ. `code` is the refresh-rate field of the hottest rank, and `above` says that it indicates above 85 °C. A
reading that changes the field makes a periodic retraining due (R398) (DESIGN CHOICE, log entry 88). -/
def execMr4Read (u k code : Nat) (above : Bool) (s : State) : Host.Outcome State Fault Refusal :=
  s.on (.dram u k) (
    let p := Page.dram u k
    if s.chanState u k = 4 ∧ ¬ s.inSelfRefresh u k then
      let x := s.chan u k
      let cool := if above then 0 else x.coolReads + 1
      let hot := above || (x.hotNext && decide (cool < 2))
      let changed := s.getF p R.DRAM_REF_STATUS_MR4 != code % 8
      let t := (s.putF p R.DRAM_REF_STATUS_ASSUMED 0).putF p R.DRAM_REF_STATUS_MR4 code
      let t := t.setChan u k { x with
        hotNext := hot, coolReads := min cool 2, mr4Due := false }
      let t := if changed then t.requestSlot u k else t
      if hot && !x.hotNext then t.raise p 1 else t
    else s)

/-- POWER_DOWN. A rank has had no command for PD_TIMER clocks. -/
def execPowerDown (u k sub rank : Nat) (s : State) : Host.Outcome State Fault Refusal :=
  s.on (.dram u k) (
    let x := s.chan u k
    let y := x.sub (sub % 2)
    if s.isSet (.dram u k) R.DRAM_PD_PD_EN && s.chanState u k == 4 && !s.inSelfRefresh u k
        && decide (rank ≤ s.rankBits u k) && !y.down.contains rank then
      (s.setChan u k (x.setSub (sub % 2) { y with down := y.down ++ [rank] })).emit (.dramCommand u k 6 [sub % 2, rank])
    else s)

/-- SELF_REFRESH_ENTRY, once the channel has been idle for IDLE_US, when no other condition of R384 blocks it. -/
def execSelfRefreshEntry (u k : Nat) (s : State) : Host.Outcome State Fault Refusal :=
  s.on (.dram u k) (
    let t := s.advanceTo (s.idleAt u k)
    if s.chanState u k = 4 && !s.inSelfRefresh u k && !s.blockTake && !s.blockLtr u k && !t.blockOther u k then
      (t.putF (.dram u k) R.DRAM_LTR_STATUS_SR 1).emit (.dramCommand u k 4 [])
    else s)

/-- SELF_REFRESH_EXIT. -/
def execSelfRefreshExit (u k : Nat) (s : State) : Host.Outcome State Fault Refusal :=
  s.on (.dram u k) (s.leaveSelfRefresh u k)

/-! ### Scrub -/

/-- Pieces of a subchannel. -/
def State.subPieces (s : State) (u k : Nat) : Nat := s.subBytes u k / 256

/-- SCRUB_READ of the next piece of a subchannel. -/
def execScrubRead (u k sub : Nat) (flaws : List (Nat × Nat)) (s : State) : Host.Outcome State Fault Refusal :=
  s.on (.dram u k) (
    let p := Page.dram u k
    let i := sub % 2
    if s.chanIssues u k && s.isSet p R.DRAM_SCRUB_EN && s.isSet p R.DRAM_SCRUB_PACE
        && !s.isSet p R.DRAM_KNOBS_SCRUB_PAUSED then
      let at' := ((s.chan u k).sub i).scrubAt
      let t := s.accessRead u k i 4 at' flaws 0
      let x := t.chan u k
      t.setChan u k (x.setSub i { x.sub i with
        scrubAt := if at' + 1 < s.subPieces u k then at' + 1 else 0 })
    else s)

/-! ### Training -/

/-- A write of 1 to DRAM_TRAIN_CTRL.RETRAIN (R397). -/
def State.retrain (s : State) (u k : Nat) : State :=
  let st := s.chanState u k
  if s.inTake ∨ st = 1 ∨ st = 2 ∨ st = 3 then s.putF (.dram u k) R.DRAM_TRAIN_CTRL_RETRAIN_REFUSED 1
  else s.startTraining u k false

/-- RETRAIN. -/
def execRetrain (u k : Nat) (s : State) : Host.Outcome State Fault Refusal :=
  s.on (.dram u k) (s.retrain u k)

/-- A gathering step of a full training, 3 to 7, has found its settings: DRAM_EYE keeps the narrowest windows, and the
next step begins. -/
def State.nextStep (s : State) (u k step window : Nat) : State :=
  let p := Page.dram u k
  let t := if step = 6 then s.putF p R.DRAM_EYE_READ_MIN window
    else if step = 7 then s.putF p R.DRAM_EYE_WRITE_MIN window else s
  let t := t.putF p R.DRAM_TRAIN_STATUS_TRIES 0
  if step = 7 then t.setChanState u k 3 8 else t.setChanState u k 2 (step + 1)

/-- A step of a periodic retraining has found its settings (R398). -/
def State.nextPeriodic (s : State) (u k window : Nat) : State :=
  let p := Page.dram u k
  if (s.chan u k).periodic = 1 then
    let t := (s.putF p R.DRAM_EYE_READ_MIN window).putF p R.DRAM_TRAIN_STATUS_TRIES 0
    t.setChan u k { t.chan u k with periodic := 2 }
  else ((s.putF p R.DRAM_EYE_WRITE_MIN window).endPeriodic u k).bump p R.DRAM_TRAIN_COUNT_PERIODIC 1

/-- The passing window is wide enough for a working setting (R402). -/
def windowOf : StepResult → Option Nat
  | .found w => if 8 ≤ w then some w else none
  | _ => none

/-- The result is one of step 1, which reads the modules (R393). -/
def identifies : StepResult → Bool
  | .identified _ => true
  | _ => false

/-- TRAINING_STEP_DONE. -/
def execTrainingStepDone (u k : Nat) (r : StepResult) (s : State) : Host.Outcome State Fault Refusal :=
  s.on (.dram u k) (State.settleBoot (
    let step := s.getF (.dram u k) R.DRAM_TRAIN_STATUS_STEP
    if (s.chan u k).periodic ≠ 0 then
      if identifies r then s else
      match windowOf r with
      | some w => s.nextPeriodic u k w
      | none => s.noSetting u k
    else if s.chanState u k = 1 then
      match r with
      | .identified d => if step = 1 then s.identify u k d else s
      | _ => s
    else if s.chanState u k = 2 ∧ ¬ (s.chan u k).restart ∧ s.isSet (.dram u k) R.DRAM_CFG_GRADE then
      if step = 2 then s.setChanState u k 2 3
      else if 3 ≤ step ∧ step ≤ 7 ∧ ¬ identifies r then
        match windowOf r with
        | some w => s.nextStep u k step w
        | none => s.noSetting u k
      else s
    else s))

/-- CLEARING_DONE: every piece of the channel is zero, and the channel is READY (R396, R420). -/
def execClearingDone (u k : Nat) (s : State) : Host.Outcome State Fault Refusal :=
  s.on (.dram u k) (State.settleBoot (
    if s.chanState u k = 3 ∧ ¬ (s.chan u k).restart then
      let start := (s.chan u k).startup
      let t := (s.zeroDram u k).setChanState u k 4 0
      let t := t.setChan u k { t.chan u k with startup := false, fallTo := 0, lastRequest := s.hiveTime }
      let t := (t.settleLayout u (some k) start).settleWm (.super u 0)
      let t := t.settlePanicOf u k
      if start then t else t.raise (.dram u k) 7
    else s))

/-- PERIODIC_RETRAIN falls due. -/
def execPeriodicRetrain (u k : Nat) (s : State) : Host.Outcome State Fault Refusal :=
  s.on (.dram u k) (
    if s.chanState u k = 4 ∧ s.isSet (.dram u k) R.DRAM_TRAIN_PERIOD_PERIOD_MS then
      s.requestSlot u k
    else s)

/-- PERIODIC_STEP_ABANDON. -/
def execPeriodicStepAbandon (u k : Nat) (s : State) : Host.Outcome State Fault Refusal :=
  s.on (.dram u k) (s.abandonPeriodic u k)

/-- FREQUENCY_CHANGE_RELEASE of the change held on a PLL page. -/
def execFrequencyChangeRelease (p : Page) (s : State) : Host.Outcome State Fault Refusal :=
  s.on p (
    if s.gatherHold p && s.isSet p R.COMMIT_COMMIT && s.isSet p R.SHADOW_STATUS_COMMIT_WAIT
        && !s.isSet p R.SHADOW_STATUS_HELD && !((s.pll p).relock && s.relocking p) then
      ((s.abandonUnder p).putF p R.SHADOW_STATUS_COMMIT_WAIT 0).applyPll p
    else s)

/-! ### Command errors (R410 to R412) -/

/-- ALERT_N asserts: the channel stops issuing; during a replay the replay has failed, and the third in a row fails the
channel. A periodic step under way is abandoned (R421). -/
def execAlertN (u k : Nat) (s : State) : Host.Outcome State Fault Refusal :=
  s.on (.dram u k) (
    if s.chanState u k = 4 ∧ ¬ (s.chan u k).alert then
      let t := s.abandonPeriodic u k
      let x := t.chan u k
      if x.replaying then
        let t := (t.setChan u k { x with alert := true, failedRun := x.failedRun + 1 }).bump (.dram u k)
          R.DRAM_CA_FAILED_REPLAYS 1
        if 3 ≤ x.failedRun + 1 then t.failChannel u k 2 else t
      else t.setChan u k { x with alert := true }
    else s)

/-- The commands not acknowledged go out again, from the oldest on. -/
def State.replaySub (s : State) (u k sub : Nat) : State :=
  (((s.chan u k).sub sub).retry).foldl (fun t c => t.emit (.dramCommand u k 7 (sub :: c))) s

/-- The channel as ALERT_n releases: it replays, and a replay of no command has succeeded already (R411, R412). -/
def ChanSt.replay (x : ChanSt) : ChanSt :=
  if x.subA.retry.isEmpty && x.subB.retry.isEmpty then { x with alert := false, replaying := false, failedRun := 0 }
  else { x with alert := false, replaying := true }

/-- ALERT_N_RELEASE: the RCD's error state is cleared, every bank precharged, and the replay begins. -/
def execAlertNRelease (u k : Nat) (s : State) : Host.Outcome State Fault Refusal :=
  s.on (.dram u k) (
    let x := s.chan u k
    if x.alert then
      let t := (s.setChan u k x.replay).emit (.dramCommand u k 8 [])
      ((((t.emit (.dramCommand u k 9 [])).replaySub u k 0).replaySub u k 1).bump (.dram u k) R.DRAM_CA_REPLAYS 1).raise
        (.dram u k) 6
    else s)

/-- COMMAND_ACKNOWLEDGED: the oldest command of a subchannel. A replay whose every command is acknowledged has
succeeded. -/
def execCommandAcknowledged (u k sub : Nat) (s : State) : Host.Outcome State Fault Refusal :=
  s.on (.dram u k) (
    let x := s.chan u k
    if x.alert then s
    else
      let y := x.sub (sub % 2)
      let z := x.setSub (sub % 2) { y with retry := y.retry.drop 1 }
      if z.replaying && z.subA.retry.isEmpty && z.subB.retry.isEmpty then
        s.setChan u k { z with replaying := false, failedRun := 0 }
      else s.setChan u k z)

/-! ### LAYOUT_SWITCH (R415 to R418) -/

/-- What a switch during a take does to the store: its blocks are discarded and reported, and the segment goes on from the
first slot of its part in the new layout (R417). -/
def State.switchStore (s : State) (u : Nat) : State :=
  let x := s.store u
  let limit := if s.isSet .hive (R.HIVE_STORE_LIMIT_SLOT u) then x.limit / 2 else s.slotCount u
  let t := s.setStore u { x with limit := limit, partSize := limit / s.segments, parts := [] }
  let t := match x.held with
    | none => t
    | some e => t.systemMark (sysRec 0x0B u e.1 1 0 e.2 0)
  (t.showStore u).checkFull u

/-- LAYOUT_SWITCH of a super one of whose channels has failed. -/
def execLayoutSwitch (u : Nat) (s : State) : Host.Outcome State Fault Refusal :=
  s.on (.dram u 0) (
    if (s.store u).switchOwed then
      let t := (s.dropRequests u 0).dropRequests u 1
      let t := t.setStore u { t.store u with switchOwed := false }
      let t := t.settleLayout u none false
      if t.inTake then t.switchStore u else t
    else s)

end Sys2Proof.Machine
end

