-- ==== Sys2Proof/Machine/EventCmds.lean ====
section
/-!
DEFINITION. The steps of events (chapter 15).
-/
namespace Sys2Proof.Machine

/-- EVENT_ENQUEUE of the oldest record of an origin: super 1 to 7, or 8 for S0 and the hive
(DEDUCED, log entry 100). -/
def execEventEnqueue (origin : Nat) (s : State) : Host.Outcome State Fault Refusal := (s.enqueueEvent origin).finish

/-- EVENT_RING_WRITE. The masks name the words of the record in which the pop from the event queue meets an error. -/
def execEventRingWrite (corrected uncorrectable : Nat) (s : State) : Host.Outcome State Fault Refusal :=
  (s.writeEvent corrected uncorrectable).finish

/-- IRQ_MOD_EXPIRE of a vector: MIN_US after its last message (R513). -/
def execIrqModExpire (vector : Nat) (s : State) : Host.Outcome State Fault Refusal :=
  let m := s.getF .events R.EVENTS_IRQ_MOD_MIN_US * ticksPerUs
  .next (match s.ev.lastMsg.find? (fun e => e.1 == vector) with
    | none => s.serveVector vector
    | some e => (s.advanceTo (e.2 + m)).serveVector vector)

/-- RECORDS_LOST. -/
def execRecordsLost (s : State) : Host.Outcome State Fault Refusal := s.reportLost.finish

/-- HOLDOFF_END of a source: its unrecorded raises become one record at the end of its hold-off (R504). -/
def execHoldoffEnd (source : Nat) (s : State) : Host.Outcome State Fault Refusal :=
  .next (match s.ev.unrec.find? (fun e => e.1 == source) with
    | none => s
    | some _ =>
      let t := match s.ev.lastRec.find? (fun e => e.1 == source) with
        | none => s
        | some e => s.advanceTo (e.2 + s.holdoff)
      t.flushUnrec source)

/-- EVENTS_EN_SET. -/
def execEventsEnSet (s : State) : Host.Outcome State Fault Refusal := .next s.enableEvents

/-- EVENTS_EN_CLEAR. -/
def execEventsEnClear (s : State) : Host.Outcome State Fault Refusal := .next s.disableEvents

/-- A write of EVENTS_FREED (R507). -/
def State.freeEvents (s : State) (tally : Nat) : State := (s.putF .events R.EVENTS_FREED_TALLY tally).settleWait

/-- EVENTS_FREED. -/
def execEventsFreed (tally : Nat) (s : State) : Host.Outcome State Fault Refusal := .next (s.freeEvents tally)

end Sys2Proof.Machine
end

