-- ==== Sys2Proof/Machine/HostPort.lean ====
section
/-!
DEFINITION. The host port (chapter 14): the rings and their tallies, completions, commands, drain descriptors, the DRAM
view, and what a loss of the host does.
-/
namespace Sys2Proof.Machine

/-! ### Completions (R475 to R480) -/

/-- A tally after another, modulo 2^32 (R466). -/
def tallyNext (t : Nat) : Nat := (t + 1) % 2 ^ 32

/-- The distance from `b` up to `a`, modulo 2^32. -/
def tallySub (a b : Nat) : Nat := (a + 2 ^ 32 - b % 2 ^ 32) % 2 ^ 32

/-- HIF 2.4 is active. -/
def State.reduced (s : State) : Bool := s.getF .host R.HOST_HIF_ACTIVE_MAJOR == 2

/-- The size of the completion ring. -/
def State.cplRing (s : State) : Nat := 2 ^ s.getF .host R.HOST_CPL_SIZE_LOG2

/-- The oldest completion waiting has a place in the ring (R478). -/
def State.cplFits (s : State) : Bool :=
  match s.host.waiting with
  | [] => false
  | c :: _ => decide (tallySub c.cseq (s.getF .host R.HOST_CPL_FREED_SEQ) ≤ s.cplRing)

/-- A completion is produced: it takes the next CSEQ, is echoed, and waits for the ring while CPL_EN is 1. -/
def State.produceCpl (s : State) (tally kind status op info : Nat) (result : List Byte) (irq : Bool) : State :=
  let c := tallyNext (s.getF .host R.HOST_CPL_PRODUCED_SEQ)
  let bytes := leBytes 4 c ++ leBytes 4 tally ++ leBytes 1 kind ++ leBytes 1 status ++ leBytes 1 op
    ++ leBytes 1 0xA5 ++ leBytes 4 info ++ padTo 16 0 result
  let t := (List.range 8).foldl (fun t w =>
    t.putF .host (R.HOST_CPL_ECHO_WORD (8 * (c % 8) + w)) (ofLeBytes ((bytes.drop (4 * w)).take 4))) s
  let t := t.putF .host R.HOST_CPL_PRODUCED_SEQ c
  let t := if status = 8 then t.raise .host 3 else t
  if t.isSet .host R.HOST_RING_CTRL_CPL_EN then
    { t with host := { t.host with waiting := t.host.waiting ++ [⟨c, bytes, irq, status == 8⟩] } }
  else t

/-- The waiting completion is written when the ring has room, and its event raised (R478, R480). -/
def State.writeCpl (s : State) : State :=
  if s.isSet .host R.HOST_RING_CTRL_CPL_EN && s.busMaster && s.cplFits then
    match s.host.waiting with
    | [] => s
    | c :: rest =>
      let base := s.getPair .host R.HOST_CPL_BASE_LO_BASE R.HOST_CPL_BASE_HI_BASE / 4096 * 4096
      let t := { s with host := { s.host with waiting := rest } }
      let t := t.emit (.hostWrite (base + 32 * (c.cseq % s.cplRing)) c.bytes false)
      if c.irq || s.reduced then t.raise .host 0 else t
  else s

/-! ### Rings (R461 to R469) -/

/-- BLOCK_STATUS of the HOST page. -/
def State.showHost (s : State) : State :=
  let halted := s.isSet .host R.HOST_RING_CTRL_CMD_HALT || s.isSet .host R.HOST_RING_CTRL_DRN_HALT
  let on := s.isSet .host R.HOST_RING_CTRL_CMD_EN || s.isSet .host R.HOST_RING_CTRL_DRN_EN
    || s.isSet .host R.HOST_RING_CTRL_CPL_EN
  ((s.putF .host (blockBit 18) (flag halted)).putF .host (blockBit 17) (flag on)).putF .host (blockBit 16)
    (s.getF .host R.HOST_LINK_UP)

/-- A ring halts for a reason, and the ring halted event is raised (R467). -/
def State.haltRing (s : State) (drain : Bool) (reason : Nat) : State :=
  let t := if drain then (s.putF .host R.HOST_RING_CTRL_DRN_HALT 1).putF .host R.HOST_HALT_DRN_REASON reason
    else (s.putF .host R.HOST_RING_CTRL_CMD_HALT 1).putF .host R.HOST_HALT_CMD_REASON reason
  t.showHost.raise .host 1

/-- A requested host interface version takes effect once no ring is enabled (R461). -/
def State.settleHif (s : State) : State :=
  if s.isSet .host R.HOST_RING_CTRL_CMD_EN || s.isSet .host R.HOST_RING_CTRL_DRN_EN
      || s.isSet .host R.HOST_RING_CTRL_CPL_EN then s
  else
    let v := match s.getF .host R.HOST_HIF_REQ_MAJOR with
      | 3 => (3, 1)
      | 2 => (2, 4)
      | _ => (0, 0)
    (s.putF .host R.HOST_HIF_ACTIVE_MAJOR v.1).putF .host R.HOST_HIF_ACTIVE_MINOR v.2

/-- A ring of this size may be enabled (R462, R463, R465). -/
def State.ringAllowed (s : State) (log2 : Nat) : Bool :=
  s.getF .host R.HOST_HIF_ACTIVE_MAJOR != 0 && decide (6 ≤ log2) && decide (log2 ≤ (if s.reduced then 12 else 16))

/-- Commands that stand for a mismatched TALLY and still owe their completion. -/
def owedTallies (l : List HostCmd) : List HostCmd := l.filter (·.badTally)

/-- Accepted commands not begun are discarded, and fetching is to resume from DONE + 1 (R469). -/
def State.rewindCommands (s : State) : State :=
  let t := s.putF .host R.HOST_CMD_ACCEPTED_TALLY (s.getF .host R.HOST_CMD_DONE_TALLY)
  { t with host := { t.host with accepted := owedTallies t.host.accepted } }

/-- A FENCE ends when every drain descriptor accepted before it has produced its completion, or can produce none any more
(R473) (DEDUCED, log entry 98). -/
def State.settleFence (s : State) : State :=
  match s.host.fence with
  | none => s
  | some (c, l) =>
    if l.any (fun t => s.host.drains.any (fun d => d.tally == t)) then s
    else
      let t := { s with host := { s.host with fence := none } }
      let t := t.putF .host R.HOST_CMD_DONE_TALLY c.tally
      t.produceCpl c.tally 1 0 4 (s.getF .host R.HOST_DRN_DONE_TALLY) [] (bitOf (c.bytes.getD 5 0).toNat 0)

/-- The completion of a mismatched entry comes in tally order, once the commands before it are done. -/
def State.settleTally (s : State) : State :=
  match s.host.accepted with
  | c :: rest =>
    if c.badTally && s.host.fence.isNone then
      { s with host := { s.host with accepted := rest } }.produceCpl c.tally 1 5 (c.bytes.getD 4 0).toNat 0 []
        (bitOf (c.bytes.getD 5 0).toNat 0)
    else s
  | [] => s

/-- HOST_DRN_BUSY follows the descriptors outstanding (R486). -/
def State.showDrains (s : State) : State :=
  s.putF .host R.HOST_DRN_BUSY_SUPERS (ofBits ((List.range 8).filter (fun u => s.drainBusy u)))

/-- Every drain descriptor not complete is discarded; none produces a completion (R487). -/
def State.dropDrains (s : State) : State :=
  let t := { s with host := { s.host with drains := [], doneAhead := [], readers := [] } }
  let d := t.getF .host R.HOST_DRN_DONE_TALLY
  (((t.putF .host R.HOST_DRN_ACCEPTED_TALLY d).putF .host R.HOST_DRN_POSTED_TALLY d).showDrains.settleFence).settleTally

def State.enableCmd (s : State) : State :=
  if s.ringAllowed (s.getF .host R.HOST_CMD_SIZE_LOG2) then
    let t := if s.isSet .host R.HOST_RING_CTRL_CMD_HALT then s.rewindCommands else s
    (((t.putF .host R.HOST_RING_CTRL_CMD_EN 1).putF .host R.HOST_RING_CTRL_CMD_HALT 0).putF .host
      R.HOST_HALT_CMD_REASON 0).showHost
  else s.putF .host R.HOST_RING_CTRL_EN_REFUSED 1

/-- The command ring is disabled: commands not begun are discarded (R465, R469) (DEDUCED, log entry 27). -/
def State.disableCmd (s : State) : State :=
  let t := (s.putF .host R.HOST_RING_CTRL_CMD_EN 0).rewindCommands
  (t.putF .host R.HOST_CMD_POSTED_TALLY (t.getF .host R.HOST_CMD_DONE_TALLY)).settleHif.showHost

def State.enableDrn (s : State) : State :=
  if s.ringAllowed (s.getF .host R.HOST_DRN_SIZE_LOG2) then
    let t := if s.isSet .host R.HOST_RING_CTRL_DRN_HALT then
        let posted := s.getF .host R.HOST_DRN_POSTED_TALLY
        s.dropDrains.putF .host R.HOST_DRN_POSTED_TALLY posted
      else s
    (((t.putF .host R.HOST_RING_CTRL_DRN_EN 1).putF .host R.HOST_RING_CTRL_DRN_HALT 0).putF .host
      R.HOST_HALT_DRN_REASON 0).showHost
  else s.putF .host R.HOST_RING_CTRL_EN_REFUSED 1

def State.disableDrn (s : State) : State :=
  (s.putF .host R.HOST_RING_CTRL_DRN_EN 0).dropDrains.settleHif.showHost

def State.enableCpl (s : State) : State :=
  if s.ringAllowed (s.getF .host R.HOST_CPL_SIZE_LOG2) then (s.putF .host R.HOST_RING_CTRL_CPL_EN 1).showHost
  else s.putF .host R.HOST_RING_CTRL_EN_REFUSED 1

/-- Completions are produced and echoed but not written, and none waits (R478). -/
def State.disableCpl (s : State) : State :=
  let t := s.putF .host R.HOST_RING_CTRL_CPL_EN 0
  { t with host := { t.host with waiting := [] } }.settleHif.showHost

/-- A write of HOST_CMD_POSTED or HOST_DRN_POSTED (R467). -/
def State.postTally (s : State) (drain : Bool) (v : Nat) : State :=
  let en := if drain then R.HOST_RING_CTRL_DRN_EN else R.HOST_RING_CTRL_CMD_EN
  let halt := if drain then R.HOST_RING_CTRL_DRN_HALT else R.HOST_RING_CTRL_CMD_HALT
  let acc := s.getF .host (if drain then R.HOST_DRN_ACCEPTED_TALLY else R.HOST_CMD_ACCEPTED_TALLY)
  let n := 2 ^ s.getF .host (if drain then R.HOST_DRN_SIZE_LOG2 else R.HOST_CMD_SIZE_LOG2)
  let t := s.putF .host (if drain then R.HOST_DRN_POSTED_TALLY else R.HOST_CMD_POSTED_TALLY) v
  if s.isSet .host en && !s.isSet .host halt && decide (n < tallySub v acc) then t.haltRing drain 2 else t

/-- A ring fetch may take place: enabled, not halted, entries posted beyond ACCEPTED, and requests allowed (R454,
R467). -/
def State.fetches (s : State) (drain : Bool) : Bool :=
  s.busMaster &&
  if drain then
    s.isSet .host R.HOST_RING_CTRL_DRN_EN && !s.isSet .host R.HOST_RING_CTRL_DRN_HALT
      && s.getF .host R.HOST_DRN_ACCEPTED_TALLY != s.getF .host R.HOST_DRN_POSTED_TALLY
  else
    s.isSet .host R.HOST_RING_CTRL_CMD_EN && !s.isSet .host R.HOST_RING_CTRL_CMD_HALT
      && s.getF .host R.HOST_CMD_ACCEPTED_TALLY != s.getF .host R.HOST_CMD_POSTED_TALLY

/-- A command entry is fetched: accepted, or a mismatch that halts the ring (R467). -/
def State.fetchCommand (s : State) (bytes : List Byte) : State :=
  if s.fetches false then
    let t := tallyNext (s.getF .host R.HOST_CMD_ACCEPTED_TALLY)
    if ofLeBytes (bytes.take 4) = t then
      let r := s.putF .host R.HOST_CMD_ACCEPTED_TALLY t
      { r with host := { r.host with accepted := r.host.accepted ++ [HostCmd.mk t bytes false] } }
    else
      let r := { s with host := { s.host with accepted := s.host.accepted ++ [HostCmd.mk t bytes true] } }
      (r.haltRing false 1).settleTally
  else s

/-! ### Commands (R471 to R474, R476) -/

/-- The command that may begin now: the first accepted one, when none is under way and no completion waits (R472,
R478) (DEDUCED, log entry 97). -/
def State.commandNow (s : State) : Option HostCmd :=
  if s.host.fence.isNone && s.host.waiting.isEmpty then
    match s.host.accepted with
    | c :: _ => if c.badTally then none else some c
    | [] => none
  else none

def HostCmd.opcode (c : HostCmd) : Nat := (c.bytes.getD 4 0).toNat

/-- The opcode is one of R473, and allowed in the active version (R463). -/
def State.opcodeKnown (s : State) (op : Nat) : Bool := decide (op ≤ (if s.reduced then 3 else 6))

/-- Bytes of ARGS that a command of this opcode uses. -/
def argBytes (op count : Nat) : List Nat :=
  match op with
  | 1 => [0x10, 0x11, 0x12, 0x13]
  | 5 => [0x10]
  | 6 => 0x10 :: ((List.range count).flatMap (fun k => (List.range 8).map (fun i => 0x18 + 8 * k + i)))
  | _ => []

/-- Every reserved byte and bit is 0 (R471). -/
def HostCmd.clean (c : HostCmd) : Bool :=
  let used := argBytes c.opcode (min 5 (c.bytes.getD 0x10 0).toNat)
  (c.bytes.getD 5 0).toNat < 2 && (List.range 58).all (fun i =>
    used.contains (i + 6) || c.bytes.getD (i + 6) 0 == 0)

/-- A command ends with its completion (R472). -/
def State.endCommand (s : State) (c : HostCmd) (status info : Nat) (result : List Byte) : State :=
  let t := { s with host := { s.host with accepted := s.host.accepted.drop 1 } }
  let t := t.putF .host R.HOST_CMD_DONE_TALLY c.tally
  (t.produceCpl c.tally 1 status c.opcode info result (bitOf (c.bytes.getD 5 0).toNat 0)).settleTally

/-- The command that stands at the front runs when it has this opcode and is well formed: `f` is its effect with its
completion. A command with a reserved byte that is not 0 completes BAD_ARGS (DEDUCED, log entry 96). -/
def State.runCommand (s : State) (op : Nat) (f : HostCmd → State) : State :=
  match s.commandNow with
  | none => s
  | some c =>
    if c.opcode = op ∧ s.opcodeKnown op then
      if c.clean then f c else s.endCommand c 4 0 []
    else s

/-! ### Drains (R481 to R486) -/

/-- A drain tally has produced its completion: HOST_DRN_DONE is the largest below which all have (R483). -/
def State.drainDone (s : State) (tally : Nat) : State :=
  let l := s.host.doneAhead ++ [tally]
  let d := s.getF .host R.HOST_DRN_DONE_TALLY
  let n := advance l d l.length
  let t := (s.putF .host R.HOST_DRN_DONE_TALLY n).putF .host R.HOST_DRN_LAST_TALLY tally
  { t with host := { t.host with
      doneAhead := l.filter (fun a => decide (tallySub n d < tallySub a d)) } }
where
  /-- The last tally of the run of done ones after `d`. -/
  advance (l : List Nat) (d : Nat) : Nat → Nat
    | 0 => d
    | fuel + 1 => if l.contains (tallyNext d) then advance l (tallyNext d) fuel else d

/-- A drain descriptor ends with its completion (R477, R483). -/
def State.endDrain (s : State) (d : DrainDesc) (status : Nat) : State :=
  let t := { s with host := { s.host with drains := s.host.drains.filter (fun e => !(e.tally == d.tally)) } }
  let t := t.drainDone d.tally
  let t := if (s.drainNow d.super).any (fun e => e.tally == d.tally) then t.setReader d.super .reset else t
  let t := t.produceCpl d.tally 2 status d.super d.delivered (leBytes 8 d.poison ++ leBytes 8 d.torn) d.irq
  t.showDrains.settleFence.settleTally

/-- A drain descriptor as its 32 bytes give it (R481). -/
def parseDrain (b : List Byte) : DrainDesc :=
  let fl := (b.getD 5 0).toNat
  { tally := ofLeBytes (b.take 4), super := (b.getD 4 0).toNat, irq := bitOf fl 0, hdrOnly := bitOf fl 1
    count := (b.getD 6 0).toNat, first := ofLeBytes ((b.drop 8).take 4), addr := ofLeBytes ((b.drop 16).take 8)
    delivered := 0, poison := 0, torn := 0 }

/-- The reserved fields of a descriptor are 0. -/
def drainClean (b : List Byte) : Bool :=
  decide ((b.getD 5 0).toNat < 4) && b.getD 7 0 == 0 && (List.range 4).all (fun i => b.getD (12 + i) 0 == 0)
    && (List.range 8).all (fun i => b.getD (24 + i) 0 == 0)

/-- The status with which a descriptor ends at once, 0 when it is accepted for service (R463, R482). -/
def State.drainStatus (s : State) (b : List Byte) : Nat :=
  let d := parseDrain b
  if s.fuse.part.supers ≤ d.super then 4
  else if s.storeDisabled d.super then 7
  else if drainClean b && decide (1 ≤ d.count) && decide (d.count ≤ (if s.reduced then 16 else 64))
      && !(s.reduced && d.hdrOnly) && decide (d.addr % (if d.hdrOnly then 64 else 4096) = 0)
      && decide (d.first + d.count ≤ s.slotCount d.super) then 0
  else 4

/-- A drain descriptor is fetched (R467, R482). -/
def State.fetchDrain (s : State) (bytes : List Byte) : State :=
  if s.fetches true then
    let t := tallyNext (s.getF .host R.HOST_DRN_ACCEPTED_TALLY)
    if ofLeBytes (bytes.take 4) = t then
      let d := parseDrain bytes
      let r := s.putF .host R.HOST_DRN_ACCEPTED_TALLY t
      let r := { r with host := { r.host with drains := r.host.drains ++ [d] } }.showDrains
      let r := if d.super < 8 then r.leaveSelfRefresh d.super 0 |>.leaveSelfRefresh d.super 1 else r
      let st := s.drainStatus bytes
      if st = 0 then r else r.endDrain d st
    else s.haltRing true 1
  else s

/-- A block slot of a super has not been written since its latest switch of layout (R485). -/
def State.staleSlot (s : State) (u slot : Nat) : Bool :=
  match (s.store u).fresh with
  | none => false
  | some l => !l.contains slot

/-- The reader of a super delivers its next block to host memory; the last one completes the descriptor (R483 to
R485). A descriptor whose super has lost both channels ends with NO_STORE (R419, R482) (DEDUCED, log entry 141). -/
def State.drainBlock (s : State) (u : Nat) : State :=
  match s.drainNow u with
  | none => s
  | some d =>
    if s.busMaster && s.host.waiting.isEmpty && s.layout u != 0 then
      let t := (s.leaveSelfRefresh u 0).leaveSelfRefresh u 1
      let t := (List.range (if d.hdrOnly then 1 else 16)).foldl (fun t p => t.stagePiece u d.slot p) t
      let r := t.reader u
      let piece := fun p => match r.staged.find? (fun e => e.piece == p) with | none => [] | some e => e.bytes
      let bytes := if d.hdrOnly then (piece 0).take 64 else (List.range 16).flatMap piece
      let bad := r.staged.any (·.bad) || t.staleSlot u d.slot
      let t := t.emit (.hostWrite (d.addr + (if d.hdrOnly then 64 else 4096) * d.delivered) bytes false)
      let e : DrainDesc := { d with
        delivered := d.delivered + 1
        poison := d.poison ||| (if bad then 2 ^ d.delivered else 0)
        torn := d.torn ||| (if r.torn then 2 ^ d.delivered else 0) }
      let t := { t with host := { t.host with
        drains := t.host.drains.map (fun (x : DrainDesc) => if x.tally = d.tally then e else x) } }
      let t := t.setReader u .reset
      if e.delivered < e.count then t
      else t.endDrain e (if e.poison = 0 ∧ e.torn = 0 then 0 else 8)
    else if s.busMaster && s.host.waiting.isEmpty && s.channelsGone u then s.endDrain d 7
    else s

/-- The descriptors that a DRAIN_ABORT of these supers discards: accepted and not begun (R473). -/
def State.abortable (s : State) (supers : Nat) : List DrainDesc :=
  s.host.drains.filter (fun d => bitOf supers d.super && d.delivered == 0
    && !(s.drainNow d.super == some d && !(s.reader d.super).staged.isEmpty))

/-! ### Requests that cannot be served as asked (R456) -/

def State.badBar0 (s : State) : State := (s.bump .host R.HOST_BAD_BAR0 1).raise .host 2
def State.badBar2 (s : State) : State := (s.bump .host R.HOST_BAD_BAR2 1).raise .host 2

/-! ### The DRAM view (R457 to R460) -/

/-- The size of BAR2 in bytes (R452) (DESIGN CHOICE, log entry 94). -/
def State.bar2Size (s : State) : Nat := 2 ^ s.host.bar2Log2

/-- View address of a BAR2 offset (R457). -/
def State.viewAddress (s : State) (a : Nat) : Nat :=
  s.getPair .host R.HOST_BAR2_BASE_LO_BASE R.HOST_BAR2_BASE_HI_BASE / s.bar2Size * s.bar2Size + a

/-- Super, block slot and byte in the block of a view address; none where the view is empty (R458). -/
def State.viewAt (s : State) (v : Nat) : Option (Nat × Nat × Nat) :=
  let u := v / 2 ^ 38
  let slot := v % 2 ^ 38 / 4096
  if u < s.fuse.part.supers ∧ ¬ s.storeDisabled u ∧ slot < s.slotCount u then some (u, slot, v % 4096) else none

/-- The byte that a read of the view returns, and whether it lies in an uncorrectable word. -/
def State.viewByte (s : State) (v : Nat) : Byte × Bool :=
  match s.viewAt v with
  | none => (0, false)
  | some (u, slot, i) =>
    let a := pieceAt (s.layout u) slot (i / 256)
    (s.dramByte u a.1 a.2.1 a.2.2 (i % 256), s.dramBad u a.1 a.2.1 a.2.2 (i % 256 / 8))

/-- The channels of the supers that a stretch of the view reaches are woken by the request (R385)
(DEDUCED, log entry 86). -/
def State.wakeView (s : State) (v len : Nat) : State :=
  [v, v + len - 1].foldl (fun t a => match s.viewAt a with
    | none => t
    | some (u, _, _) => (t.leaveSelfRefresh u 0).leaveSelfRefresh u 1) s

/-- A BAR2 read (R457, R456). -/
def State.bar2Read (s : State) (a len : Nat) : State :=
  let v := s.viewAddress a
  let l := (List.range len).map (fun i => s.viewByte (v + i))
  let bad := l.any (·.2)
  let t := s.wakeView v len
  let t := if bad then t.badBar2 else t
  t.emit (.readData (l.map (·.1)) bad)

/-- A write to this block slot is refused: a take is under way and the slot lies below the store limit (R459). -/
def State.slotLocked (s : State) (u slot : Nat) : Bool :=
  let ls := s.getF .hive (R.HIVE_STORE_LIMIT_SLOT u)
  let limit := if (s.store u).limit = 0 then ls else (s.store u).limit
  s.inTake && (ls == 0 || decide (slot < limit))

/-- The stretches of one piece each that a BAR2 write covers: view address and bytes. -/
def splitPieces (v : Nat) (l : List Byte) : List (Nat × List Byte) :=
  go v l l.length
where
  go (v : Nat) (l : List Byte) : Nat → List (Nat × List Byte)
    | 0 => []
    | fuel + 1 =>
      if l.isEmpty then []
      else
        let n := 256 - v % 256
        (v, l.take n) :: go (v + n) (l.drop n) fuel

/-- A BAR2 write: its bytes enter the write queues of the HW port, piece by piece, or the whole of it is refused. -/
def State.bar2Write (s : State) (a : Nat) (bytes : List Byte) (poisoned : Bool) : State :=
  let v := s.viewAddress a
  let parts := splitPieces v bytes
  let refused := parts.any (fun e => match s.viewAt e.1 with
    | none => false
    | some (u, slot, _) => s.slotLocked u slot)
  if poisoned || refused then s.badBar2
  else
    parts.foldl (fun t e => match s.viewAt e.1 with
      | none => t
      | some (u, slot, i) =>
        let p := pieceAt (s.layout u) slot (i / 256)
        let t := t.enterWrite u p.1 p.2.1 ⟨3, p.2.2, i % 256, e.2, []⟩
        let x := t.store u
        t.setStore u { x with fresh := x.fresh.map (fun l => if l.contains slot then l else l ++ [slot]) })
      (s.wakeView v bytes.length)

/-! ### Losing the host (R487, R488) -/

/-- The MSI-X table and its pending bits are reset. -/
def State.clearMsix (s : State) : State :=
  let t := (s.clearRegs .host 0x380 0x388).clearRegs .host 0x400 0x800
  { t with ev := { t.ev with ready := [] } }

/-- What a function-level reset, a loss of the host link and a page reset do to the rings: discarded commands and drains,
and the ring registers, HOST_HIF, HOST_BAR2_BASE and the MSI-X table at their reset values (R487). -/
def State.dropRings (s : State) : State :=
  let s := { s with host := { s.host with waiting := [] } }.putF .host R.HOST_RING_CTRL_CPL_EN 0
  let s := ((s.rewindCommands).dropDrains).clearMsix
  let done := s.getF .host R.HOST_CMD_DONE_TALLY
  let s := (s.clearRegs .host 0x108 0x150).putF .host R.HOST_CMD_POSTED_TALLY done
  (s.putF .host R.HOST_CPL_FREED_SEQ 0).showHost

/-- Configuration space is at its reset values (R487). -/
def State.resetConfig (s : State) : State :=
  { s with host := { s.host with bme := false, d3 := false, bar2Log2 := 30 }, busMaster := false }

/-- The host is gone: function-level reset and loss of the host link (R487, R509). -/
def State.dropHost (s : State) : State := s.dropRings.dropEventRing.resetConfig

end Sys2Proof.Machine
end

