-- ==== Sys2Proof/Machine/HostCmds.lean ====
section
/-!
DEFINITION. The steps of the host port (chapter 14), except the commands that arm and stop a take and REG_WRITE.
-/
namespace Sys2Proof.Machine

/-! ### The DRAM view -/

/-- BAR2_READ of `len` bytes at a BAR2 offset. -/
def execBar2Read (off len : Nat) (s : State) : Host.Outcome State Fault Refusal :=
  if s.bar2Size < off + len then .fault .outsideBar else .next (s.bar2Read off len)

/-- The write reaches a framebuffer slot (R600). -/
def State.writesFramebuffer (s : State) (off len : Nat) : Bool :=
  let v := s.viewAddress off
  (List.range (len / 4096 + 2)).any (fun i => match s.viewAt (v + min (4096 * i) (len - 1)) with
    | some (0, slot, _) => s.inFramebuffer slot
    | _ => false)

/-- BAR2_WRITE of bytes at a BAR2 offset. -/
def execBar2Write (off : Nat) (bytes : List Byte) (poisoned : Bool) (s : State) : Host.Outcome State Fault Refusal :=
  if s.bar2Size < off + bytes.length then .fault .outsideBar
  else
    let t := s.bar2Write off bytes poisoned
    .next (if s.writesFramebuffer off bytes.length then t.endLowering else t)

/-! ### Ring registers -/

/-- A write of HOST_HIF.REQ_MAJOR (R461). -/
def State.requestHif (s : State) (major : Nat) : State := (s.putF .host R.HOST_HIF_REQ_MAJOR major).settleHif

/-- REQ_MAJOR. -/
def execReqMajor (major : Nat) (s : State) : Host.Outcome State Fault Refusal := .next (s.requestHif major)

/-- CMD_EN_SET. -/
def execCmdEnSet (s : State) : Host.Outcome State Fault Refusal := .next s.enableCmd
/-- CMD_EN_CLEAR. -/
def execCmdEnClear (s : State) : Host.Outcome State Fault Refusal := .next s.disableCmd
/-- DRN_EN_SET. -/
def execDrnEnSet (s : State) : Host.Outcome State Fault Refusal := .next s.enableDrn
/-- DRN_EN_CLEAR. -/
def execDrnEnClear (s : State) : Host.Outcome State Fault Refusal := .next s.disableDrn
/-- CPL_EN_SET. -/
def execCplEnSet (s : State) : Host.Outcome State Fault Refusal := .next s.enableCpl
/-- CPL_EN_CLEAR. -/
def execCplEnClear (s : State) : Host.Outcome State Fault Refusal := .next s.disableCpl

/-- HOST_CMD_POSTED. -/
def execHostCmdPosted (tally : Nat) (s : State) : Host.Outcome State Fault Refusal := .next (s.postTally false tally)
/-- HOST_DRN_POSTED. -/
def execHostDrnPosted (tally : Nat) (s : State) : Host.Outcome State Fault Refusal := .next (s.postTally true tally)
/-- HOST_CPL_FREED. -/
def execHostCplFreed (tally : Nat) (s : State) : Host.Outcome State Fault Refusal :=
  .next (s.putF .host R.HOST_CPL_FREED_SEQ tally)

/-! ### Fetches and completions -/

/-- COMMAND_FETCH of the 64 bytes of the next entry. -/
def execCommandFetch (bytes : List Byte) (s : State) : Host.Outcome State Fault Refusal := .next (s.fetchCommand bytes)

/-- DRAIN_DESCRIPTOR_FETCH of the 32 bytes of the next entry. -/
def execDrainDescriptorFetch (bytes : List Byte) (s : State) : Host.Outcome State Fault Refusal :=
  .next (s.fetchDrain bytes)

/-- FETCH_TIMEOUT of the command ring, or of the drain ring: an error, or no completion within 10 ms (R467). -/
def execFetchTimeout (drain : Bool) (s : State) : Host.Outcome State Fault Refusal :=
  .next (if s.fetches drain then s.haltRing drain 3 else s)

/-- COMPLETION_WRITE. -/
def execCompletionWrite (s : State) : Host.Outcome State Fault Refusal := .next s.writeCpl

/-! ### Commands -/

/-- NOP. -/
def execNop (s : State) : Host.Outcome State Fault Refusal := .next (s.runCommand 0 (fun c => s.endCommand c 0 0 []))

/-- HIVE_TAKE_STATE, as INFO carries it (R477). -/
def State.takeWord (s : State) : Nat := (s.word (pageBase .hive + 0x330)).toNat

/-- STATUS_COMMAND. -/
def execStatusCommand (s : State) : Host.Outcome State Fault Refusal :=
  .next (s.runCommand 3 (fun c => s.endCommand c 0 s.takeWord
    (leBytes 4 (s.getF .hive R.HIVE_TAKE_ID_ID) ++ leBytes 4 (s.getF .hive R.HIVE_TAKE_TRIGS_COUNT)
      ++ leBytes 8 s.hiveTime)))

/-- FENCE begins; it ends once the drain descriptors accepted before it have produced their completions. -/
def execFence (s : State) : Host.Outcome State Fault Refusal :=
  .next (s.runCommand 4 (fun c =>
    { s with host := { s.host with
      fence := some (c, s.host.drains.map DrainDesc.tally), accepted := s.host.accepted.drop 1 } }.settleFence.settleTally))

/-- DRAIN_ABORT: each descriptor discarded produces an ABORTED completion. -/
def execDrainAbort (s : State) : Host.Outcome State Fault Refusal :=
  .next (s.runCommand 5 (fun c =>
    let l := s.abortable (c.bytes.getD 0x10 0).toNat
    (l.foldl (fun t d => t.endDrain d 6) s).endCommand c 0 l.length []))

/-- BAD_OPCODE. -/
def execBadOpcode (s : State) : Host.Outcome State Fault Refusal :=
  .next (match s.commandNow with
    | none => s
    | some c => if s.opcodeKnown c.opcode then s else s.endCommand c 3 0 [])

/-! ### Drains -/

/-- DRAIN_BLOCK of the reader of super `u`. -/
def execDrainBlock (u : Nat) (s : State) : Host.Outcome State Fault Refusal := s.on (.dram u 0) (s.drainBlock u)

/-! ### The link -/

/-- FUNCTION_LEVEL_RESET. -/
def execFunctionLevelReset (s : State) : Host.Outcome State Fault Refusal :=
  .next ((s.dropHost.bump .host R.HOST_RESETS_FLR 1).putF .hive R.HIVE_BOOT_LAST_RESET 4)

/-- HOST_LINK_LOSS, or a hot reset (DEDUCED, log entry 95). -/
def execHostLinkLoss (s : State) : Host.Outcome State Fault Refusal :=
  let t := (s.clearRegs .host 0x100 0x104).dropHost
  let t := (t.bump .host R.HOST_RESETS_LINK 1).bump .host R.HOST_LINK_COUNT_DOWNS 1
  .next { t with host := { t.host with linkNews := true } }

/-- HOST_LINK.UP: the link is up, and the function in D0. -/
def State.showLink (s : State) : State :=
  (s.putF .host R.HOST_LINK_UP (flag (s.isSet .host R.HOST_LINK_SPEED && !s.host.d3))).showHost

/-- A link change that is still to be reported is, once the hive may issue requests (R488). -/
def State.reportLink (s : State) : State :=
  if s.busMaster && s.host.linkNews then { s with host := { s.host with linkNews := false } }.raise .host 4 else s

/-- LINK_CHANGED: the link has trained, at a rate and width. -/
def execLinkChanged (speed width : Nat) (flit reversed : Bool) (s : State) : Host.Outcome State Fault Refusal :=
  let lower := s.isSet .host R.HOST_LINK_SPEED
    && (decide (speed % 8 < s.getF .host R.HOST_LINK_SPEED) || decide (width % 32 < s.getF .host R.HOST_LINK_WIDTH))
  let t := (s.putF .host R.HOST_LINK_SPEED speed).putF .host R.HOST_LINK_WIDTH width
  let t := (t.putF .host R.HOST_LINK_FLIT (flag flit)).putF .host R.HOST_LINK_REVERSED (flag reversed)
  let t := if lower then
      { t with host := { t.host with linkNews := true } }.bump .host R.HOST_LINK_COUNT_RETRAINS 1
    else t
  .next t.showLink.reportLink

/-- BUS_MASTER_ENABLE: Bus Master Enable and the D-state take new values (R454). -/
def execBusMasterEnable (bme d3 : Bool) (s : State) : Host.Outcome State Fault Refusal :=
  let t := { s with host := { s.host with bme := bme, d3 := d3 }, busMaster := bme && !d3 }
  .next t.showLink.reportLink.serveVectors

end Sys2Proof.Machine
end

