-- ==== Sys2Proof/Machine/Pods.lean ====
section
/-!
DEFINITION. Pod links (chapter 04): the command lane, link-up, lanes and their loss, what an apply of a POD page starts,
and the data blocks of both modes. The lanes of a link are held as the hive uses them, after an exchange (R133); the
error counters follow the lane as it is wired.
-/
namespace Sys2Proof.Machine

/-! ### Frames and replies -/

/-- CRC-8 with polynomial x^8 + x^2 + x + 1 and initial value 0, over bytes from bit 7 down (R134, R137). -/
def crc8 (l : List Byte) : Nat :=
  l.foldl (fun c b => (List.range 8).foldl (fun c _ =>
    if bitOf c 7 then (2 * c) % 256 ^^^ 0x07 else 2 * c) (c ^^^ b.toNat)) 0

/-- The bytes of a command frame between K27.7 and K29.7 (R137). -/
def frameBytes (kind word tally : Nat) : List Byte :=
  let l := leBytes 1 tally ++ leBytes 1 (16 * kind + tally / 256 % 16) ++ leBytes 4 word
  l ++ leBytes 1 (crc8 l)

/-- The CRC field of a STATUS block matches its bits 63:16 (R134). -/
def statusGood (payload : Nat) : Bool :=
  crc8 ((leBytes 8 payload).drop 2).reverse == bitsOf payload 15 8

/-! ### What the registers show -/

def State.podState (s : State) (u f : Nat) : Nat := s.getF (.pod u f) R.POD_LINK_STATUS_STATE

/-- POD_LINK_STATUS follows the link: STATE, the lanes that deliver, PAGE_STATUS.FAULT and BLOCK_STATUS. -/
def State.showPod (s : State) (u f st : Nat) : State :=
  let p := Page.pod u f
  let x := s.pod u f
  let t := s.putF p R.POD_LINK_STATUS_STATE st
  let t := t.putF p R.POD_LINK_STATUS_LANE_A_UP (flag x.laneA.delivering)
  let t := t.putF p R.POD_LINK_STATUS_LANE_B_UP (flag x.laneB.delivering)
  let t := t.putF p R.PAGE_STATUS_FAULT (flag (st == 8))
  t.putF p R.PAGE_STATUS_BLOCK_STATUS (flag (st == 6) + 2 * flag (st == 7))

/-- The link is UP or ONE_LANE. -/
def State.podUp (s : State) (u f : Nat) : Bool := s.podState u f == 6 || s.podState u f == 7

/-- The lane's cells have a place in the pod's record after an exchange (R133) (DEDUCED, log entry 48). -/
def State.laneOf (s : State) (u f : Nat) (l : Lane) : Lane :=
  if s.isSet (.pod u f) R.POD_LINK_STATUS_SWAPPED then otherLane l else l

/-- The index of a lane in POD_SYNC_ERR and POD_LANE_ERR. -/
def laneIx : Lane → Nat
  | .a => 0
  | .b => 1

/-! ### The command lane (R139, R142) -/

/-- A command frame is driven. -/
def State.podFrame (s : State) (u f kind word tally : Nat) : State :=
  s.emit (.podCommand (unitIx u f) (frameBytes kind word tally))

/-- A new command is sent at once, with the next tally. -/
def State.podSendNow (s : State) (u f kind word : Nat) : State :=
  let x := s.pod u f
  let t := s.setPod u f { x with cmd := some ⟨kind, word, x.tally, 0⟩, tally := (x.tally + 1) % 4096 }
  let t := t.podFrame u f kind word x.tally
  if kind = 0 then t.putF (.pod u f) R.POD_CMD_CTRL_TALLY x.tally else t

/-- A new command is sent, or waits for the answer to the one before (R142). -/
def State.podSend (s : State) (u f kind word : Nat) : State :=
  let x := s.pod u f
  if x.cmd.isNone then s.podSendNow u f kind word
  else if x.waiting.contains (kind, word) ∧ kind ≠ 0 then s
  else s.setPod u f { x with waiting := x.waiting ++ [(kind, word)] }

/-- The command under way is over, and the next one waiting is sent. -/
def State.podNext (s : State) (u f : Nat) : State :=
  let x := s.pod u f
  match x.waiting with
  | [] => s.setPod u f { x with cmd := none }
  | c :: rest => (s.setPod u f { x with cmd := none, waiting := rest }).podSendNow u f c.1 c.2

/-- A POD command ends with a RESULT. -/
def State.podResult (s : State) (u f result : Nat) : State :=
  (s.putF (.pod u f) R.POD_CMD_CTRL_RESULT result).putF (.pod u f) R.POD_CMD_CTRL_BUSY 0

/-- The versions that POD_LINK_CTRL.VERSIONS offers, as the version set of OFFER (R147). -/
def State.podOffer (s : State) (u f : Nat) : Nat := 2 * s.getF (.pod u f) R.POD_LINK_CTRL_VERSIONS

/-! ### Link-up and link down -/

/-- A lane begins training: it has no lock, no place in its data, and delivers nothing more. -/
def LaneSt.train (x : LaneSt) : LaneSt :=
  { x with lock := false, errors := [], marked := false, expect := none, slip := none, markAt := none,
           delivering := false, group := none, skipGroup := false }

/-- A POD command that waits or is unanswered ends as its link goes down (R161). -/
def State.dropPodCommands (s : State) (u f : Nat) : State :=
  let x := s.pod u f
  let t := s.setPod u f { x with cmd := none, waiting := [], modeWanted := none }
  if s.isSet (.pod u f) R.POD_CMD_CTRL_BUSY then t.podResult u f 6 else t

/-- The link stands in a state in which nothing is delivered, and the next link-up is RETRY_MS away (R145)
(DEDUCED, log entry 50). -/
def State.podDown (s : State) (u f st : Nat) : State :=
  let t := s.dropPodCommands u f
  let x := t.pod u f
  let t := t.setPod u f { x with
    laneA := x.laneA.train, laneB := x.laneB.train, offerAt := none
    retryFrom := if s.enabled (.pod u f) then some s.hiveTime else none }
  (t.putF (.pod u f) R.POD_LINK_STATUS_VERSION 0).showPod u f st

/-- The link is lost, or taken down (R156): link down is raised for a link that was UP or ONE_LANE. -/
def State.linkLoss (s : State) (u f : Nat) : State :=
  let up := s.podUp u f
  let t := s.podDown u f 0
  if up then (t.raise (.pod u f) 1).catchUp u f else t

/-- A link-up begins: K28.5 on the command lane, and no lane delivers (R145). -/
def State.startLinkUp (s : State) (u f : Nat) : State :=
  let t := s.podDown u f 1
  let t := t.setPod u f { t.pod u f with retryFrom := none, driven := true }
  t.putF (.pod u f) R.POD_LINK_STATUS_SWAPPED 0

/-- A link-up fails, as a mismatch or otherwise (R144, R148). -/
def State.linkUpFails (s : State) (u f : Nat) (mismatch : Bool) : State :=
  let t := s.podDown u f (if mismatch then 8 else 0)
  if mismatch then t.raise (.pod u f) 2 else t

/-- OFFER (R147), or a mismatch when no version is offered (R148) (DEDUCED, log entry 46). -/
def State.sendOffer (s : State) (u f : Nat) : State :=
  let offer := s.podOffer u f
  if offer = 0 then s.linkUpFails u f true
  else
    let t := s.setPod u f { s.pod u f with tally := 0, cmd := none, waiting := [], offerAt := some s.hiveTime }
    t.podSendNow u f 1 offer

/-- START with the version chosen and the applied mode (R149). -/
def State.sendStart (s : State) (u f version : Nat) : State :=
  s.podSend u f 2 (version + 16 * s.getF (.pod u f) R.POD_LINK_CTRL_MODE)

/-- A change of mode on an up link (R151). -/
def State.sendMode (s : State) (u f : Nat) : State :=
  if s.podUp u f && !s.inTake && s.getF (.pod u f) R.POD_LINK_CTRL_MODE != s.getF (.pod u f) R.POD_LINK_STATUS_MODE then
    s.podSend u f 3 (16 * s.getF (.pod u f) R.POD_LINK_CTRL_MODE)
  else s

/-- LANE_TRAIN for the lost lane of a link in ONE_LANE (R157). -/
def State.laneTrain (s : State) (u f : Nat) : State :=
  let x := s.pod u f
  if s.podState u f = 7 ∧ s.isSet (.pod u f) R.POD_LINK_CTRL_AUTO_RETRAIN then
    let t := s.podSend u f 4 (flag (!x.laneA.delivering) + 2 * flag (!x.laneB.delivering))
    t.setPod u f { t.pod u f with retryFrom := some s.hiveTime }
  else s

/-- POD_LINK_TIMING.RETRY_MS in ticks; 0 acts as 1. -/
def State.podRetry (s : State) (u f : Nat) : Nat :=
  max 1 (s.getF (.pod u f) R.POD_LINK_TIMING_RETRY_MS) * 1000 * ticksPerUs

/-- A POD page is applied: an invalid MODE is not applied, and ENABLE, MODE and AUTO_RETRAIN act (R145, R151, R157,
R158). -/
def State.applyPod (s : State) (u f : Nat) : State :=
  let p := Page.pod u f
  let was := s.enabled p
  let bad := decide (2 ≤ s.getShadowF p R.POD_LINK_CTRL_MODE)
  let retrain := s.isSet p R.POD_LINK_CTRL_AUTO_RETRAIN
  let t := s.copyToActive (fun p o =>
    if bad ∧ o = 0x100 then shadowMask p o &&& 0xFFFFFFFC else shadowMask p o) p
  let now := t.enabled p
  if now && !was then t.startLinkUp u f
  else if was && !now then
    let t := t.linkLoss u f
    t.setPod u f { t.pod u f with driven := false }
  else
    let t := t.sendMode u f
    if t.isSet p R.POD_LINK_CTRL_AUTO_RETRAIN && !retrain then t.laneTrain u f else t

/-! ### Lanes up and down -/

/-- A lane is lost (R155): its cells have nothing from the first slot that it did not deliver; the link runs on with the
other lane, or is lost too (R156, R157). -/
def State.loseLane (s : State) (u f : Nat) (l : Lane) : State :=
  let x := s.pod u f
  let up := (x.lane l).delivering
  let t := s.setPod u f (x.setLane l (x.lane l).train)
  if !up then t
  else if (x.lane (otherLane l)).delivering then
    (((t.showPod u f 7).raise (.pod u f) 1).laneTrain u f).catchUp u f
  else t.linkLoss u f

/-- Block times by which lane B arrives after lane A, from the latest MARKER of each: the ticks at which they came less
the slots that lie between them. A block is 66 bits at 17.5 bits per hive slot in version 2, half as fast in
version 1; the quotient is rounded to the nearest whole number (POD_SKEW, R132) (DEDUCED, log entry 51). -/
def PodSt.skew (x : PodSt) (version : Nat) : Option Int :=
  match x.laneA.markAt, x.laneB.markAt with
  | some a, some b =>
    let den : Int := if version = 1 then 2112 else 1056
    let late : Int := ((b.2 : Int) - (a.2 : Int)) - 8 * signedOf 48 (b.1 + 2 ^ 48 - a.1)
    some ((2 * 35 * late + den) / (2 * den))
  | _, _ => none

/-- The lanes can be brought into line: their skew is known and at most 48 blocks (R132). -/
def PodSt.aligned (x : PodSt) (version : Nat) : Bool :=
  match x.skew version with
  | none => false
  | some k => decide (-48 ≤ k) && decide (k ≤ 48)

/-- POD_SKEW shows the skew measured. -/
def State.showSkew (s : State) (u f : Nat) : State :=
  match (s.pod u f).skew (s.linkVersion u f) with
  | none => s
  | some k => s.putF (.pod u f) R.POD_SKEW_SKEW (saturatedSigned 16 k)

/-- A lane begins to deliver, with the arrival phase measured (R150, R167). -/
def State.deliverLane (s : State) (u f : Nat) (l : Lane) : State :=
  let x := s.pod u f
  let p := Page.frame u f
  let phase := (x.lane l).phase
  let t := s.setPod u f (x.setLane l { x.lane l with delivering := true, newest := 4 * s.beatNow })
  match l with
  | .a => (t.putF p R.FRAME_ALIGN_STATUS_PHASE_A phase).putF p R.FRAME_ALIGN_STATUS_VALID_A 1
  | .b => (t.putF p R.FRAME_ALIGN_STATUS_PHASE_B phase).putF p R.FRAME_ALIGN_STATUS_VALID_B 1

/-- The MARKERs show the lanes crossed: the hive exchanges them (R133) (DEDUCED, log entry 49). -/
def State.swapLanes (s : State) (u f : Nat) : State :=
  let x := s.pod u f
  if x.laneA.seen = 1 ∧ x.laneB.seen = 0 then
    (s.setPod u f { x with laneA := x.laneB, laneB := x.laneA }).putF (.pod u f) R.POD_LINK_STATUS_SWAPPED
      (flag (!s.isSet (.pod u f) R.POD_LINK_STATUS_SWAPPED))
  else s

/-- POD_LINK_STATUS.MODE is set once the MARKERs of every lane that delivers show the mode asked for (R151). -/
def State.showMode (s : State) (u f : Nat) : State :=
  let x := s.pod u f
  match x.modeWanted with
  | none => s
  | some m =>
    if (!x.laneA.delivering || x.laneA.mode == m) && (!x.laneB.delivering || x.laneB.mode == m) then
      (s.setPod u f { x with modeWanted := none }).putF (.pod u f) R.POD_LINK_STATUS_MODE m
    else s

/-- Lanes that hold block lock and have delivered a MARKER that passes come up (R150, R157): the link as a whole during
a link-up, or the lost lane (DEDUCED, log entry 52). -/
def State.tryUp (s : State) (u f : Nat) : State :=
  let x := s.pod u f
  let ready := fun (l : LaneSt) => l.lock && l.marked
  let st := s.podState u f
  if !(x.aligned (s.linkVersion u f)) then s
  else if (st = 4 ∨ st = 5) ∧ ready x.laneA ∧ ready x.laneB then
    let t := s.swapLanes u f
    let t := (t.deliverLane u f .a).deliverLane u f .b
    let t := t.putF (.pod u f) R.POD_LINK_STATUS_MODE (t.pod u f).laneA.mode
    let t := t.setPod u f { t.pod u f with offerAt := none, retryFrom := none }
    ((t.showPod u f 6).raise (.pod u f) 0).sendMode u f
  else if st = 7 ∧ s.isSet (.pod u f) R.POD_LINK_CTRL_AUTO_RETRAIN ∧ ready x.laneA ∧ ready x.laneB then
    let t := if x.laneA.delivering then s.deliverLane u f .b else s.deliverLane u f .a
    let t := t.setPod u f { t.pod u f with retryFrom := none }
    (t.showPod u f 6).raise (.pod u f) 0
  else s

/-! ### Blocks -/

/-- A block with a good or bad sync header: block lock is lost after 16 errors within 64 headers (R150). -/
def State.header (s : State) (u f : Nat) (l : Lane) (bad : Bool) : State :=
  let x := s.pod u f
  s.setPod u f (x.setLane l { x.lane l with errors := (bad :: (x.lane l).errors).take 64 })

/-- 16 sync errors stand among the last 64 headers. -/
def LaneSt.lockGone (x : LaneSt) : Bool := x.lock && decide (16 ≤ (x.errors.filter id).length)

/-- The lane loses block lock: counted, and the lane is lost (R150, R155). `wire` is the lane as it is wired. -/
def State.loseLock (s : State) (u f : Nat) (wire : Lane) : State :=
  (s.bump (.pod u f) (R.POD_LANE_ERR_LOCK_LOSS (laneIx wire)) 1).loseLane u f (s.laneOf u f wire)

/-- Entries of a data block in state mode, and cells on the lane (R126, R127). -/
def blockEntries (version : Nat) : Nat := blockSlots version

/-- The place after one more data block (R130, R126); none where it cannot be told. In state mode the payload of a
block at place 0 is the bitmap, unless it had a sync error. -/
def Place.next (p : Place) (version mode payload : Nat) (bad : Bool) : Option Place :=
  if mode = 0 then some ⟨(p.slot + blockSlots version) % 2 ^ 48, 0, 0⟩
  else
    let total := if p.pos = 0 then (if bad then 0 else 1 + ceilDiv (popCount 64 payload) (blockEntries version)) else p.total
    if total = 0 then none
    else if p.pos + 1 = total then some ⟨(p.slot + 64) % 2 ^ 48, 0, 0⟩
    else some ⟨p.slot, p.pos + 1, total⟩

/-- The base slots of a timing-mode data block completed in beat `b` (R125, R166). -/
def timingSlots (version phase b payload : Nat) (good : Bool) : List BaseSlot :=
  let w := laneCells version
  (List.range (blockSlots version)).map (fun j =>
    ⟨4 * b + j, bitsOf payload (w * j + w - 1) (w * j), phase, true, good⟩)

/-- The slots of a group that hold a state, rising. -/
def Group.stateSlots (g : Group) : List Nat := bitsSet 64 g.bitmap

/-- The least base slot of the group whose state has not come yet. -/
def Group.reached (g : Group) : Nat :=
  match g.stateSlots.drop g.taken with
  | [] => g.base + 64
  | k :: _ => g.base + k

/-- The base slots of a group without a state. -/
def Group.emptySlots (g : Group) (phase : Nat) : List BaseSlot :=
  ((List.range 64).filter (fun k => !bitOf g.bitmap k)).map (fun k => ⟨g.base + k, 0, phase, false, true⟩)

/-- The base slots of the next data block of a group (R127). -/
def Group.blockStates (g : Group) (version phase payload : Nat) : List BaseSlot :=
  let w := laneCells version
  ((g.stateSlots.drop g.taken).take (blockEntries version)).zipIdx.map (fun e =>
    ⟨g.base + e.1, bitsOf payload (w * e.2 + w - 1) (w * e.2), phase, true, true⟩)

/-- Slots join a lane's alignment buffer; those far behind can serve no cell any more. -/
def LaneSt.add (x : LaneSt) (l : List BaseSlot) (newest : Nat) : LaneSt :=
  { x with
    buffer := (x.buffer.filter (fun b => decide (newest ≤ b.n + 512))) ++ l
    newest := max x.newest newest }

/-- A timing-mode data block reaches the cells. -/
def LaneSt.timingBlock (x : LaneSt) (version b payload : Nat) (bad : Bool) : LaneSt :=
  x.add (timingSlots version x.phase b payload (!bad)) (4 * b + blockSlots version)

/-- A state-mode data block at a known place: the bitmap of a group whose slot 0 has base slot 4 × b, or its next states
(R126, R127, R166) (DEDUCED, log entry 54). -/
def LaneSt.stateBlock (x : LaneSt) (version b pos payload : Nat) : LaneSt :=
  if pos = 0 then
    let g : Group := ⟨4 * b, payload, 0⟩
    let y := x.add (g.emptySlots x.phase) g.reached
    { y with group := some g, bitmaps := (x.bitmaps.filter (fun e => decide (g.base ≤ e.1 + 512))) ++ [(g.base, payload)] }
  else
    match x.group with
    | none => x
    | some g =>
      let h := { g with taken := g.taken + blockEntries version }
      { x.add (g.blockStates version x.phase payload) h.reached with group := some h }

/-- A sync error in state mode (R153): nothing of the group under way counts, nor anything more up to the next MARKER
that passes (DEDUCED, log entry 55). -/
def LaneSt.stateError (x : LaneSt) (version pos : Nat) : LaneSt :=
  let spoil := fun (base : Nat) (l : List BaseSlot) => l.map (fun (b : BaseSlot) => if base ≤ b.n then { b with good := false } else b)
  match x.group with
  | some g =>
    if pos = 0 then { x with group := none, skipGroup := true }
    else { x with
      skipGroup := true, buffer := spoil g.base x.buffer
      group := some { g with taken := g.taken + blockEntries version } }
  | none => { x with skipGroup := true }

/-- While the state-mode data of a group is skipped, its blocks are counted all the same. -/
def LaneSt.skipBlock (x : LaneSt) (version pos : Nat) : LaneSt :=
  if pos = 0 then { x with group := none }
  else match x.group with
    | none => x
    | some g => { x with group := some { g with taken := g.taken + blockEntries version } }

/-- A data block moves the lane's places on, and its slots go to the cells while the lane delivers (R125, R126, R153). -/
def LaneSt.dataBlock (x : LaneSt) (version b payload : Nat) (bad : Bool) : LaneSt :=
  let step := fun (p : Option Place) => p.bind (fun p => p.next version x.mode payload bad)
  let y := { x with expect := step x.expect, slip := step x.slip }
  if !x.delivering then y
  else if x.mode = 0 then y.timingBlock version b payload bad
  else match x.expect with
    | none => { y with skipGroup := true, group := none }
    | some p =>
      if bad then y.stateError version p.pos
      else if x.skipGroup then y.skipBlock version p.pos
      else y.stateBlock version b p.pos payload

/-- States that a bitmap may set in a version (R128). -/
def stateLimit (version : Nat) : Nat := if version = 1 then 56 else 60

/-- A group's bitmap is judged as it arrives (R129, R173): too many states are counted, and so is a disagreement of the
lanes. -/
def State.judgeBitmap (s : State) (u f : Nat) (l : Lane) (base payload : Nat) : State :=
  let t := if stateLimit (s.linkVersion u f) < popCount 64 payload then
      s.bump (.pod u f) R.POD_STATUS_ERR_STATE_OVER 1 else s
  match ((s.pod u f).lane (otherLane l)).bitmaps.find? (fun e => e.1 == base) with
  | none => t
  | some e =>
    if ((s.pod u f).lane (otherLane l)).delivering && e.2 != payload then t.bump (.frame u f) R.FRAME_STATE_ERR_MISMATCH 1 else t

end Sys2Proof.Machine
end

