-- ==== Sys2Proof/Machine/PodCmds.lean ====
section
/-!
DEFINITION. The blocks that pods send and the steps of pod links (chapter 04). `lane` operands name the lane as it is
wired.
-/
namespace Sys2Proof.Machine

/-- What a pod does reaches the frame and, through it, the sequencers. -/
def State.afterPod (s : State) (u f : Nat) : State := (s.catchUp u f).settleSeqs

/-- A command on pod link `f` of super `u`. -/
def State.onPod (s : State) (u f : Nat) (t : State) : Host.Outcome State Fault Refusal :=
  s.on (.pod u f) (t.afterPod u f)

/-! ### Link-up -/

/-- LINK_RETRY: RETRY_MS have passed (R145). -/
def execLinkRetry (u f : Nat) (s : State) : Host.Outcome State Fault Refusal :=
  s.onPod u f (
    match (s.pod u f).retryFrom with
    | some a =>
      if s.enabled (.pod u f) ∧ (s.podState u f = 0 ∨ s.podState u f = 8) then
        (s.advanceTo (a + s.podRetry u f)).startLinkUp u f
      else s
    | none => s)

/-- A lane has locked: the link-up goes on once both lanes have (R145, R150). -/
def State.laneLocked (s : State) (u f : Nat) : State :=
  let both := (s.pod u f).laneA.lock && (s.pod u f).laneB.lock
  match s.podState u f with
  | 1 => if both then (s.showPod u f 3).sendOffer u f else s.showPod u f 2
  | 2 => if both then (s.showPod u f 3).sendOffer u f else s
  | 4 => if both then s.showPod u f 5 else s
  | _ => s

/-- BLOCK_LOCK of a lane (R150): at the base rate OFFER follows once both lanes have it, at the full rate the link is
aligned (DEDUCED, log entry 45). -/
def execBlockLock (u f : Nat) (lane : Lane) (s : State) : Host.Outcome State Fault Refusal :=
  s.onPod u f (
    if s.enabled (.pod u f) ∧ (s.pod u f).driven then
      let l := s.laneOf u f lane
      let x := s.pod u f
      (s.setPod u f (x.setLane l { x.lane l with lock := true, errors := [] })).laneLocked u f
    else s)

/-- LINK_UP_ABANDON: 5 ms have passed since OFFER (R150). -/
def execLinkUpAbandon (u f : Nat) (s : State) : Host.Outcome State Fault Refusal :=
  s.onPod u f (
    match (s.pod u f).offerAt with
    | some a => (s.advanceTo (a + 5000 * ticksPerUs)).linkUpFails u f false
    | none => s)

/-! ### The command lane -/

/-- The highest version in a version set of bits 1 and 2 (R147). -/
def highestVersion (set : Nat) : Nat := if bitOf set 2 then 2 else if bitOf set 1 then 1 else 0

/-- ACCEPT answers OFFER (R147, R148). -/
def State.accepted (s : State) (u f word : Nat) (data : Nat) : State :=
  let set := bitsOf data 7 0
  let t := (s.putF (.pod u f) R.POD_LINK_STATUS_POD_SET set).podNext u f
  let best := highestVersion (word &&& set)
  if best = 0 ∨ bitsOf data 11 8 ≠ best then t.linkUpFails u f true else t.sendStart u f best

/-- START is acknowledged (R149): both lanes train at the rate of the chosen version. -/
def State.started (s : State) (u f word : Nat) : State :=
  let t := (s.podNext u f).putF (.pod u f) R.POD_LINK_STATUS_VERSION (bitsOf word 1 0)
  let x := t.pod u f
  (t.setPod u f { x with laneA := x.laneA.train, laneB := x.laneB.train }).showPod u f 4

/-- The command is sent again, or has failed after three resends (R143, R144). -/
def State.resend (s : State) (u f : Nat) : State :=
  let x := s.pod u f
  match x.cmd with
  | none => s
  | some c =>
    if c.resends < 3 then
      (s.setPod u f { x with cmd := some { c with resends := c.resends + 1 } }).podFrame u f c.kind c.word c.tally
    else if c.kind = 0 then (s.podResult u f 5).podNext u f
    else if c.kind = 1 ∨ c.kind = 2 then s.linkUpFails u f false
    else s.linkLoss u f

/-- A good STATUS block's CODE and DATA, for the command that it answers (R136, R138). A reply of a code that the
command does not expect is no good reply (DEDUCED, log entry 47). -/
def State.podReply (s : State) (u f code data : Nat) (c : PodCmd) : State :=
  match c.kind, code with
  | _, 2 => s.resend u f
  | _, 4 => s.resend u f
  | 0, 0 => ((s.putF (.pod u f) R.POD_CMD_REPLY_DATA data).podResult u f 1).podNext u f
  | 0, 1 => ((s.putF (.pod u f) R.POD_CMD_REPLY_DATA data).podResult u f 2).podNext u f
  | 0, 3 => ((s.putF (.pod u f) R.POD_CMD_REPLY_DATA data).podResult u f 3).podNext u f
  | 0, 6 => ((s.putF (.pod u f) R.POD_CMD_REPLY_DATA data).podResult u f 4).podNext u f
  | 1, 5 => s.accepted u f c.word data
  | 2, 0 => s.started u f c.word
  | 3, 0 =>
    let t := s.podNext u f
    t.setPod u f { t.pod u f with modeWanted := some (bitsOf c.word 5 4) }
  | 4, 0 => s.podNext u f
  | _, _ => s

/-- STATUS: a STATUS block with its 64 payload bits (R134 to R136). A NAK_CRC may carry the tally zero. -/
def execStatus (u f : Nat) (lane : Lane) (payload : Nat) (s : State) : Host.Outcome State Fault Refusal :=
  s.onPod u f (
    if s.enabled (.pod u f) then
      let t := s.header u f (s.laneOf u f lane) false
      let code := bitsOf payload 51 48
      let data := bitsOf payload 47 16
      let tally := bitsOf payload 63 52
      if !statusGood payload then
        ((t.bump (.pod u f) R.POD_STATUS_ERR_CRC_ERR 1).raise (.pod u f) 3).resend u f
      else if code = 15 then t.putF (.pod u f) R.POD_CMD_UNSOL_DATA data
      else match (t.pod u f).cmd with
        | none => t
        | some c => if c.tally = tally ∨ (code = 2 ∧ tally = 0) then t.podReply u f code data c else t
    else s)

/-- REPLY_TIMEOUT: no good reply within REPLY_US (R143). -/
def execReplyTimeout (u f : Nat) (s : State) : Host.Outcome State Fault Refusal := s.onPod u f (s.resend u f)

/-- A write of 1 to POD_CMD_CTRL.SEND. -/
def State.podCommandSend (s : State) (u f : Nat) : State :=
  let p := Page.pod u f
  if s.isSet p R.POD_CMD_CTRL_BUSY || !s.podUp u f then s
  else
    ((s.putF p R.POD_CMD_CTRL_BUSY 1).putF p R.POD_CMD_CTRL_RESULT 0).podSend u f 0 (s.getF p R.POD_CMD_WORD_WORD)

/-- POD_CMD_SEND. -/
def execPodCmdSend (u f : Nat) (s : State) : Host.Outcome State Fault Refusal := s.onPod u f (s.podCommandSend u f)

/-! ### Blocks -/

/-- IDLE: discarded (R121). -/
def execIdle (u f : Nat) (lane : Lane) (s : State) : Host.Outcome State Fault Refusal :=
  s.onPod u f (if s.enabled (.pod u f) then s.header u f (s.laneOf u f lane) false else s)

/-- A type error is counted and its block discarded (R121, R130). -/
def State.typeError (s : State) (u f : Nat) (lane : Lane) : State :=
  (s.header u f (s.laneOf u f lane) false).bump (.pod u f) (R.POD_LANE_ERR_TYPE_ERR (laneIx lane)) 1

/-- TYPE_ERROR. -/
def execTypeError (u f : Nat) (lane : Lane) (s : State) : Host.Outcome State Fault Refusal :=
  s.onPod u f (if s.enabled (.pod u f) then s.typeError u f lane else s)

/-- A MARKER agrees with a place when that is known (R131). -/
def placeAgrees (p : Option Place) (slot pos : Nat) : Bool :=
  match p with
  | none => true
  | some p => p.slot == slot && p.pos == pos

/-- A MARKER that passes R131: the lane's place is known from it, and state-mode data counts again where the place of
the next data block can be told (R153). -/
def LaneSt.pass (x : LaneSt) (slot pos laneId mode phase tick version newest : Nat) : LaneSt :=
  let total := match x.expect with | none => 0 | some p => p.total
  let place : Option Place := if mode = 1 ∧ pos ≠ 0 ∧ total = 0 then none else some ⟨slot, pos, total⟩
  let lost := decide (mode = 1) && decide (pos ≠ 0) && (place.isNone || x.group.isNone)
  { x with
    marked := true, expect := place, slip := none, seen := laneId, mode := mode
    phase := if x.delivering then x.phase else phase % 8
    markAt := some ((slot + pos * blockSlots version) % 2 ^ 48, tick)
    group := if pos = 0 then none else x.group
    skipGroup := lost
    newest := if x.skipGroup && !lost then max x.newest newest else x.newest }

/-- A MARKER that disagrees (R131): counted and ignored, unless it agrees with the disagreeing one before; then the lane
has slipped, is realigned to it, and is lost (R155) (DEDUCED, log entry 53). -/
def State.disagree (s : State) (u f : Nat) (lane : Lane) (slot pos : Nat) : State :=
  let l := s.laneOf u f lane
  let x := s.pod u f
  let t := s.bump (.pod u f) (R.POD_LANE_ERR_SLIP (laneIx lane)) 1
  if (x.lane l).slip.isSome && placeAgrees (x.lane l).slip slot pos then
    let t := t.setPod u f (x.setLane l { x.lane l with expect := some ⟨slot, pos, 0⟩, slip := none })
    if (x.lane l).delivering then t.loseLane u f l else t
  else t.setPod u f (x.setLane l { x.lane l with slip := some ⟨slot, pos, 0⟩ })

/-- The skew of a link that is UP has grown beyond 48 blocks: the receive buffer of the earlier-arriving lane overflows, and
that lane is lost (R132, R155). -/
def State.dropSkewed (s : State) (u f : Nat) : State :=
  let lose := fun (l : Lane) =>
    (s.bump (.pod u f) (R.POD_LANE_ERR_BUF_ERR (laneIx (s.laneOf u f l))) 1).loseLane u f l
  if s.podState u f = 6 then
    match (s.pod u f).skew (s.linkVersion u f) with
    | none => s
    | some k => if 48 < k then lose .a else if k < -48 then lose .b else s
  else s

/-- MARKER: its fields, the tick at which it arrived, and the arrival phase of its lane (R130 to R133, R150). -/
def execMarker (u f : Nat) (lane : Lane) (slot pos laneId mode phase tick : Nat) (s : State) :
    Host.Outcome State Fault Refusal :=
  s.onPod u f (
    let s := s.advanceTo tick
    if !s.enabled (.pod u f) then s
    else if 2 ≤ laneId ∨ 2 ≤ mode then s.typeError u f lane
    else
      let l := s.laneOf u f lane
      let t := s.header u f l false
      let x := t.pod u f
      if s.linkVersion u f = 0 ∨ !(x.lane l).lock then t
      else if placeAgrees (x.lane l).expect slot pos then
        let t := t.setPod u f (x.setLane l
          ((x.lane l).pass slot pos laneId mode phase tick (s.linkVersion u f) (4 * t.beatNow)))
        (((t.showSkew u f).tryUp u f).showMode u f).dropSkewed u f
      else t.disagree u f lane slot pos)

/-- DATA_BLOCK completed in beat `beat`, with its 64 payload bits and whether its sync header was in error (R125, R126,
R153, R166). -/
def execDataBlock (u f : Nat) (lane : Lane) (beat payload : Nat) (syncError : Bool) (s : State) :
    Host.Outcome State Fault Refusal :=
  s.onPod u f (
    let s := s.advanceTo (32 * beat)
    if !s.enabled (.pod u f) then s
    else
      let l := s.laneOf u f lane
      let t := s.header u f l syncError
      let v := s.linkVersion u f
      let x := t.pod u f
      if v = 0 then t
      else
        let y := x.lane l
        let bitmap := y.delivering && y.mode == 1 && !syncError && !y.skipGroup &&
          (match y.expect with | none => false | some p => p.pos == 0)
        let t := if bitmap then t.judgeBitmap u f l (4 * beat) payload else t
        let t := t.setPod u f (x.setLane l (y.dataBlock v beat payload syncError))
        let t := if syncError then
            (t.bump (.pod u f) (R.POD_SYNC_ERR_COUNT (laneIx lane)) 1).raise (.frame u f) 5
          else t
        if ((t.pod u f).lane l).lockGone then t.loseLock u f lane else t)

/-! ### Losing lanes -/

/-- Why a lane is lost (R155). -/
def State.countLoss (s : State) (u f : Nat) (lane : Lane) : LaneFault → State
  | .lock => s.bump (.pod u f) (R.POD_LANE_ERR_LOCK_LOSS (laneIx lane)) 1
  | .overflow => s.bump (.pod u f) (R.POD_LANE_ERR_BUF_ERR (laneIx lane)) 1
  | .underflow => s.bump (.pod u f) (R.POD_LANE_ERR_BUF_ERR (laneIx lane)) 1
  | .slip => s

/-- LANE_LOSS of a lane (R155, R156). Block lock may be lost before the link is up; nothing else can be lost by a lane
that delivers nothing. -/
def execLaneLoss (u f : Nat) (lane : Lane) (cause : LaneFault) (s : State) : Host.Outcome State Fault Refusal :=
  s.onPod u f (
    let l := s.laneOf u f lane
    let x := (s.pod u f).lane l
    if x.delivering || (x.lock && cause == .lock) then (s.countLoss u f lane cause).loseLane u f l else s)

/-- LANE_RETRAIN_RETRY: RETRY_MS have passed and the lane has not returned (R157). -/
def execLaneRetrainRetry (u f : Nat) (s : State) : Host.Outcome State Fault Refusal :=
  s.onPod u f (
    match (s.pod u f).retryFrom with
    | some a => if s.podState u f = 7 then (s.advanceTo (a + s.podRetry u f)).laneTrain u f else s
    | none => s)

end Sys2Proof.Machine
end

