-- ==== Sys2Proof/Machine/Ring.lean ====
section
/-!
DEFINITION. The apiary ring (chapter 16): forming, containers and what is launched, common time, apiary flags, breaks
and wrapping, bypass and mail.
-/
namespace Sys2Proof.Machine

/-! ### States -/

/-- RING_STATUS.STATE: 0 OFF, 1 BYPASSED, 2 ELECT, 3 FORM, 4 UP, 5 WRAPPED. -/
def State.ringState (s : State) : Nat := s.getF .ring R.RING_STATUS_STATE

/-- STATE with BLOCK_STATUS bit 16. -/
def State.setRingState (s : State) (n : Nat) : State :=
  (s.putF .ring R.RING_STATUS_STATE n).putF .ring (blockBit 16) (flag (n == 4 || n == 5))

/-- The hive takes part: enabled and not bypassed (R525, R546). -/
def State.ringActive (s : State) : Bool := decide (2 ≤ s.ringState) && decide (s.ringState ≤ 5)

def State.isLeader (s : State) : Bool := s.isSet .ring R.RING_STATUS_LEADER
def State.position (s : State) : Nat := s.getF .ring R.RING_STATUS_POSITION
def State.hives (s : State) : Nat := s.getF .ring R.RING_STATUS_HIVES

def State.ringIn (s : State) (r : Nat) : RingIn := if r = 0 then s.ring.inA else s.ring.inB
def State.setRingIn (s : State) (r : Nat) (x : RingIn) : State :=
  if r = 0 then { s with ring := { s.ring with inA := x } } else { s with ring := { s.ring with inB := x } }

/-- The closed loop on which an output lies: on the joined loop of R544 there is one. -/
def State.loopOf (s : State) (r : Nat) : Nat := if s.ringState = 5 then 0 else r

/-- The loops on which each FLAG and CTRL container goes out: both rings, or twice on the joined loop (R524). -/
def State.bothLoops (s : State) : List Nat := if s.ringState = 5 then [0, 0] else [0, 1]

/-! ### Launching (R523) -/

/-- A container leaves on a loop: sent, and kept until it returns. The BODY of a TIME container is the hive time as it
leaves (R521). -/
def State.launchOn (s : State) (l : Nat) (m : RingMsg) : State :=
  let body := if m.kind = 2 then
      m.body.headD 0 :: (List.range 4).map (fun i => s.hiveTime / 2 ^ (16 * i) % 2 ^ 16) else m.body
  let t := s.emit (.ringWord l m.kind body)
  { t with ring := { t.ring with onLoop := t.ring.onLoop ++ [(l, { m with body := body, loops := [] })] } }

/-- The loop carries no container of the hive's own. -/
def State.loopFree (s : State) (l : Nat) : Bool := !s.ring.onLoop.any (fun e => e.1 == l)

/-- The waiting message that goes out next on a loop: LEAVE only after the launch queue is empty (R550). -/
def State.nextMsg (s : State) (l : Nat) : Option RingMsg :=
  s.ring.ctrl.find? (fun m => m.loops.contains l && !(m.type == 5 && !(s.afQueue.isEmpty && s.ring.flag.isNone)))

/-- Waiting messages are launched on the loops that are free. -/
def State.launchCtrl (s : State) : State :=
  if decide (3 ≤ s.ringState) && s.ringActive then
    [0, 1].foldl (fun t l =>
      if t.loopFree l then
        match t.nextMsg l with
        | none => t
        | some m =>
          let left := m.loops.erase l
          let rest := t.ring.ctrl.filterMap (fun x => if x = m then
            (if left.isEmpty then none else some { m with loops := left }) else some x)
          { t with ring := { t.ring with ctrl := rest } }.launchOn l m
      else t) s
  else s

/-- A CTRL message is sent (R521, R532): TYPE, TO and ARG. -/
def State.sendCtrl (s : State) (type dest arg : Nat) : State :=
  let head := placed s.position 15 11 ||| placed dest 10 6 ||| placed type 5 0
  let m : RingMsg := ⟨3, type,
    [head, s.ring.ctrlTally, arg % 2 ^ 16, arg / 2 ^ 16 % 2 ^ 16, arg / 2 ^ 32 % 2 ^ 16], s.bothLoops⟩
  let t := { s with ring := { s.ring with
    ctrlTally := (s.ring.ctrlTally + 1) % 2 ^ 16, ctrl := s.ring.ctrl ++ [m] } }
  t.launchCtrl

/-- A HELLO word goes out on ring `r` (R529). -/
def State.sendHello (s : State) (r sub data : Nat) : State := s.emit (.ringWord r 0 [sub * 4096 + data])

/-! ### Forming (R525, R526) -/

/-- MAIL messages that wait or have not come back: they are still to be delivered (R549). -/
def State.mails (s : State) : List RingMsg :=
  let l := (s.ring.ctrl ++ s.ring.onLoop.map Prod.snd).filter (fun m => m.kind == 3 && m.type == 6)
  (l.map (fun m => { m with loops := [0, 1] })).eraseDups

/-- Forming starts: hops, claims, contributions and figures start anew, with the settings applied by now
(DEDUCED, log entry 103). -/
def State.startForming (s : State) : State :=
  let uid := s.getF .ring R.RING_UID_LO_UID + 2 ^ 32 * s.getF .ring R.RING_UID_HI_UID
  let own : Option Claim := if s.isSet .ring R.RING_CTRL_LEADER_OK then
      some ⟨s.getF .ring R.RING_CTRL_PRIORITY, uid⟩ else none
  let t := (s.setRingState 2).putF .ring R.RING_STATUS_LEADER 0
  let t := ((t.putF .ring R.RING_STATUS_POSITION 0).putF .ring R.RING_AF_STATE_OWN 0).putF .ring R.RING_AF_STATE_VALUE 0
  { t with
    afLog := [], afQueue := []
    ring := { RingSt.reset with
      versions := s.getF .ring R.RING_CTRL_VERSIONS, own := own, leastDelay := s.getF .ring R.RING_AF_DELAY_BEATS
      best := own, ctrl := s.mails, flagTally := s.ring.flagTally, ctrlTally := s.ring.ctrlTally, timeTally := s.ring.timeTally
      leaving := s.ring.leaving, lastTime := s.hiveTime } }

/-- The RING page is enabled, or BYPASS released: the hive starts forming. Disabled, or bypassed, it takes no part. -/
def State.settleRing (s : State) : State :=
  if s.isSet .ring R.PAGE_CTRL_ENABLE && !s.isSet .ring R.RING_CTRL_BYPASS then
    if s.ringActive then s else s.startForming
  else if s.ringState = 1 then s
  else if s.isSet .ring R.PAGE_CTRL_ENABLE && s.ring.leaving.isSome then s
  else
    let t := ((s.setRingState 1).putF .ring R.RING_STATUS_LEADER 0).putF .ring R.RING_AF_STATE_VALUE 0
    { t with ring := { t.ring with flag := none, ctrl := t.mails, onLoop := [], noted := [], leaving := none }
             afQueue := [], afLog := [] }

/-- Claim `a` wins over `b` (R526). -/
def Claim.beats (a b : Claim) : Bool := decide (b.priority < a.priority) || (a.priority == b.priority && decide (a.uid < b.uid))

/-- The best of the claims that the hive has seen, and since when its own has been best on both inputs. -/
def State.settleClaim (s : State) : State :=
  let seen := [s.ring.own, s.ring.inA.claim, s.ring.inB.claim].filterMap id
  let best := seen.foldl (fun m c => match m with
    | none => some c
    | some b => if c.beats b then some c else some b) none
  let mine := s.ring.own.isSome && best == s.ring.own && s.ring.inA.claim == s.ring.own
    && s.ring.inB.claim == s.ring.own
  { s with ring := { s.ring with
      best := best, standing := if mine then s.ring.standing.or (some s.hiveTime) else none } }

/-- The hop into an input comes up at the highest common version, or stays down with cause VERSION (R525). -/
def State.settleHop (s : State) (r versions : Nat) : State :=
  let common := versions &&& s.ring.versions
  let t := s.setRingIn r { s.ringIn r with versions := versions }
  if common = 0 then (t.putF .ring (R.RING_HOP_UP r) 0).putF .ring (R.RING_HOP_CAUSE r) 4
  else (t.putF .ring (R.RING_HOP_UP r) 1).putF .ring (R.RING_HOP_VERSION r) (if bitOf common 1 then 2 else 1)

/-- AF_DELAY of R537 in beats, for a padded loop time in ns. -/
def State.afDelay (s : State) (loopNs : Nat) : Nat :=
  min 30000 (max s.ring.leastDelay (ceilDiv (12 * loopNs) 5 + 16))

/-- ARG of SETUP (R532). -/
def setupArg (h k loopNs delay : Nat) (joined : Bool) : Nat :=
  placed h 5 0 ||| flag joined * 64 ||| placed k 15 7 ||| placed loopNs 31 16 ||| placed delay 47 32

/-- 24 ns of relaying in tenths of a tick (R518). -/
def relayTenths : Nat := 3072

/-- The delays from the leader's outputs to the inputs of position `m` (R533). -/
def State.pathTo (s : State) (m : Nat) : Nat × Nat :=
  let hop := fun i => match s.ring.reports.find? (fun e => e.1 == i % s.hives) with
    | none => (0, 0)
    | some e => e.2
  let a := (List.range m).foldl (fun n i => n + (hop (i + 1)).1) 0
  let b := (List.range (s.hives - m)).foldl (fun n i => n + (hop (m + i)).2) 0
  (a + (relayTenths * (m - 1) + 5) / 10, b + (relayTenths * (s.hives - m - 1) + 5) / 10)

/-- A PATH message to every other hive (R526, R533). -/
def State.sendPaths (s : State) (joined : Bool) : State :=
  (List.range (s.hives - 1)).foldl (fun t i =>
    if joined then
      let d := t.drawFree
      d.2.sendCtrl 4 (i + 1) (Config.joinedPath d.1).toNat
    else
      let p := t.pathTo (i + 1)
      t.sendCtrl 4 (i + 1) (placed p.1 23 0 ||| placed p.2 47 24)) s

/-- The figures of SETUP take hold: H, K, loop time and AF_DELAY, and the state that JOINED gives (R526, R544, R545). -/
def State.applySetup (s : State) (arg : Nat) : State :=
  let joined := bitOf arg 6
  let was := s.ringState
  let t := (s.putF .ring R.RING_STATUS_HIVES (bitsOf arg 5 0)).putF .ring R.RING_LOOP_K (bitsOf arg 15 7)
  let t := (t.putF .ring R.RING_LOOP_LOOP_NS (bitsOf arg 31 16)).putF .ring R.RING_STATUS_AF_DELAY (bitsOf arg 47 32)
  let t := t.setRingState (if joined then 5 else 4)
  let lead := s.ring.best.getD ⟨0, 0⟩
  let old := s.getF .ring R.RING_LEADER_LO_UID + 2 ^ 32 * s.getF .ring R.RING_LEADER_HI_UID
  let t := (t.putF .ring R.RING_LEADER_LO_UID lead.uid).putF .ring R.RING_LEADER_HI_UID (lead.uid / 2 ^ 32)
  let t := t.putF .ring R.RING_LEADER_HI_PRIORITY lead.priority
  let t := { t with ring := { t.ring with lastTime := s.hiveTime } }
  let t := if was = 3 ∧ !joined then t.raise .ring 0 else t
  let t := (if lead.uid ≠ old then t.raise .ring 1 else t).launchCtrl
  if joined ∧ was ≠ 5 then t.raise .ring 4 else if !joined ∧ was = 5 then t.raise .ring 5 else t

/-- An EPOCH message of the leader, unless a take of its own is under way (R535). -/
def State.sendEpoch (s : State) : State :=
  if s.inTake then s
  else
    let n := (s.getF .ring R.RING_EPOCH_COUNT + 1) % 2 ^ 16
    (s.putF .ring R.RING_EPOCH_COUNT n).sendCtrl 2 0x1F n

/-- The leader pads the loops for `h` hives and sends SETUP and PATH (R526, R528, R544, R548). -/
def State.sendSetup (s : State) (h : Nat) (joined : Bool) : State :=
  let loop := if joined then 2 * s.ring.loopNs else s.ring.loopNs
  let k := max (if joined then 2 * h else h) (ceilDiv loop 80)
  let arg := setupArg h k (80 * k) (s.afDelay (80 * k)) joined
  let t := (List.range 2).foldl (fun t r => t.emit (.ringWord r 5 [k])) s
  let t := t.applySetup arg
  (t.sendCtrl 1 0x1F arg).sendPaths joined

/-- The hive whose claim has stood for 1 ms becomes leader and sends FORM along ring A (R526). -/
def State.becomeLeader (s : State) : State :=
  match s.ring.standing with
  | none => s
  | some a =>
    if s.ringState = 2 then
      let t := s.advanceTo (a + 1000 * ticksPerUs)
      let t := (t.setRingState 3).putF .ring R.RING_STATUS_LEADER 1
      t.sendHello 0 0xB 1
    else s

/-- A FORM word arrives on ring A. A member takes its position and passes FORM on; at the leader it has come round, and
gives H (R526). `loopNs` is the unpadded loop time that the leader finds. -/
def State.receiveForm (s : State) (position loopNs : Nat) : State :=
  if s.ringState = 3 ∧ s.isLeader then
    let h := if position = 0 then 32 else position
    let t := { s with ring := { s.ring with loopNs := loopNs } }
    let t := t.putF .ring R.RING_STATUS_HIVES h
    (t.sendSetup h false).sendEpoch
  else if s.ringState = 2 then
    ((s.setRingState 3).putF .ring R.RING_STATUS_POSITION position).sendHello 0 0xB ((position + 1) % 32)
  else s

/-! ### Measuring hops (R528, R529) -/

/-- A probe that measures the hop into input `r`: out on the other ring, back on ring `r`. -/
def State.sendProbe (s : State) (r : Nat) : State :=
  let x := s.ringIn r
  let seq := (x.probe + 1) % 4096
  (s.setRingIn r { x with probe := seq, sentAt := some s.hiveTime, echoAt := none }).sendHello (1 - r) 7 seq

/-- The leader takes a member's hop delays; a change of more than 4 ticks makes it send SETUP and PATH again. -/
def State.takeReport (s : State) (source a b : Nat) : State :=
  let far := fun (x y : Nat) => decide (x + 4 < y) || decide (y + 4 < x)
  let changed := match s.ring.reports.find? (fun e => e.1 == source) with
    | none => true
    | some e => far e.2.1 a || far e.2.2 b
  let t := { s with ring := { s.ring with
    reports := s.ring.reports.filter (fun e => !(e.1 == source)) ++ [(source, (a, b))] } }
  if changed && s.isLeader && (s.ringState == 4 || s.ringState == 5) then t.sendSetup s.hives (s.ringState == 5) else t

/-- The round trip over, the hop's delay is known and reported to the leader. -/
def State.measured (s : State) (r hold : Nat) : State :=
  let x := s.ringIn r
  match x.sentAt, x.echoAt with
  | some a, some b =>
    let t := (s.putF .ring (R.RING_HOP_DELAY r) ((b - a - hold) / 2)).setRingIn r { x with sentAt := none, echoAt := none }
    let da := t.getF .ring (R.RING_HOP_DELAY 0)
    let db := t.getF .ring (R.RING_HOP_DELAY 1)
    if t.isLeader then t.takeReport 0 da db
    else if t.ringState = 4 ∨ t.ringState = 5 then t.sendCtrl 3 0 (placed da 19 0 ||| placed db 39 20)
    else t
  | _, _ => s

/-- A container that holds a bad word is counted for its input and goes on with its checks inverted (R522). -/
def State.badContainer (s : State) (r : Nat) : State :=
  ((s.bump .ring (if r = 0 then R.RING_LOST_A else R.RING_LOST_B) 1).raise .ring 6).emit (.ringWord r 6 [])

/-- A HELLO word arrives at input `r` (R529 to R531), other than FORM and BREAK. One with SUB 0xD to 0xF is a bad word. -/
def State.receiveHello (s : State) (r sub data : Nat) : State :=
  let x := s.ringIn r
  match sub with
  | 1 => if s.ringState = 2 ∨ s.ringState = 3 then s.settleHop r (data % 4) else s
  | 2 => s.setRingIn r { x with pri := data % 256 }
  | 3 => s.setRingIn r { x with uid := data }
  | 4 => s.setRingIn r { x with uid := x.uid + data * 2 ^ 12 }
  | 5 => s.setRingIn r { x with uid := x.uid + data * 2 ^ 24 }
  | 6 =>
    let c : Claim := ⟨x.pri, x.uid + data * 2 ^ 36⟩
    let none' := c == ⟨0, 0xFFFFFFFFFFFF⟩
    let t := s.setRingIn r { x with claim := if none' then none else some c }
    if s.ringState = 2 then t.settleClaim else t
  | 7 =>
    let d := s.drawFree
    let h := (Config.holdTicks d.1).toNat
    ((d.2.sendHello (1 - r) 8 data).sendHello (1 - r) 9 (h % 4096)).sendHello (1 - r) 10 (h / 4096)
  | 8 => if data = x.probe ∧ x.sentAt.isSome then s.setRingIn r { x with echoAt := some s.hiveTime } else s
  | 9 => s.setRingIn r { x with holdLo := data }
  | 10 => s.measured r (x.holdLo + 4096 * data)
  | _ => if 13 ≤ sub ∧ s.ringUp then s.badContainer r else s

/-! ### Containers received (R522, R524) -/

/-- The container is the first good copy with its sender, kind and tally: the state that has noted it, else none. -/
def State.firstCopy (s : State) (source kind tally : Nat) : Option State :=
  if s.ring.acted.contains (source, kind, tally) then none
  else
    let same := s.ring.acted.filter (fun e => e.1 == source && e.2.1 == kind)
    let other := s.ring.acted.filter (fun e => !(e.1 == source && e.2.1 == kind))
    some { s with ring := { s.ring with acted := (source, kind, tally) :: same.take 14 ++ other } }

/-- A container of a kind arrives on ring `r`: relayed unless it is the hive's own, and acted on by `f` when it is good
and the first copy. -/
def State.receive (s : State) (c : Copy) (source kind tally : Nat) (body : List Nat) (f : State → State) : State :=
  if !s.ringActive then s
  else match c.quality with
  | .bad => s.badContainer c.ring
  | .inverted => s.emit (.ringWord c.ring 6 [])
  | .good =>
    let t := s.emit (.ringWord c.ring kind body)
    match t.firstCopy source kind tally with
    | none => t
    | some t => f t

/-! ### Common time (R534 to R536) -/

/-- A TIME container: the member's offset from the leader (R534, R536). -/
def State.takeTime (s : State) (r time : Nat) : State :=
  let t := { s with ring := { s.ring with lastTime := s.hiveTime } }
  match s.ring.path with
  | none => t
  | some (a, b) =>
    if r = 0 || !s.isSet .ring (R.RING_HOP_UP 0) then
      let off : Int := ((time + (if r = 0 then a else b) : Nat) : Int) - (s.hiveTime : Int)
      let far := decide (4 < off.natAbs)
      let n := if far then t.ring.offSteps + 1 else 0
      let t := (t.putF .ring R.RING_TIME_OFFSET_OFFSET (saturatedSigned 24 off))
      let t := { t with ring := { t.ring with offSteps := n, offset := some off } }
      if 4 ≤ n && !t.isSet .ring R.RING_TIME_OFFSET_OUT_OF_STEP then
        (t.putF .ring R.RING_TIME_OFFSET_OUT_OF_STEP 1).raise .ring 9
      else t
    else t

/-- A member outside a take loads its hive time with its offset at the next beat boundary (R535). -/
def State.loadEpoch (s : State) : State :=
  match s.ring.path, s.ring.offset with
  | some _, some off =>
    if s.inTake then s
    else
      let t := s.advanceTo (beatUp s.hiveTime)
      let t := (t.loadTime (((t.hiveTime : Int) + off) % (timeModulus : Int)).toNat).regrid
      let t := t.putF .ring R.RING_EPOCH_COUNT (t.getF .ring R.RING_EPOCH_COUNT + 1)
      let t := t.putF .ring R.RING_TIME_OFFSET_OUT_OF_STEP 0
      { t with ring := { t.ring with offSteps := 0, lastTime := t.hiveTime } }
  | _, _ => s

/-! ### Apiary flags (R537 to R542) -/

/-- The BODY words of a FLAG container (R521). -/
def flagBody (a : AfAct) (tally : Nat) : List Nat :=
  [placed a.af 15 12 ||| placed a.op 11 10 ||| placed a.member 9 5 ||| placed tally 4 0, a.beat % 2 ^ 16,
    a.origin % 2 ^ 16, a.origin / 2 ^ 16 % 2 ^ 16, a.origin / 2 ^ 32 % 2 ^ 16]

/-- An origin more than this many ticks old is too old for its 48 bits (R541). -/
def originLimit : Nat := 2 ^ 47

/-- An origin too old for its 48 bits is replaced by the first tick of the launch beat, and counted (R541). -/
def State.refreshOrigin (s : State) (a : AfAct) : AfAct × State :=
  let t0 := 32 * s.beatNow
  if originLimit < t0 - a.origin then
    let b := { a with origin := t0 }
    (b, { s with ring := { s.ring with noted := s.ring.noted.map (fun x => if x = a then b else x) } }.bump .ring
      R.RING_FLAG_COUNTS_STALE 1)
  else (a, s)

/-- While no flag action is being launched, the oldest queued one is taken up (R537, R541) (DEDUCED, log entry 104). -/
def State.takeFlag (s : State) : State :=
  match s.ring.flag, s.afQueue with
  | none, a :: rest =>
    let q := s.refreshOrigin a
    let m : RingMsg := ⟨1, 0, flagBody q.1 q.2.ring.flagTally, q.2.bothLoops⟩
    { q.2 with
      afQueue := rest, ring := { q.2.ring with flag := some m, flagTally := (q.2.ring.flagTally + 1) % 32 } }
  | _, _ => s

/-- The oldest queued flag action is launched on the loop of ring `r`, in the first EMPTY container that passes. -/
def State.launchFlag (s : State) (r : Nat) : State :=
  let l := s.loopOf r
  if !s.ringUp || !s.loopFree l then s
  else
    let t := s.takeFlag
    match t.ring.flag with
    | none => t
    | some m =>
      if m.loops.contains l then
        let left := m.loops.erase l
        let t := { t with ring := { t.ring with flag := if left.isEmpty then none else some { m with loops := left } } }
        (t.launchOn l m).launchCtrl
      else t

/-- The beat with these low 16 bits that lies within 32,768 beats of a beat (R538). -/
def nearBeat (now low : Nat) : Nat :=
  let up := now + (low + 2 ^ 16 - now % 2 ^ 16) % 2 ^ 16
  if up - now ≤ 2 ^ 15 ∨ up < 2 ^ 16 then up else up - 2 ^ 16

/-- The latest timestamp with these low 48 bits that is not after a tick (R540). -/
def nearOrigin (t low : Nat) : Nat := t - (t + 2 ^ 48 - low % 2 ^ 48) % 2 ^ 48

/-- A flag action is received: missing tallies are counted, and the action is noted for its delivery beat, or when late
for the first sample beat not presented yet (R524, R538, R539). -/
def State.noteFlag (s : State) (body : List Nat) : State :=
  let head := body.getD 0 0
  let source := bitsOf head 9 5
  let tally := bitsOf head 4 0
  let d := nearBeat s.beatNow (body.getD 1 0)
  let low := body.getD 2 0 + 2 ^ 16 * body.getD 3 0 + 2 ^ 32 * body.getD 4 0
  let missing := match s.ring.lastFlag.find? (fun e => e.1 == source) with
    | none => 0
    | some e => let k := (tally + 32 - e.2) % 32; if k = 0 ∨ 16 ≤ k then 0 else k - 1
  let ahead := match s.ring.lastFlag.find? (fun e => e.1 == source) with
    | none => true
    | some e => decide ((tally + 32 - e.2) % 32 < 16)
  let t := if ahead then
      { s with ring := { s.ring with
        lastFlag := s.ring.lastFlag.filter (fun e => !(e.1 == source)) ++ [(source, tally)] } }
    else s
  let t := if missing = 0 then t else (t.bump .ring R.RING_FLAG_COUNTS_GAP missing).raise .ring 8
  let late := decide (d + 13 < s.beatNow)
  let t := if late then (t.bump .ring R.RING_FLAG_COUNTS_LATE 1).raise .ring 7 else t
  let a : AfAct := ⟨if late then s.beatNow - 12 else d, bitsOf head 15 12, source, bitsOf head 11 10,
    nearOrigin (32 * d) low⟩
  { t with ring := { t.ring with noted := t.ring.noted ++ [a] } }

/-- The noted actions of the earliest delivery beat are applied to their senders' contributions (R538). -/
def State.deliverFlags (s : State) : State :=
  match s.ring.noted.foldl (fun (m : Option Nat) a => match m with
      | none => some a.beat
      | some b => some (min b a.beat)) none with
  | none => s
  | some d =>
    let t := s.advanceTo (32 * (d + 13))
    let now := t.ring.noted.filter (fun a => a.beat == d)
    let t := { t with
      afLog := now.reverse ++ t.afLog
      ring := { t.ring with noted := t.ring.noted.filter (fun a => !(a.beat == d)) } }
    let own := (List.range 16).filter (fun n => (contribution n t.position d t.afLog).isSome)
    let t := t.putF .ring R.RING_AF_STATE_OWN (ofBits own)
    if (t.seq 8).running then t.settleSeqs
    else t.putF .ring R.RING_AF_STATE_VALUE (ofBits ((List.range 16).filter (fun n => (t.afTerm n d).value)))

/-- CLEAR for every apiary flag to which the hive contributes 1 (R542). -/
def State.clearFlags (s : State) : State :=
  (bitsSet 16 (s.getF .ring R.RING_AF_STATE_OWN)).foldl (fun t n => t.queueFlag 3 n t.beatNow (32 * t.beatNow)) s

/-! ### Breaks (R543 to R545) -/

/-- The hop into input `r` goes down for a cause: the hive wraps, or in a wrapped or forming apiary forms anew. -/
def State.hopDown (s : State) (r cause : Nat) : State :=
  let t := ((s.putF .ring (R.RING_HOP_UP r) 0).putF .ring (R.RING_HOP_CAUSE r) cause).raise .ring (2 + r)
  match s.ringState with
  | 4 =>
    let t := t.ring.onLoop.foldl (fun t e => t.emit (.ringWord e.1 e.2.kind e.2.body)) t
    if s.isLeader then t.sendSetup s.hives true else t
  | 5 => t.startForming
  | 2 => t.startForming
  | 3 => t.startForming
  | _ => t

/-- A container of the hive's own comes back on ring `r`, having been launched on loop `l`: it is removed (R523). A
leader whose container comes back on the other ring finds that the rings are joined, and on its own again that they are
whole (R544, R545). -/
def State.containerBack (s : State) (l r : Nat) : State :=
  match s.ring.onLoop.find? (fun e => e.1 == l) with
  | none => s
  | some e =>
    let t := { s with ring := { s.ring with onLoop := s.ring.onLoop.erase e } }
    let t := t.emit (.ringWord r 5 [])
    let mail := fun (m : RingMsg) => m.kind == 3 && m.type == 6
    let t := if mail e.2 && !t.ring.ctrl.any mail && !t.ring.onLoop.any (fun x => mail x.2) then
        t.putF .ring R.RING_MAIL_OUT_BUSY 0 else t
    let t := if s.isLeader && l != r && s.ringState == 4 then t.sendSetup s.hives true
      else if s.isLeader && l == r && l == 1 && s.ringState == 5 then t.sendSetup s.hives false
      else t
    t.launchCtrl

/-- A broken hop has held character lock for 1 ms: its neighbours unwrap (R545). -/
def State.unwrap (s : State) (r : Nat) : State :=
  let t := s.putF .ring (R.RING_HOP_UP r) 1
  if s.ringState = 5 then
    if s.isLeader then t.sendSetup s.hives false else (t.setRingState 4).raise .ring 5
  else t

end Sys2Proof.Machine
end

