-- ==== Sys2Proof/Machine/Reeve.lean ====
section
/-!
DEFINITION. The Reeve (chapter 17): what a take costs and its plan, grants, shedding and its knobs, and the ends of a take
that are not its own: stops by the host, by power and by faults (chapters 08 and 19).
-/
namespace Sys2Proof.Machine

/-! ### Costs and the plan (R562 to R566) -/

/-- A cost in units of 1/8 mW: peak and typical. -/
structure Cost where
  peak : Nat
  typical : Nat
deriving DecidableEq, Repr

def Cost.zero : Cost := ⟨0, 0⟩
def Cost.plus (a b : Cost) : Cost := ⟨a.peak + b.peak, a.typical + b.typical⟩
def Cost.sum (l : List Cost) : Cost := l.foldl Cost.plus .zero

/-- `eighths` of the figure of kind `n` (REEVE_COSTn), for each of `count` units. -/
def State.cost (s : State) (n count eighths : Nat) : Cost :=
  ⟨count * eighths * s.getF .reeve (R.REEVE_COST_PEAK n), count * eighths * s.getF .reeve (R.REEVE_COST_TYPICAL n)⟩

/-- ENABLE in the shadow of a page that the part has. -/
def State.shadowOn (s : State) (p : Page) : Bool := s.has p && s.getShadowF p R.PAGE_CTRL_ENABLE != 0

/-- The figure of a DRAM channel in eighths, by its grade: 1, 0.875 or 0.75. -/
def gradeEighths (grade : Nat) : Nat := if grade = 3 then 8 else if grade = 2 then 7 else 6

/-- The READY channels of a super among those enabled. -/
def State.chanCost (s : State) (u : Nat) (on : Page → Bool) : Cost :=
  Cost.sum ((List.range 2).map (fun k =>
    if s.chanState u k == 4 && on (.dram u k) then s.cost 9 1 (gradeEighths (s.getF (.dram u k) R.DRAM_CFG_GRADE)) else .zero))

/-- The row of R562 that the Press of a super matches first. -/
def State.pressRow (s : State) (u : Nat) : Option Nat :=
  let p := Page.press u
  if s.shadowOn p then
    let f := s.getShadowF p R.PRESS_CTRL_F_CODING
    let c := if s.fuse.part.hasScouts then s.getShadowF p R.PRESS_CTRL_S_CODING else 0
    let level := s.getShadowF p R.PRESS_CTRL_LEVEL
    if f = 0 ∧ c = 0 then none
    else if f = 1 ∧ !s.reduced then some (if level ≤ 4 then 5 else if level ≤ 7 then 6 else 7)
    else some 8
  else none

/-- A super's share of the plan, by the shadows that the ARM will apply (R563). -/
def State.superCost (s : State) (u : Nat) : Cost :=
  let frames := ((List.range 8).filter (fun f => s.shadowOn (.frame u f) && s.shadowOn (.pod u f))).length
  let scouts := ((List.range 8).filter (fun k => s.shadowOn (.scout u k))).length
  Cost.sum [s.cost 2 1 8, s.cost 3 frames 8, s.cost 4 scouts 8,
    (match s.pressRow u with | none => .zero | some n => s.cost n 1 8),
    s.chanCost u s.shadowOn, s.cost 10 (flag (s.isSet .host R.HOST_RING_CTRL_DRN_EN)) 8]

/-- The shared units and the Noticeboard. -/
def State.sharedCost (s : State) : Cost := (s.cost 0 1 8).plus (s.cost 1 (flag (s.enabled .board)) 8)

/-- Outside a take: a super's base and its READY channels (R566). -/
def State.idleCost (s : State) (u : Nat) : Cost := (s.cost 2 1 8).plus (s.chanCost u s.enabled)

/-- HISTORY_OK (R563). -/
def State.historyOk (s : State) : Bool := s.isSet .reeve R.REEVE_STATUS_HISTORY_OK

/-- A cost in 0.25 W, rounded up, by the peak column, and by the typical column with LEARN. -/
def Cost.peakQ (c : Cost) : Nat := ceilDiv c.peak 2000
def State.typicalQ (s : State) (c : Cost) : Nat := ceilDiv (c.typical * s.getF .reeve R.REEVE_LEARN_LEARN) 512000

/-- The plan uses the peak column for its figures: before HISTORY_OK, or because the typical sum would lie above it. -/
def State.atPeak (s : State) (c : Cost) : Bool := !s.historyOk || decide (c.peakQ < s.typicalQ c)

/-- The plan of a take, in 0.25 W. -/
def State.planSum (s : State) : Cost := Cost.sum (s.sharedCost :: s.supers.map s.superCost)
def State.planQ (s : State) : Nat := if s.atPeak s.planSum then s.planSum.peakQ else s.typicalQ s.planSum

/-- The Reeve's check of an ARM (R565): true when it accepts. REEVE_POLICY and REEVE_RUN_MS count as the ARM will apply
them. -/
def State.powerAllows (s : State) : Bool :=
  let p := s.planQ
  let throttled := s.isSet .reeve R.REEVE_STATUS_THROTTLED
  let run := s.getShadowF .reeve R.REEVE_RUN_MS_RUN_MS
  if p ≤ s.reeve.sustain ∧ !throttled then true
  else if s.getShadowF .reeve R.REEVE_POLICY_SHED ≠ 0 then true
  else !throttled && run != 0 && decide ((p - s.reeve.sustain) * run * 256 ≤ s.reeve.energy)

/-- The grants of an accepted take, and its typical sum for LEARN (R564, R566) (DEDUCED, log entry 109). -/
def State.grantTake (s : State) : State :=
  let high := s.atPeak s.planSum
  let q := fun (c : Cost) => if high then c.peakQ else s.typicalQ c
  let t := s.supers.foldl (fun t u => t.putF .reeve (R.REEVE_GRANT_GRANT u) (q (s.superCost u))) s
  let t := t.putF .reeve R.REEVE_SHARED_GRANT (q s.sharedCost)
  { t with reeve := { t.reeve with typical := s.planSum.typical } }

/-- The grant of a super, or at index 8 of the shared units, as it stands now (DEDUCED, log entry 64). -/
def State.grant (s : State) (u : Nat) : Nat :=
  if s.inTake then s.getF .reeve (if u = 8 then R.REEVE_SHARED_GRANT else R.REEVE_GRANT_GRANT u)
  else
    let c := if u = 8 then s.sharedCost else s.idleCost u
    if s.historyOk then s.typicalQ c else c.peakQ

/-! ### Knobs (R44, R573, R576) -/

/-- A KNOB record, of a use that falls within a take. -/
def State.knob (s : State) (super code value : Nat) : State :=
  if s.taking then s.systemMark (sysRec 0x0C super s.hiveTime code value 0 0) else s

/-- The step in force, and the targets of one. -/
def State.shedStep (s : State) : Nat := s.getF .reeve R.REEVE_STATUS_STEP
def State.targetsOf (s : State) (step : Nat) : List Nat := s.reeve.targets.getD (step - 2) []

/-- PRESS_STATUS.CAP takes a value; a change is raised (R337) while the page is enabled (R303). -/
def State.showCap (s : State) (u cap : Nat) : State :=
  let p := Page.press u
  let t := s.putF p R.PRESS_STATUS_CAP cap
  if s.getF p R.PRESS_STATUS_CAP != cap && s.enabled p then t.raise p 4 else t

/-- The knobs as the steps in force have them: DRAM_KNOBS, PRESS_STATUS.CAP and the pause of the march engine. -/
def State.showKnobs (s : State) (u : Nat) : State :=
  let n := s.shedStep
  let on := fun (k : Nat) => decide (k ≤ n) && (s.targetsOf k).contains u
  let t := (List.range 2).foldl (fun t k =>
    let p := Page.dram u k
    ((t.putF p R.DRAM_KNOBS_SCRUB_PAUSED (flag (n != 0))).putF p R.DRAM_KNOBS_DRAIN_PACE
      (if on 3 then s.reeve.drainPace else 0)).putF p R.DRAM_KNOBS_RT_PACE (if on 4 then s.reeve.rtPace else 0)) s
  let t := if t.has (.press u) then t.showCap u (if on 2 then 3 else 9) else t
  let t := if t.has .board then t.putF .board R.BOARD_STATUS_FLOOR (flag (n != 0)) else t
  t.showMarch u

def State.showAllKnobs (s : State) : State := s.supers.foldl (fun t u => t.showKnobs u) s

/-- ALERT_N and THERM_N (R577). -/
def State.settleAlerts (s : State) (hot : Bool) : State :=
  { s with reeve := { s.reeve with
    alertLow := s.shedStep != 0 || s.isSet .reeve R.REEVE_STATUS_THROTTLED
    thermLow := hot || s.reeve.shutdown } }

/-- The 1 ms mean power of a unit over its latest periods lies above `grant` in 0.25 W (R574). -/
def State.exceeds (s : State) (u : Nat) : Bool :=
  let l := sget (fun _ => []) s.reeve.shares u
  !l.isEmpty && decide (s.grant u * 1024 * l.length < 40 * l.foldl (· + ·) 0)

/-- The targets of a step taken now (R574). -/
def State.targetsNow (s : State) : List Nat :=
  let l := s.supers.filter s.exceeds
  if l.isEmpty then s.supers else l

/-- The KNOB records of a step, applied or lifted, to its targets. -/
def State.knobStep (s : State) (step : Nat) (targets : List Nat) (applied : Bool) : State :=
  match step with
  | 1 =>
    let t := s.knob 0xF 1 (flag applied)
    if t.fuse.part.hasBoard then t.knob 0xF 2 (flag applied) else t
  | 2 => targets.foldl (fun t u => if t.has (.press u) then t.knob u 3 (if applied then 3 else 9) else t) s
  | 3 => targets.foldl (fun t u => t.knob u 4 (if applied then t.reeve.drainPace else 0)) s
  | _ => targets.foldl (fun t u => t.knob u 5 (if applied then t.reeve.rtPace else 0)) s

/-- take() of R575. -/
def State.takeStep (s : State) (step : Nat) : State :=
  let targets := s.targetsNow
  let pace := fun (n : Nat) => max 1 n
  let t := { s with reeve := { s.reeve with
    run := 0
    pausedAt := if step = 1 then s.hiveTime else s.reeve.pausedAt
    targets := if step = 1 then [] else s.reeve.targets ++ [targets]
    drainPace := if step = 3 then pace (s.getF .reeve R.REEVE_SHED_DRAIN_GBPS) else s.reeve.drainPace
    rtPace := if step = 4 then pace (s.getF .reeve R.REEVE_SHED_RT_GBPS) else s.reeve.rtPace } }
  let t := ((t.putF .reeve R.REEVE_STATUS_STEP step).showAllKnobs).raise .reeve 1
  t.knobStep step targets true

/-- lift() of R575. -/
def State.liftStep (s : State) : State :=
  let step := s.shedStep
  let targets := s.targetsOf step
  let t := { s with reeve := { s.reeve with targets := s.reeve.targets.take (step - 2) } }
  let t := ((t.putF .reeve R.REEVE_STATUS_STEP (step - 1)).showAllKnobs).raise .reeve 2
  t.knobStep step targets false

/-! ### The end of a take -/

/-- LEARN after a take that lasted at least 100 ms (R564) (DEDUCED, log entry 110). -/
def State.learn (s : State) (slots : Nat) : State :=
  if 160000000 ≤ slots ∧ s.reeve.typical ≠ 0 then
    s.putF .reeve R.REEVE_LEARN_LEARN (min 0xFFFF (max 256 (ceilDiv (20 * s.reeve.best) s.reeve.typical)))
  else s

/-- The take goes STOPPED with a reason: the held commits of PLL pages are applied, apiary flags are cleared, and the
take stopped event is raised (R101, R263, R268, R300, R542). -/
def State.enterStopped (s : State) (reason : Nat) : State :=
  let t := (s.setTakeState 4).putF .hive R.HIVE_TAKE_STATE_REASON reason
  let t := t.putF .reeve R.REEVE_STATUS_POWER_STOP (flag (reason == 4))
  (t.clearFlags.applyHeldPlls).raise .hive 3

/-- A cause stops the take (R268 to R270). -/
def State.stopTake (s : State) (reason : Nat) : State :=
  if s.takeState = 1 then
    let t := s.enterStopped reason
    { t with take := { t.take with begun := false } }
  else if s.taking then s.setLast s.stopSlot reason
  else s

/-- A fault stop (R623): the cause goes into HIVE_BOOT.FAULT_STOP, and the take stops with reason FAULT
(DEDUCED, log entry 111). -/
def State.faultStop (s : State) (cause : Nat) : State :=
  ((s.putF .hive R.HIVE_BOOT_FAULT_STOP cause).bump .hive R.HIVE_RESET_COUNT_FAULT_STOPS 1).stopTake 5

/-- The rails are to go off 100 µs after a cause is accepted (R555, R570). -/
def State.railsOffSoon (s : State) : State :=
  { s with boot := { s.boot with railsOffAt := some (s.boot.railsOffAt.getD (s.hiveTime + 100 * ticksPerUs)) } }

/-! ### The end of a period (R558, R563, R569, R571, R575) -/

/-- What the IVR and the sensors measured over a period: VIN in mV, current in 10 mA, energies in 1/1,024 mJ of the input,
of each super and of the shared units, and the hottest junction: 0.25 °C in two's complement, and its super. -/
structure Measured where
  vin : Nat
  iin : Nat
  energy : Nat
  supers : List Nat
  shared : Nat
  tj : Nat
  hottest : Nat
deriving DecidableEq, Repr

/-- The period's figures go into the registers, and into the lists that means are taken of. -/
def State.noteMeasured (s : State) (m : Measured) : State :=
  let r := s.reeve
  let e := m.supers
  let shares := (s.supers ++ [8]).foldl (fun l u =>
    sput (fun _ => []) l u (((if u = 8 then m.shared else e.getD u 0) :: sget (fun _ => []) l u).take 10)) r.shares
  let energies := (m.energy :: r.energies).take 1000
  let sum := energies.foldl (· + ·) 0
  let t := { s with reeve := { r with
    shares := shares
    periods := min 10000 (r.periods + 1)
    energies := if s.taking then energies else r.energies
    best := if s.taking && energies.length == 1000 then max r.best sum else r.best } }
  let t := ((t.putF .ivr R.IVR_VIN_VALUE m.vin).putF .ivr R.IVR_IIN_VALUE m.iin).putF .ivr R.IVR_PIN_VALUE (40 * m.energy / 1024)
  let t := (t.putF .reeve R.REEVE_TEMP_TJ m.tj).putF .reeve R.REEVE_TEMP_SUPER m.hottest
  let t := t.putF .reeve R.REEVE_STATUS_HISTORY_OK (flag (decide (10000 ≤ t.reeve.periods)))
  (t.supers ++ [8]).foldl (fun t u =>
    let l := sget (fun _ => []) shares u
    t.putF .reeve (if u = 8 then R.REEVE_SHARED_MEAS else R.REEVE_GRANT_MEAS u)
      (40 * l.foldl (· + ·) 0 / (1024 * l.length))) t

/-- The sum of the wear buckets in units of 100 µs, against the budget (R571). -/
def wearSum (l : List Nat) : Nat := l.foldl (· + ·) 0
def State.wearSpent (s : State) : Bool :=
  decide (10000 * max 1 (s.getF .reeve R.REEVE_WEAR_CFG_BUDGET_S) ≤ wearSum s.reeve.wear)

/-- REEVE_WEAR shows the account; it becoming spent is raised. -/
def State.settleWear (s : State) : State :=
  let was := s.isSet .reeve R.REEVE_WEAR_SPENT
  let now := s.wearSpent
  let t := (s.putF .reeve R.REEVE_WEAR_SECONDS (wearSum s.reeve.wear / 10000)).putF .reeve R.REEVE_WEAR_SPENT (flag now)
  if now && !was then t.raise .reeve 6 else t

/-- A write of REEVE_WEAR_LOAD: the seconds replace the current bucket, and LOST clears (R572). Spent is judged afresh at
the next period. -/
def State.loadWear (s : State) (seconds : Nat) : State :=
  let wear := 10000 * (seconds % 2 ^ 20) :: s.reeve.wear.drop 1
  let t := { s with reeve := { s.reeve with wear := wear } }
  (t.putF .reeve R.REEVE_WEAR_LOST 0).putF .reeve R.REEVE_WEAR_SECONDS (wearSum wear / 10000)

/-- The throttle point in 0.25 °C (R569). -/
def State.throttlePoint (s : State) : Int := if s.isSet .reeve R.REEVE_WEAR_SPENT then 400 else 420

/-- Wear, throttle and thermal shutdown at a junction temperature (R569 to R571). -/
def State.settleHeat (s : State) (tj : Int) : State :=
  let hour := match s.reeve.wear with
    | [] => [1]
    | w :: ws => (w + 1) :: ws
  let s := if 400 < tj then { s with reeve := { s.reeve with wear := hour } } else s
  let s := s.settleWear
  let was := s.isSet .reeve R.REEVE_STATUS_THROTTLED
  let now := decide (s.throttlePoint ≤ tj) || (was && !decide (tj < s.throttlePoint - 12))
  let s := s.putF .reeve R.REEVE_STATUS_THROTTLED (flag now)
  let s := if now && !was then s.raise .reeve 4 else s
  if 460 ≤ tj ∧ !s.reeve.shutdown then
    let s := { s with reeve := { s.reeve with shutdown := true } }
    let s := if s.taking then s.knob 0xF 6 5 else s
    ((s.faultStop 4).raise .reeve 5).railsOffSoon
  else s

/-- The account (R558). Answers whether the period is pressed (DESIGN CHOICE, log entry 108). -/
def State.settleAccount (s : State) (m : Measured) : Bool × State :=
  let r := s.reeve
  let a := 1024 * r.sustain
  let e40 := 40 * r.energy + a
  let short := decide (e40 < 40 * m.energy)
  let top := r.reserve * 1024000
  let e := min top (if short then 0 else (e40 - 40 * m.energy) / 40)
  let near := decide (95 * r.ilim < m.iin)
  let phase := s.supers.any (fun u => r.phases.any (fun x => x / 4 == u) && decide (3072 < m.supers.getD u 0))
  let pressed := short || s.isSet .reeve R.REEVE_STATUS_THROTTLED || near || phase
  let t := { s with reeve := { r with energy := e } }
  let t := (t.putF .reeve R.REEVE_RES_NOW_E_MJ (e / 1024)).putF .reeve R.REEVE_STATUS_NEAR_LIMIT (flag near)
  let t := t.putF .reeve R.REEVE_STATUS_PRESSED (flag pressed)
  let t := if near then t.raise .ivr 2 else t
  let t := if e = 0 ∧ r.energy ≠ 0 then t.raise .reeve 0 else t
  (pressed, t)

/-- REEVE_STATUS.RUN shows `run`, saturating, and BLOCK_STATUS the throttle and pressure. -/
def State.showReeve (s : State) : State :=
  let t := s.putF .reeve R.REEVE_STATUS_RUN (min 31 s.reeve.run)
  (t.putF .reeve (blockBit 17) (s.getF .reeve R.REEVE_STATUS_THROTTLED)).putF .reeve (blockBit 16)
    (s.getF .reeve R.REEVE_STATUS_PRESSED)

/-- Shedding at the end of a period (R575). -/
def State.shed (s : State) (pressed : Bool) : State :=
  let step := s.shedStep
  let r := s.reeve
  if pressed then
    let s := { s with reeve := { r with quiet := 0 } }
    if step = 0 then s.takeStep 1
    else
      let s := { s with reeve := { s.reeve with run := r.run + 1 } }
      if step < 4 ∧ r.run + 1 = 10 then s.takeStep (step + 1)
      else if step = 4 ∧ r.run + 1 = 20 ∧ s.inTake then ((s.knob 0xF 6 4).stopTake 4).raise .reeve 3
      else s
  else
    let s := { s with reeve := { r with run := 0 } }
    if 0 < step ∧ s.getF .reeve R.REEVE_RECOVER_RECOVER_J * 1024000 ≤ r.energy
        ∧ !s.isSet .reeve R.REEVE_STATUS_THROTTLED then
      if r.quiet + 1 = 100 then ({ s with reeve := { s.reeve with quiet := 0 } }).liftStep
      else { s with reeve := { s.reeve with quiet := r.quiet + 1 } }
    else { s with reeve := { s.reeve with quiet := 0 } }

/-- The end of a period: measurements, heat, the account and shedding; then SUSTAIN, RESERVE and IVR_ILIM as they stand act
for the next one (R559) (DEDUCED, log entry 107). -/
def State.endPeriod (s : State) (m : Measured) : State :=
  let s := (s.noteMeasured m).settleHeat (signedOf 16 m.tj)
  let a := s.settleAccount m
  let t := (a.2.shed a.1).showReeve
  let t := t.settleAlerts (decide (t.throttlePoint ≤ signedOf 16 m.tj))
  { t with reeve := { t.reeve with
    sustain := t.getF .reeve R.REEVE_SUSTAIN_QW
    reserve := t.getF .reeve R.REEVE_RESERVE_RESERVE_J
    ilim := t.getF .ivr R.IVR_ILIM_AMPS } }

end Sys2Proof.Machine
end

