-- ==== Sys2Proof/Machine/Apply.lean ====
section
/-!
DEFINITION. Applies (chapter 02, Shadows and commits): what becomes of the shadow of each kind of page when it is applied,
which values a chapter keeps out, and the partial apply of R65. PLL and BOARD pages have apply points of their own.
-/
namespace Sys2Proof.Machine

/-! ### FRAME pages -/

/-- The deskew of a cell, as the shadow has it. -/
def State.shadowDeskew (s : State) (u f c : Nat) : Int :=
  let w := (s.shadow (pageBase (.frame u f) + 0x110 + 4 * (c / 4))).toNat
  signedOf 8 (bitsOf w (8 * (c % 4) + 7) (8 * (c % 4)))

/-- Cells whose deskew in the shadow lies outside -64 to +64 (R172). -/
def State.badDeskews (s : State) (u f : Nat) : List Nat :=
  (List.range 32).filter (fun c =>
    let d := s.shadowDeskew u f c
    decide (d < -64) || decide (64 < d))

/-- The bytes of FRAME_DESKEWm that an apply keeps out. -/
def deskewKept (bad : List Nat) (o : Nat) : Word :=
  if 0x110 ≤ o ∧ o < 0x130 then
    BitVec.ofNat 32 (((List.range 4).filter (fun j => bad.contains (4 * ((o - 0x110) / 4) + j))).foldl
      (fun m j => m ||| maskOf (8 * j + 7) (8 * j)) 0)
  else 0

/-- Words at consecutive offsets of a page differ between two states. -/
def wordsDiffer (s t : State) (a n : Nat) : Bool :=
  (List.range n).any (fun i => s.word (a + 4 * i) != t.word (a + 4 * i))

/-- The pattern words whose active settings, or whose bus group, an apply has changed (R223). -/
def changedWords (s t : State) (u f : Nat) : Nat :=
  let b := pageBase (.frame u f)
  ofBits ((List.range 8).filter (fun n =>
    let g := t.getF (.frame u f) (R.FRAME_PW_CTRL_RANGE_GRP n)
    wordsDiffer s t (b + 0x200 + 0x20 * n) 8
      || (t.isSet (.frame u f) (R.FRAME_PW_CTRL_RANGE_OP n) && wordsDiffer s t (b + 0x300 + 8 * g) 2)))

/-- A FRAME page is applied: deskew values out of range are refused cell by cell (R172), run lengths restart where a
setting changed (R223), and a frame that is enabled or disabled starts afresh (R661). -/
def State.applyFrame (s : State) (u f : Nat) : State :=
  let p := Page.frame u f
  let bad := s.badDeskews u f
  let t := s.copyToActive (fun p o => shadowMask p o &&& ~~~ deskewKept bad o) p
  let t := if bad.isEmpty then t else
    (t.putF p R.FRAME_DESKEW_REFUSED_REFUSED (t.getF p R.FRAME_DESKEW_REFUSED_REFUSED ||| ofBits bad)).raise p 4
  let mask := changedWords s t u f
  if s.enabled p != t.enabled p then (t.restartFrame u f).showCells u f 0
  else if mask = 0 then t else t.restartRuns u f mask

/-! ### SCOUT pages -/

/-- A SCOUT page is applied (R182, R183, R185): a value out of range keeps its active value, and a new OFFSET, HYST or
TERM starts the settling interval. A scout that is disabled loses what it held, but for the level at its input. -/
def State.applyScout (s : State) (u k : Nat) : State :=
  let p := Page.scout u k
  let offset := signedOf 8 (s.getShadowF p R.SCOUT_IN_OFFSET)
  let deskew := signedOf 8 (s.getShadowF p R.SCOUT_DESKEW_DESKEW)
  let badOffset := decide (offset < -120) || decide (120 < offset)
  let badDeskew := decide (deskew < -64) || decide (64 < deskew)
  let t := s.copyToActive (fun p o =>
    if o = 0x100 ∧ badOffset then shadowMask p o &&& 0xFFFFFF00
    else if o = 0x104 ∧ badDeskew then shadowMask p o &&& 0xFFFFFF00
    else shadowMask p o) p
  let t := if badOffset || badDeskew then t.putF p R.SCOUT_FLAGS_SET_REFUSED 1 else t
  let new := wordsDiffer s t (pageBase p + 0x100) 1
  let x := t.scout u k
  if t.enabled p then
    let t := if s.enabled p then t else t.setScout u k { ScoutSt.reset with level := x.level, recLevel := x.level }
    if new then
      (t.setScout u k { t.scout u k with settleEnd := t.hiveTime + ticksPerUs, suspend := .settling }).showSettling u k true
    else t
  else
    ((t.setScout u k { ScoutSt.reset with level := x.level, recLevel := x.level }).showSettling u k false).putF p
      R.SCOUT_STATUS_IN_OVERRUN 0

/-! ### PRESS and hive SEQ pages -/

/-- A PRESS page is applied: values of TABLE_FORM, S_CODING, F_CODING and K that the Press does not have are kept out. -/
def State.applyPress (s : State) (u : Nat) : State :=
  let p := Page.press u
  let out := [(0x100, 17, 16, decide (2 ≤ s.getShadowF p R.PRESS_CTRL_TABLE_FORM)),
    (0x100, 13, 12, s.getShadowF p R.PRESS_CTRL_S_CODING == 3),
    (0x100, 9, 8, s.getShadowF p R.PRESS_CTRL_F_CODING == 3),
    (0x104, 18, 16, s.getShadowF p R.PRESS_LOSSY_K == 7)].filter (fun e => e.2.2.2)
  let t := s.copyToActive (fun p o =>
    shadowMask p o &&& ~~~ BitVec.ofNat 32 ((out.filter (fun e => e.1 == o)).foldl
      (fun m e => m ||| maskOf e.2.1 e.2.2.1) 0)) p
  if out.isEmpty then t else t.putF p R.PRESS_FLAGS_SET_REFUSED 1

/-- The hive SEQ page is applied: an output whose INVERT changes changes at the ball (R253). -/
def State.applyHiveSeq (s : State) : State :=
  let t := s.copyToActive shadowMask .hseq
  (List.range 4).foldl (fun t n =>
    let now := t.isSet .hseq (R.SEQ_TOUT_INVERT n)
    if s.isSet .hseq (R.SEQ_TOUT_INVERT n) == now then t
    else t.emit (.trigOut n t.hiveTime (Bool.xor (sget (fun _ => (false, none)) t.trigOut n).1 now))) t

/-! ### Applies -/

/-- What an apply of a page does, beside SHADOW_STATUS and COMMIT. -/
def State.applyCore (s : State) (p : Page) : State :=
  match p with
  | .frame u f => s.applyFrame u f
  | .pod u f => s.applyPod u f
  | .scout u k => s.applyScout u k
  | .press u => s.applyPress u
  | .queue u i => s.applyQueue (.super u i)
  | .hqueue i => s.applyQueue (.hive i)
  | .dram u k => s.applyDram u k
  | .hseq => s.applyHiveSeq
  | .ring => (s.copyToActive shadowMask p).settleRing
  | _ => s.copyToActive shadowMask p

/-- The page's whole shadow is applied (R62 to R64). -/
def State.applyPage (s : State) (p : Page) : State :=
  let t := (s.applyCore p).countApply p
  let t := ((t.putF p R.COMMIT_COMMIT 0).putF p R.SHADOW_STATUS_COMMIT_WAIT 0).putF p R.SHADOW_STATUS_HELD 0
  (t.putF p R.SHADOW_STATUS_LIVE_PENDING 0).settleDirty p

/-- A partial apply during a take (R65). -/
def State.partialApply (s : State) (p : Page) : State :=
  let t := (s.copyToActive liveMask p).countApply p
  ((t.putF p R.SHADOW_STATUS_LIVE_PENDING 0).putF p R.COMMIT_COMMIT 0).settleDirty p

/-- The pages whose shadow an accepted ARM applies (R63, R264). -/
def State.armPages (s : State) : List Page :=
  (s.supers.flatMap superPages).filter s.has ++ [.hseq, .reeve, .hive]

/-- ARM applies shadows (R63, R264). -/
def State.applyAtArm (s : State) : State := s.armPages.foldl (fun t p => t.applyPage p) s

/-- DISCARD of COMMIT. -/
def State.discard (s : State) (p : Page) : State :=
  let t := (s.copyToShadow p).settleDirty p
  (((t.putF p R.COMMIT_COMMIT 0).putF p R.SHADOW_STATUS_COMMIT_WAIT 0).putF p R.SHADOW_STATUS_HELD 0).putF p
    R.SHADOW_STATUS_LIVE_PENDING 0

/-- COMMIT of a page without an apply point of its own: requested, and outside a take waiting for it (R64, R65)
(DEDUCED, log entry 28). -/
def State.requestApply (s : State) (p : Page) : State :=
  let t := s.putF p R.COMMIT_COMMIT 1
  if s.inTake then t else t.putF p R.SHADOW_STATUS_COMMIT_WAIT 1

end Sys2Proof.Machine
end

