-- ==== Sys2Proof/Machine/SeqCmds.lean ====
section
/-!
DEFINITION. Commands of the sequencers, the balls of the trigger path and the waggle network (chapters 01 and 07).
-/
namespace Sys2Proof.Machine

/-! ### Exits, marks, timers and balls -/

/-- SUPER_EXIT: super `u` takes the exit of the slot at which it waits, once hive time is in the beat of R45. -/
def execSuperExit (u : Nat) (s : State) : Host.Outcome State Fault Refusal :=
  s.on (.sseq u) (
    if (s.seq u).running then
      let t := (s.advanceTo (32 * ((s.seq u).next / 4 + 9))).settleSeqs
      let n := (t.seq u).next
      match t.superExitAt u n with
      | some (e, o) => if t.superReady u n then (((t.takeSuperExit u n e o).endSlot u n true).settleSeqs) else t
      | none => t
    else s)

/-- HIVE_EXIT: the hive sequencer takes the exit of the sample beat at which it waits. -/
def execHiveExit (s : State) : Host.Outcome State Fault Refusal :=
  (if (s.seq 8).running then
    let t := (s.advanceTo (32 * ((s.seq 8).next + 19))).settleSeqs
    let h := (t.seq 8).next
    if t.hiveReady h ∧ (t.hiveExitAt h).isSome then (t.hiveBeat h).settleSeqs else t
  else s).finish

/-- HIVE_TIMER_HIT: a sample beat passes in which a hive timer's flag rises (R251). -/
def execHiveTimerHit (s : State) : Host.Outcome State Fault Refusal :=
  (if (s.seq 8).running then
    let t := (s.advanceTo (32 * ((s.seq 8).next + 19))).settleSeqs
    let h := (t.seq 8).next
    if t.hiveReady h ∧ t.hiveTimerRises then (t.hiveBeat h).settleSeqs else t
  else s).finish

/-- The sequencers in the order in which the mark stream takes their marks: in turn, from `turn` on (R298). -/
def State.markTurn (s : State) : Option Nat :=
  ((List.range 9).map (fun i => (s.take.turn + i) % 9)).find? (fun u =>
    !(s.seq u).marks.isEmpty && decide ((s.seq u).forwardAt ≤ s.hiveTime))

/-- Hive time moves on to the earliest instant at which some sequencer that holds a mark may forward one. -/
def State.toMark (s : State) : State :=
  match ((List.range 9).filter (fun u => !(s.seq u).marks.isEmpty)).map (fun u => (s.seq u).forwardAt) with
  | [] => s
  | t :: ts => s.advanceTo (ts.foldl min t)

/-- MARK_FORWARD: one mark enters the mark stream, when no system record waits (R249, R298). -/
def execMarkForward (s : State) : Host.Outcome State Fault Refusal :=
  .next (
    let s := s.toMark
    if s.take.system.isEmpty && s.take.waiting.isEmpty && (s.stream .mark).present then
      match s.markTurn with
      | none => s
      | some u =>
        match (s.seq u).marks with
        | [] => s
        | r :: rest =>
          let t := (s.setMarks u rest).enterMark r
          let t := t.setSeq u { t.seq u with forwardAt := t.hiveTime + 16 * 32 }
          (({ t with take := { t.take with turn := (u + 1) % 9 } }).queueLoss u).closeMarks
    else s)

/-- TRIG_OUT_PULSE_END of output `n` (R253). -/
def execTrigOutPulseEnd (n : Nat) (s : State) : Host.Outcome State Fault Refusal :=
  .next (
    match (sget (fun _ => (false, none)) s.trigOut n).2 with
    | none => s
    | some e => if n < 4 then (s.advanceTo e).driveOut n e false none else s)

/-- A write of 1 to SEQ_FORCE.TRIG (R258). -/
def State.forceTrigger (s : State) : State :=
  if s.taking then { s with take := { s.take with forced := true } } else s

/-- TRIG. -/
def execTrig (s : State) : Host.Outcome State Fault Refusal := .next s.forceTrigger

/-- TRIG_IN: input `pin` is sampled at a new level at a tick (R252). -/
def execTrigIn (pin tick : Nat) (level : Bool) (s : State) : Host.Outcome State Fault Refusal :=
  .next (
    let t := s.advanceTo tick
    if pin < 4 ∧ t.pinLevel pin tick ≠ level then
      { t with trigIn := ⟨pin, tick, level⟩ :: t.trigIn.take 255 }
    else t)

/-! ### The waggle sideband (R32, R33, R243, R297, R357, R622, R623) -/

def State.side (s : State) (u : Nat) : SideSt := sget (fun _ => SideSt.reset) s.sides u
def State.setSide (s : State) (u : Nat) (x : SideSt) : State :=
  { s with sides := sput (fun _ => SideSt.reset) s.sides u x }

/-- The run of lost beats of a direction. -/
def SideSt.run (x : SideSt) (outbound : Bool) : Option (Nat × Nat) := if outbound then x.outRun else x.inRun
def SideSt.setRun (x : SideSt) (outbound : Bool) (r : Option (Nat × Nat)) : SideSt :=
  if outbound then { x with outRun := r } else { x with inRun := r }

/-- A run closes at a tick: its WAGGLE_LOST record is written (R297). -/
def State.closeRun (s : State) (u : Nat) (outbound : Bool) (tick : Nat) : State :=
  match (s.side u).run outbound with
  | none => s
  | some (b, n) =>
    (s.setSide u ((s.side u).setRun outbound none)).systemMark
      (sysRec 0x0A u (32 * b) (flag (!outbound)) n tick 0)

/-- The runs of every super close at the end of the take. -/
def State.closeRuns (s : State) (tick : Nat) : State :=
  s.supers.foldl (fun t u => (t.closeRun u true tick).closeRun u false tick) s

/-- WAGGLE_LOST: the sideband of super `u` loses the flags of a sample beat. They are taken as 0, outbound HOLD bits as 1,
and the 1,024th lost beat in a row stops the take (DEDUCED, log entry 126). -/
def execWaggleLost (u : Nat) (outbound : Bool) (beat : Nat) (s : State) : Host.Outcome State Fault Refusal :=
  s.on (.waggle u) (
    if u = 0 then s
    else
      let x := s.side u
      let old := match x.run outbound with
        | none => none
        | some (b, n) => if b + n = beat then some (b, n) else none
      let s := if old.isNone then s.closeRun u outbound (32 * beat) else s
      let x := s.side u
      let run := match old with
        | none => (beat, 1)
        | some (b, n) => (b, n + 1)
      let x := x.setRun outbound (some run)
      let x := if outbound then { x with lostOut := beat :: x.lostOut.take 63, holdLost := true }
        else { x with lostIn := beat :: x.lostIn.take 63 }
      let t := s.setSide u x
      let t := t.bump (.waggle u) (if outbound then R.WAGGLE_LOST_OUT else R.WAGGLE_LOST_IN) 1
      let t := t.raise (.waggle u) (flag (!outbound))
      if run.2 = 1024 then t.faultStop 5 else t)

/-- WAGGLE_FLAGS_RECEIVED_AGAIN, from a tick on. -/
def execWaggleFlagsReceivedAgain (u : Nat) (outbound : Bool) (tick : Nat) (s : State) :
    Host.Outcome State Fault Refusal :=
  s.on (.waggle u) (
    let t := s.closeRun u outbound tick
    if outbound then t.setSide u { t.side u with holdLost := false } else t)

/-- WAGGLE_WIRE_FAIL on link `link`: the receiver runs on the other wire. -/
def execWaggleWireFail (link : Nat) (s : State) : Host.Outcome State Fault Refusal :=
  .next (if linkPresent s.fuse.part link then
    (s.putF .hive (R.HIVE_LINK_WSB_ONE link) 1).raiseLink link 2
  else s)

/-- The hops over which the hive clock is forwarded: row 0, DL6, and row 1 (R33). -/
def clockHop (link : Nat) : Bool := decide (link < 7)

/-- CLOCK_PAIR_FAIL on link `link`: the SPLL runs on the other pair; with both pairs gone the link has failed. -/
def execClockPairFail (link : Nat) (s : State) : Host.Outcome State Fault Refusal :=
  .next (if linkPresent s.fuse.part link && clockHop link then
    if s.isSet .hive (R.HIVE_LINK_CLK_ONE link) then s.faultStop 5
    else (s.putF .hive (R.HIVE_LINK_CLK_ONE link) 1).raiseLink link 2
  else s)

end Sys2Proof.Machine
end

