-- ==== Sys2Proof/Machine/TimeCmds.lean ====
section
/-!
DEFINITION. The steps of hive time and of the PLLs (chapter 03).
-/
namespace Sys2Proof.Machine

/-! ### Hive time -/

/-- A write of 1 to PLL_TIME_CTRL.LOAD (R84, R85). -/
def State.requestLoad (s : State) : State :=
  if s.inTake then s.putF (.pll 0) R.PLL_TIME_CTRL_LOAD_REFUSED 1
  else { s with loadWanted := some (s.getPair (.pll 0) R.PLL_TIME_LOAD_LO_VALUE R.PLL_TIME_LOAD_HI_VALUE / 32 * 32) }

/-- LOAD. -/
def execLoad (s : State) : Host.Outcome State Fault Refusal := .next s.requestLoad

/-- HIVE_TIME_LOAD: at the next beat boundary every super's hive time takes the value asked for (R84). -/
def execHiveTimeLoad (s : State) : Host.Outcome State Fault Refusal :=
  .next (match s.loadWanted with
    | none => s
    | some v => (({ s with loadWanted := none }.advanceTo (beatUp s.hiveTime)).loadTime v).regrid)

/-- The accepted edges after which a TURN record is due (R298). -/
def State.turnDue (s : State) : Bool :=
  s.isSet .hive R.HIVE_TAKE_CTRL_TURN_REC && decide (s.take.system.length ≤ 32)
    && s.getF (.pll 0) R.PLL_TIME_TURN_COUNT_COUNT % max 1 (s.getF .hive R.HIVE_TAKE_TURN_DIV) == 0

/-- TURN_MARK: a rising edge at a tick (R86, R87). -/
def execTurnMark (tick : Nat) (s : State) : Host.Outcome State Fault Refusal :=
  let t := s.advanceTo tick
  let early := match t.turnAt with | none => false | some a => decide (tick < a + 32)
  .next (if early then t.bump (.pll 0) R.PLL_TIME_CTRL_TURN_EARLY 1
    else
      let t := (t.putPair (.pll 0) R.PLL_TIME_TURN_LO_TIME R.PLL_TIME_TURN_HI_TIME tick).putF (.pll 0)
        R.PLL_TIME_TURN_COUNT_COUNT (t.getF (.pll 0) R.PLL_TIME_TURN_COUNT_COUNT + 1)
      let t := { t with turnAt := some tick }
      if t.turnDue then t.systemMark (sysRec 0x07 0xF tick 0 (t.getF (.pll 0) R.PLL_TIME_TURN_COUNT_COUNT) 0 0) else t)

/-- TIME_ALIGN_MESSAGE: super `u` loads the value that S0 sent plus 256 ticks (R81, R82, R112). -/
def execTimeAlignMessage (u sent : Nat) (s : State) : Host.Outcome State Fault Refusal :=
  s.on (.spll u 0) (
    let p := Page.spll u 0
    if s.locked p && !s.boot.cutOff.contains u then
      let new := (sent + 256) % timeModulus
      let step : Int := (new : Int) - (s.timeOf u : Int)
      let t := ((s.emit (.timeMessage u sent)).setTimeOf u new).putF p R.PLL_TIME_STATUS_ALIGNED 1
      let t := t.settleBoot
      if (t.pll p).stepOwed then
        let t := (t.setPll p { t.pll p with stepOwed := false }).putF p R.PLL_TIME_STATUS_TIME_STEP (saturatedSigned 24 step)
        t.systemMark (sysRec 0x09 u new 0 0 0 (unsignedOf 64 step))
      else t
    else s)

/-- INTAKE_RESUME of super `u`, at the first beat after its SPLL is locked and its copy aligned (R111). -/
def execIntakeResume (u : Nat) (s : State) : Host.Outcome State Fault Refusal :=
  s.on (.spll u 0) (
    if s.locked (.pll 0) && s.locked (.spll u 0) && s.isSet (.spll u 0) R.PLL_TIME_STATUS_ALIGNED
        && s.stopped.any (fun e => e.1 == u) then
      let t := s.advanceTo (beatUp s.hiveTime)
      (t.resumeIntake u t.hiveTime).settleSeqs
    else s)

/-! ### PLLs -/

/-- The page of a PLL. -/
def isPll : Page → Bool
  | .pll _ => true
  | .spll _ _ => true
  | _ => false

/-- A command on PLL `p`. -/
def State.onPll (s : State) (p : Page) (t : State) : Host.Outcome State Fault Refusal :=
  s.on p (if isPll p then t else s)

/-- SSC_CHANGE: a new spread-spectrum setting takes effect (R104). -/
def execSscChange (p : Page) (s : State) : Host.Outcome State Fault Refusal :=
  s.onPll p (
    if (s.pll p).sscWaits then
      (s.setPll p { s.pll p with sscWaits := false }).putF p R.PLL_STATUS_SSC_ACTIVE
        (flag (s.getF p R.PLL_SSC_MODE != 0))
    else s)

/-- A PLL relocks during a take: the intake of every super that it clocks stops (R658). -/
def State.stopClocked (s : State) (p : Page) : State := (s.clockedSupers p).foldl (fun t u => t.stopIntake u) s

/-- A PLL relocks through bypass with its settings unchanged (R99, R110). -/
def State.relockSame (s : State) (p : Page) : State :=
  let f := outputOf (s.refOf p (s.getF p R.PLL_CTRL_REF_SEL)) (s.activeDiv p)
  ((s.startRelock p (bypassShift (s.refOf p (s.getF p R.PLL_CTRL_REF_SEL)) f f)).abandonUnder p).stopClocked p

/-- What the lock of a PLL brings with it: of the MPLL after a relock, the advance of hive time (R100) and the relock of
every PLL on the hive clock (R99); of an SPLL, the step that is to be recorded (R112); of a DPLL, training again (R400). -/
def State.afterLock (s : State) (p : Page) (relocked : Bool) (cycles : Nat) (coasted : Bool) : State :=
  match p with
  | .pll 0 =>
    if relocked then
      let d := s.activeDiv p
      let t := if s.timeRuns then s.tick (cycles * 8 * d.n / (d.m * d.p)) else s
      t.clockedPlls.foldl (fun t q => t.relockSame q) t
    else s
  | .spll u 0 =>
    if coasted && !s.stopped.any (fun e => e.1 == u) then s.setPll p { s.pll p with stepOwed := true } else s
  | .spll u 2 => s.restartTraining u
  | _ => s

/-- The COMMIT that a lock ends clears, and one that waited starts its own change (R98). -/
def State.commitAtLock (s : State) (p : Page) : State :=
  if s.isSet p R.SHADOW_STATUS_HELD then s
  else if s.isSet p R.SHADOW_STATUS_COMMIT_WAIT then
    if s.gatherHold p then s
    else (s.putF p R.SHADOW_STATUS_COMMIT_WAIT 0).applyPll p
  else if s.isSet p R.COMMIT_COMMIT then s.clearCommit p
  else s

/-- PLL_LOCK. `cycles` counts the cycles of REFCLK that passed while the MPLL relocked (R100)
(DESIGN CHOICE, log entry 43). -/
def execPllLock (p : Page) (cycles : Nat) (s : State) : Host.Outcome State Fault Refusal :=
  s.onPll p (
    let st := s.pllState p
    if s.powerOk ∧ (st = 1 ∨ st = 2 ∨ st = 6) then
      let x := s.pll p
      let d := s.drawFree
      let t := if x.searched then d.2.putF p R.PLL_STATUS_BAND (Config.vcoBand d.1).toNat else s
      let coasted := x.cause != .none
      let t := t.setPllState p 3
      let t := if coasted then t.coastRecord p else t
      let t := t.setPll p { x with cause := .none, searched := false, relock := false }
      ((((t.afterLock p x.relock cycles coasted).commitAtLock p).startTime).settleBoot).boardLock p
    else s)

/-- The reference monitor of a PLL rejects its reference while it has no frozen control value (R658). -/
def State.loseReference (s : State) (p : Page) : State :=
  (((s.setPllState p 4).putF p R.PLL_FLAGS_LOCK_LOST 1).raisePll p true).stopClocked p

/-- REF_LOST. -/
def execRefLost (p : Page) (s : State) : Host.Outcome State Fault Refusal :=
  s.onPll p (
    let t := s.putF p R.PLL_STATUS_REF_PRESENT 0
    match s.pllState p with
    | 3 => (t.coast p .reference).abandonUnder (if p == .pll 0 then .hive else p)
    | 6 => t.coast p .reference
    | 5 => t.setPll p { t.pll p with cause := .reference }
    | 0 => t
    | _ => t.loseReference p)

/-- LOCK_LOST. -/
def execLockLost (p : Page) (s : State) : Host.Outcome State Fault Refusal :=
  s.onPll p (
    let st := s.pllState p
    if s.isSet p R.PLL_STATUS_REF_PRESENT ∧ (st = 3 ∨ st = 6) then
      (s.coast p .lock).abandonUnder (if p == .pll 0 then .hive else p)
    else s)

/-- COAST_LIMIT of the MPLL or an SPLL (R108, R109). -/
def execCoastLimit (p : Page) (s : State) : Host.Outcome State Fault Refusal :=
  s.onPll p (
    if s.pllState p = 5 ∧ ¬ (s.clockedSupers p).isEmpty then
      let t := s.advanceTo ((s.pll p).coastAt + s.getF p R.PLL_COAST_COAST_MAX * ticksPerUs)
      let t := t.putF p R.PLL_FLAGS_COAST_LIMIT 1
      let t := match p with
        | .spll u _ => t.raise (.spll u 0) 1
        | _ => t.raise p 2
      t.stopClocked p
    else s)

/-- A coasting PLL resumes tracking, or relocks when its frequency is too far off (R110). -/
def State.resumePll (s : State) (p : Page) (small : Bool) : State :=
  if small then (s.endCoast p).setPllState p 6 else (s.endCoast p).relockSame p

/-- REF_RETURN. `small` says that the frequency error is at most 1.6%. -/
def execRefReturn (p : Page) (small : Bool) (s : State) : Host.Outcome State Fault Refusal :=
  s.onPll p (
    let t := s.putF p R.PLL_STATUS_REF_PRESENT 1
    match s.pllState p with
    | 5 => if (s.pll p).cause == .reference then t.resumePll p small else t
    | 4 => (t.setPllState p 1).setPll p { t.pll p with searched := true }
    | _ => t)

/-- RESUME_TRY of a PLL that lost lock with its reference present. -/
def execResumeTry (p : Page) (small : Bool) (s : State) : Host.Outcome State Fault Refusal :=
  s.onPll p (
    if s.pllState p = 5 ∧ s.isSet p R.PLL_STATUS_REF_PRESENT ∧ (s.pll p).cause = .lock then s.resumePll p small
    else s)

end Sys2Proof.Machine
end

