-- ==== Sys2Proof/Machine/Resets.lean ====
section
/-!
DEFINITION. Resets (chapter 19): page resets with their exceptions, the soft reset, the page reset of PERST_N, and the loss
of every rail but VAON.
-/
namespace Sys2Proof.Machine

/-! ### Page resets (R58 to R60, R580, R619, R620) -/

/-- The data-plane pages that R57 lists. -/
def dataPage : Page → Bool
  | .frame _ _ => true | .pod _ _ => true | .scout _ _ => true | .sseq _ => true | .press _ => true
  | .queue _ _ => true | .dram _ _ => true | .sram _ => true | .waggle _ => true
  | _ => false

/-- The further pages whose reset a take refuses (R620). -/
def heldPage : Page → Bool
  | .hive => true | .hseq => true | .hqueue i => i == 0 | .pll i => i == 0 || i == 2 | .spll _ _ => true
  | _ => false

/-- A PAGE_RESET of this page is refused now. -/
def State.resetRefused (s : State) (p : Page) : Bool :=
  p == .reeve || p == .ivr || (s.inTake && (dataPage p || heldPage p))

/-- The registers of page `p` at these offsets keep what they hold in `s`. -/
def State.keepWords (t s : State) (p : Page) (offs : List Nat) : State :=
  offs.foldl (fun t o => t.setWord (pageBase p + o) (s.word (pageBase p + o))) t

/-- The outputs TRIG_OUT are at 0 before INVERT, and a ball that changes is driven. `invert` tells the setting from now
on. -/
def State.dropTrigOut (s : State) (invert : Nat → Bool) : State :=
  let t := { s with trigOut := [] }
  (List.range 4).foldl (fun t n =>
    let was := Bool.xor (sget (fun _ => (false, none)) s.trigOut n).1 (s.isSet .hseq (R.SEQ_TOUT_INVERT n))
    if was == invert n then t else t.emit (.trigOut n s.hiveTime (invert n))) t

/-- The take registers of the HIVE page are at their reset values, and the take with them IDLE: the store holds nothing of
a take any more. Blocks on their way to the DRAM still reach it. -/
def State.dropTake (s : State) : State :=
  let t := s.supers.foldl (fun t u =>
    t.setStore u { t.store u with parts := [], owed := [], lossFrom := none, limit := 0, partSize := 0 }) s
  let t := t.allStreams.foldl (fun t i => t.setStream i .reset) t
  { t with take := .reset, stopped := [] }

/-- The HIVE page: the registers of chapter 19 and the state of the die-to-die links go on reporting
(DEDUCED, log entry 32). -/
def State.resetHive (s : State) : State :=
  ((s.clearPage .hive).keepWords s .hive
    ((List.range 10).map (fun n => 0x110 + 4 * n) ++ [0x264, 0x268, 0x26C, 0x270])).dropTake

/-- The HOST page (R487): the link and the events produced go on as they are (DEDUCED, log entry 33). -/
def State.resetHost (s : State) : State :=
  let t := s.dropRings
  let t := (t.clearPage .host).keepWords s .host [0x100, 0x178]
  t.showHost

/-- The EVENTS page (R509): as at a cold start (DEDUCED, log entry 34). -/
def State.resetEvents (s : State) : State :=
  let t := (s.clearPage .events).emptyEvents
  { t.clearRegs .host 0x380 0x388 with ev := .reset }

/-- A PLL page (R619): counts and flags clear, a coast ends, and the dividers return to their reset values through a
relock. -/
def State.resetPll (s : State) (p : Page) : State :=
  let ref := s.refOf p (s.getF p R.PLL_CTRL_REF_SEL)
  let old := outputOf ref (s.activeDiv p)
  let t := s.clearPage p
  let new := t.refOf p (t.getF p R.PLL_CTRL_REF_SEL)
  let t := t.putF p R.PLL_STATUS_BAND (s.getF p R.PLL_STATUS_BAND)
  let t := (t.putF p R.PLL_STATUS_REF_PRESENT (s.getF p R.PLL_STATUS_REF_PRESENT)).setPll p .reset
  let t := ((t.startRelock p (bypassShift new old (outputOf new (t.activeDiv p)))).abandonUnder p).stopClocked p
  if p == .pll 0 then { t with turnAt := none, loadWanted := none } else t

/-- The SRAM page (R619, R445): memories and repairs stay, and a run ends, a destructive one with zeros
(DESIGN CHOICE, log entry 35). -/
def State.resetSram (s : State) (u : Nat) : State :=
  let p := Page.sram u
  let boot := s.getF p R.SRAM_MARCH_CTRL_BOOT
  let t := ((s.clearPage p).keepWords s p [0x110, 0x114]).putF p R.SRAM_MARCH_CTRL_BOOT boot
  let t := (t.putF p R.PAGE_STATUS_FAULT (s.getF p R.PAGE_STATUS_FAULT)).putF p (blockBit 17) (s.getF p (blockBit 17))
  match (s.sramOf u).run with
  | none => t
  | some r =>
    let t := if r.destructive then t.zeroMarched u r.whole else t
    (t.setSramOf u { t.sramOf u with run := none }).marchOver u r

/-- A DRAM page (R619): training, STATE, layout and contents stay, with what waits in the queues. -/
def State.resetDram (s : State) (u k : Nat) : State :=
  let p := Page.dram u k
  let t := (s.clearPage p).keepWords s p [0x100, 0x148, 0x208, 0x210]
  let t := t.putF p R.DRAM_LTR_STATUS_SR (s.getF p R.DRAM_LTR_STATUS_SR)
  let x := t.chan u k
  let idle := fun (y : SubSt) => { y with acts := [], rows := [] }
  ((t.setChan u k { x with
    subA := idle x.subA, subB := idle x.subB, panicAt := none, panicRest := 0, hotNext := true, coolReads := 0
    heldNow := 0, heldBefore := 0, ueTimes := [] }).showChan u k).settlePanicOf u k

/-- A SCOUT page: the level at the input stays, for it is the ball's. -/
def State.resetScout (s : State) (u k : Nat) : State :=
  let l := (s.scout u k).level
  (s.clearPage (.scout u k)).setScout u k { ScoutSt.reset with level := l, recLevel := l }

/-- The BOARD page: the generator stands, and the VPLL takes the reset value of its dividers. -/
def State.resetBoard (s : State) : State :=
  let t := { s.clearPage .board with board := .reset, nbTolerance := 0xFFFF }
  let a := pageBase (.pll 3) + R.PLL_DIV_N.off
  let w := t.word (pageBase .board + 0x114)
  let t := if t.word a = w then t
    else
      let j := bypassShift ⟨Config.refSysHz, 1⟩ s.pixelClock t.pixelClock
      (t.setWord a w).startRelock (.pll 3) j
  t.settleNoFb

/-- The block of a page and its registers return to their reset values, but for what R619, R663 and R487 keep. -/
def State.resetBlock (s : State) (p : Page) : State :=
  match p with
  | .hive => s.resetHive
  | .reeve => s
  | .ivr => s
  | .host => s.resetHost
  | .events => s.resetEvents
  | .ring => { s.clearPage .ring with ring := .reset, afQueue := [], afLog := [] }
  | .board => s.resetBoard
  | .pll i => s.resetPll (.pll i)
  | .spll u k => s.resetPll (.spll u k)
  | .hseq => ((s.dropTrigOut (fun _ => false)).clearPage .hseq).setSeq 8 .reset
  | .hqueue i => s.resetQueue (.hive i)
  | .frame u f => (s.clearPage p).setFrame u f { FrameSt.reset with next := s.reached }
  | .pod u f => (((s.podDown u f 0).clearPage p).setPod u f .reset).catchUp u f
  | .scout u k => s.resetScout u k
  | .sseq u => (s.clearPage p).setSeq u .reset
  | .press u =>
    let x := s.store u
    (s.clearPage p).setStore u { x with cut := [], slipping := false }
  | .queue u i => s.resetQueue (.super u i)
  | .dram u k => s.resetDram u k
  | .sram u => s.resetSram u
  | .waggle u => (s.clearPage p).setSide u .reset

/-- Knob values and READY show on the page again. -/
def State.showPage (s : State) (p : Page) : State :=
  let t := match p with
    | .press u => s.showKnobs u
    | .dram u _ => s.showKnobs u
    | .sram u => s.showKnobs u
    | .board => s.showKnobs 0
    | _ => s
  t.showReady p

/-- The page is reset: its sources forget their hold-offs (R514) (DESIGN CHOICE, log entry 30). -/
def State.resetPage (s : State) (p : Page) : State := ((s.resetBlock p).forgetSources p).showPage p

/-- A write of 1 to PAGE_CTRL.PAGE_RESET. -/
def State.pageResetWrite (s : State) (p : Page) : State :=
  if s.resetRefused p then s.putF p R.PAGE_STATUS_RESET_REFUSED 1
  else (s.resetPage p).putF p R.PAGE_STATUS_RESET_REFUSED 0

/-- Pages are reset, those that the part has; each keeps RESET_REFUSED (R58). -/
def State.resetPages (s : State) (l : List Page) : State :=
  (l.filter s.has).foldl (fun t p => (t.resetPage p).putF p R.PAGE_STATUS_RESET_REFUSED (t.getF p R.PAGE_STATUS_RESET_REFUSED)) s

/-! ### The soft reset (R616, R618) -/

/-- The data-path regions of a super are emptied: its queues hold nothing, and no block waits. -/
def State.emptySuper (s : State) (u : Nat) : State :=
  let t := (List.range 10).foldl (fun t i => t.emptyQueue (.super u i)) s
  let t := t.setStore u { t.store u with cut := [], out := [], pushed := 0, queued := [], popped := 0, popBad := [] }
  t.workSram u

/-- A write of HIVE_RESET_CTRL with SOFT at 1 (DEDUCED, log entry 36). -/
def State.softReset (s : State) (key : Nat) : State :=
  if s.inTake || key != 0xA5 then s.putF .hive R.HIVE_RESET_CTRL_SOFT_REFUSED 1
  else
    let t := s.resetPages (s.supers.flatMap superPages ++ [.hseq, .board])
    let t := t.supers.foldl (fun t u => t.emptySuper u) t
    let t := ((t.clearRegs .hive 0x200 0x800).keepWords t .hive [0x260, 0x264, 0x268, 0x26C, 0x270]).dropTake
    (t.putF .hive R.HIVE_BOOT_LAST_RESET 5).bump .hive R.HIVE_RESET_COUNT_SOFT 1

/-! ### PERST_N (R616, R617) -/

/-- The pages that PERST_N resets. -/
def State.perstPages (s : State) : List Page :=
  [.events, .ring, .board, .hseq, .hqueue 0, .hqueue 1] ++ (s.supers.flatMap superPages).filter (fun p =>
    match p with
    | .dram _ _ => false
    | .sram _ => false
    | _ => true)

/-- The pages are reset, the take goes IDLE, and the host port with configuration space starts anew. -/
def State.perstReset (s : State) : State :=
  let t := s.resetPages s.perstPages
  let t := ((t.clearPage .host).emptyEvents).resetConfig
  let t := { t with host := .reset, boot := { t.boot with perstDue := false } }
  let t := (t.resetHive.forgetSources .host).forgetSources .hive
  t.showAllReady

/-! ### Power (R555, R616, R645) -/

/-- The registers that the always-on domain holds: page, offset and bits. -/
def State.alwaysOn (s : State) : List (Page × Nat × Word) :=
  [(.hive, 0x264, 0x0FFF0000#32), (.hive, 0x26C, 0xFFFFFFFF#32), (.reeve, 0x118, 0x80000000#32), (.reeve, 0x11C, 0xFFFFFFFF#32),
    (.reeve, 0x124, 0xFFFFFFFF#32), (.reeve, 0x130, 0xFFFFFFFF#32), (.ivr, 0x110, 0x00000009#32)]
    ++ s.supers.map (fun u => (Page.sram u, 0x100, 0x00000300#32))

/-- What lies outside the always-on registers when every rail but VAON goes off: all is at its reset values but the
account of the Reeve, the balls, and the line repairs. -/
def State.unpowered (s : State) : State :=
  { State.reset with
    fuse := s.fuse
    reeve := { ReeveSt.reset with
      energy := s.reeve.energy, wear := s.reeve.wear, periods := s.reeve.periods, sustain := sustainReset s.fuse.part
      shutdown := s.reeve.shutdown, thermLow := s.reeve.shutdown }
    boot := { BootSt.reset with
      resetN := s.boot.resetN, perst := s.boot.perst, vin := s.boot.vin, vstby := s.boot.vstby, railsOff := s.boot.railsOff
      straps := s.boot.straps }
    srams := (List.range 8).filterMap (fun u =>
      let x := s.sramOf u
      if x.repairs.isEmpty then none else some (u, { SramSt.reset with repairs := x.repairs }))
    trigIn := (List.range 4).filterMap (fun n => if s.pinLevel n s.hiveTime then some ⟨n, 0, true⟩ else none)
    scouts := s.scouts.filterMap (fun e =>
      if e.2.level then some (e.1, { ScoutSt.reset with level := true, recLevel := true }) else none)
    ports := s.ports, frees := s.frees, out := s.out, pending := s.pending }

/-- Every rail but VAON is off; the always-on registers keep their values (DEDUCED, log entry 38). -/
def State.powerDown (s : State) : State :=
  s.alwaysOn.foldl (fun t e =>
    let a := pageBase e.1 + e.2.1
    t.setWord a (mergeBits e.2.2 (t.word a) (s.word a))) s.unpowered

end Sys2Proof.Machine
end

