-- ==== Sys2Proof/Machine/RingCmds.lean ====
section
/-!
DEFINITION. The steps of the apiary ring (chapter 16).
-/
namespace Sys2Proof.Machine

/-! ### Hop words and forming -/

/-- HELLO: a hop word arrives at input `ring` at a tick. -/
def execHello (ring sub data tick : Nat) (s : State) : Host.Outcome State Fault Refusal :=
  .next (if s.ringActive then (s.advanceTo tick).receiveHello (ring % 2) sub data else s)

/-- LEADER_ELECTED. -/
def execLeaderElected (s : State) : Host.Outcome State Fault Refusal := .next s.becomeLeader

/-- FORM with the position it gives; `loopNs` is the loop time that a leader finds (DESIGN CHOICE, log entry 106). -/
def execForm (position loopNs : Nat) (s : State) : Host.Outcome State Fault Refusal :=
  .next (s.receiveForm position loopNs)

/-- The BODY words of a CTRL container (R521). -/
def ctrlBody (source dest type tally arg : Nat) : List Nat :=
  [placed source 15 11 ||| placed dest 10 6 ||| placed type 5 0, tally % 2 ^ 16, arg % 2 ^ 16, arg / 2 ^ 16 % 2 ^ 16,
    arg / 2 ^ 32 % 2 ^ 16]

/-- A CTRL container arrives; a hive that it is addressed to acts on it. -/
def State.receiveCtrl (s : State) (c : Copy) (source dest type tally arg : Nat) (f : State → State) : State :=
  s.receive c source 3 tally (ctrlBody source dest type tally arg)
    (fun t => if dest = 0x1F ∨ dest = t.position then f t else t)

/-- SETUP of the leader. -/
def execSetup (c : Copy) (tally arg : Nat) (s : State) : Host.Outcome State Fault Refusal :=
  .next (if s.isLeader then s else s.receiveCtrl c 0 0x1F 1 tally arg (fun t => t.applySetup arg))

/-- PATH to position `dest`: delays in ticks on rings A and B (R533). -/
def execPath (c : Copy) (dest tally arg : Nat) (s : State) : Host.Outcome State Fault Refusal :=
  .next (if s.isLeader then s else s.receiveCtrl c 0 dest 4 tally arg
    (fun t => { t with ring := { t.ring with path := some (bitsOf arg 23 0, bitsOf arg 47 24) } }))

/-- REPORT of a member to the leader. -/
def execReport (c : Copy) (source tally arg : Nat) (s : State) : Host.Outcome State Fault Refusal :=
  .next (s.receiveCtrl c source 0 3 tally arg
    (fun t => if t.isLeader then t.takeReport source (bitsOf arg 19 0) (bitsOf arg 39 20) else t))

/-- HOP_MEASURE of the hop into input `ring`. -/
def execHopMeasure (ring : Nat) (s : State) : Host.Outcome State Fault Refusal :=
  .next (if s.ringActive then s.sendProbe (ring % 2) else s)

/-! ### Common time -/

/-- TIME_LAUNCH: the leader sends a TIME container on each ring (DESIGN CHOICE, log entry 105). -/
def execTimeLaunch (s : State) : Host.Outcome State Fault Refusal :=
  .next (if s.isLeader && s.ringUp then
    let m : RingMsg := ⟨2, 0, [placed s.position 15 11 ||| placed s.ring.timeTally 10 0], s.bothLoops⟩
    { s with ring := { s.ring with
      ctrl := s.ring.ctrl ++ [m], timeTally := (s.ring.timeTally + 1) % 2 ^ 11 } }.launchCtrl
  else s)

/-- The BODY words of a TIME container (R521). -/
def timeBody (tally time : Nat) : List Nat :=
  placed tally 10 0 :: (List.range 4).map (fun i => time / 2 ^ (16 * i) % 2 ^ 16)

/-- TIME: the copy on one ring arrives at a tick. Each copy is taken, whichever comes first (R534). -/
def execTime (c : Copy) (tally time tick : Nat) (s : State) : Host.Outcome State Fault Refusal :=
  .next (if s.isLeader || !s.ringActive then s
    else
      let t := s.advanceTo tick
      match c.quality with
      | .bad => t.badContainer c.ring
      | .inverted => t.emit (.ringWord c.ring 6 [])
      | .good => (t.emit (.ringWord c.ring 2 (timeBody tally time))).takeTime c.ring time)

/-- A write of 1 to RING_EPOCH.GO (R535). -/
def State.epochGo (s : State) : State :=
  if s.isLeader then
    if s.inTake then s.putF .ring R.RING_EPOCH_REFUSED 1 else if s.ringUp then s.sendEpoch else s
  else s

/-- EPOCH_GO. -/
def execEpochGo (s : State) : Host.Outcome State Fault Refusal := .next s.epochGo

/-- EPOCH of the leader. -/
def execEpoch (c : Copy) (tally count : Nat) (s : State) : Host.Outcome State Fault Refusal :=
  .next (if s.isLeader then s else s.receiveCtrl c 0 0x1F 2 tally count State.loadEpoch)

/-- LEADER_LOST: no TIME container for 200 µs (R527). -/
def execLeaderLost (s : State) : Host.Outcome State Fault Refusal :=
  .next (if !s.isLeader && decide (3 ≤ s.ringState) && decide (s.ringState ≤ 5) then
    (s.advanceTo (s.ring.lastTime + 200 * ticksPerUs)).startForming
  else s)

/-! ### Flags -/

/-- FLAG_LAUNCH on ring `ring`. -/
def execFlagLaunch (ring : Nat) (s : State) : Host.Outcome State Fault Refusal := .next (s.launchFlag (ring % 2))

/-- FLAG: the five BODY words of a FLAG container. -/
def execFlag (c : Copy) (body : List Nat) (s : State) : Host.Outcome State Fault Refusal :=
  .next (s.receive c (bitsOf (body.getD 0 0) 9 5) 1 (bitsOf (body.getD 0 0) 4 0) body (fun t => t.noteFlag body))

/-- FLAG_DELIVERY of the earliest delivery beat. -/
def execFlagDelivery (s : State) : Host.Outcome State Fault Refusal := s.deliverFlags.finish

/-- CONTAINER_RETURN of the container launched on a loop, at input `ring`. -/
def execContainerReturn (loop ring : Nat) (s : State) : Host.Outcome State Fault Refusal :=
  .next (if s.ringActive then s.containerBack loop (ring % 2) else s)

/-! ### Breaks, bypass and mail -/

/-- HOP_DOWN: the hop into an input fails for a cause, and BREAK goes back on the other ring (R543). -/
def execHopDown (ring cause : Nat) (s : State) : Host.Outcome State Fault Refusal :=
  .next (if s.ringActive then (s.sendHello (1 - ring % 2) 0xC (ring % 2)).hopDown (ring % 2) cause else s)

/-- BREAK arrives: the hop into this input goes down with cause REMOTE. -/
def execBrk (ring : Nat) (s : State) : Host.Outcome State Fault Refusal :=
  .next (if s.ringActive then s.hopDown (ring % 2) 5 else s)

/-- UNWRAP of the hop into an input. -/
def execUnwrap (ring : Nat) (s : State) : Host.Outcome State Fault Refusal :=
  .next (if s.ringActive then s.unwrap (ring % 2) else s)

/-- A write of 1 to RING_CTRL.BYPASS: LEAVE is sent, and the bypass closes 100 µs later (R548). -/
def State.startBypass (s : State) : State :=
  let t := s.putF .ring R.RING_CTRL_BYPASS 1
  if t.ringActive && t.ring.leaving.isNone then
    { t with ring := { t.ring with leaving := some t.hiveTime } }.sendCtrl 5 0x1F 0
  else t.settleRing

/-- BYPASS. -/
def execBypass (s : State) : Host.Outcome State Fault Refusal := .next s.startBypass

/-- BYPASS_CLOSE. -/
def execBypassClose (s : State) : Host.Outcome State Fault Refusal :=
  .next (match s.ring.leaving with
    | none => s
    | some a =>
      let t := s.advanceTo (a + 100 * ticksPerUs)
      { t with ring := { t.ring with leaving := none } }.settleRing)

/-- LEAVE of a hive: the leader sends SETUP without it. -/
def execLeave (c : Copy) (source tally : Nat) (s : State) : Host.Outcome State Fault Refusal :=
  .next (s.receiveCtrl c source 0x1F 5 tally 0
    (fun t => if t.isLeader && t.ringUp then t.sendSetup (t.hives - 1) (t.ringState == 5) else t))

/-- A write of 1 to RING_MAIL_OUT.SEND (R549). -/
def State.sendMail (s : State) : State :=
  if s.isSet .ring R.RING_MAIL_OUT_BUSY then s
  else
    (s.putF .ring R.RING_MAIL_OUT_BUSY 1).sendCtrl 6 (s.getF .ring R.RING_MAIL_OUT_TO)
      (s.getF .ring R.RING_MAIL_OUT_ARG_ARG + 2 ^ 32 * s.getF .ring R.RING_MAIL_OUT_ARG_HI)

/-- MAIL_SEND: a write of RING_MAIL_OUT with SEND at 1. -/
def execMailSend (dest argHi : Nat) (s : State) : Host.Outcome State Fault Refusal :=
  .next (((s.putF .ring R.RING_MAIL_OUT_TO dest).putF .ring R.RING_MAIL_OUT_ARG_HI argHi).sendMail)

/-- A message is stored in RING_MAIL_IN, or dropped while one is held (R549). -/
def State.storeMail (s : State) (source arg : Nat) : State :=
  if s.isSet .ring R.RING_MAIL_IN_VALID then s.raise .ring 11
  else
    let t := (s.putF .ring R.RING_MAIL_IN_FROM source).putF .ring R.RING_MAIL_IN_ARG_HI (arg / 2 ^ 32)
    ((t.putF .ring R.RING_MAIL_IN_ARG_ARG arg).putF .ring R.RING_MAIL_IN_VALID 1).raise .ring 10

/-- MAIL arrives. -/
def execMail (c : Copy) (source dest tally arg : Nat) (s : State) : Host.Outcome State Fault Refusal :=
  .next (s.receiveCtrl c source dest 6 tally arg (fun t => t.storeMail source arg))

end Sys2Proof.Machine
end

