-- ==== Sys2Proof/Machine/SramCmds.lean ====
section
/-!
DEFINITION. The memory windows (chapter 02, R71 to R75; chapter 13, R432 to R435) and the march test engine (R436 to
R445).
-/
namespace Sys2Proof.Machine

/-! ### Windows -/

/-- The super that the windows show; none while MEMWIN_SEL selects nothing (R72). -/
def State.windowSuper (s : State) : Option Nat :=
  let u := s.getF .hive R.MEMWIN_SEL_SUPER
  if u < s.fuse.part.supers then some u else none

/-- The memory with a code is under a destructive march. -/
def State.underMarch (s : State) (u code : Nat) : Bool :=
  match (s.sramOf u).run with
  | none => false
  | some r => r.destructive && (r.whole || code == 14 || code == 15)

/-- A window write to a word is ignored and counted (R433, R434, R435). -/
def State.windowRefused (s : State) (u off : Nat) : Bool :=
  (s.inTake && !hostArea off) || !s.enabled (.sram u) || s.underMarch u (memoryCode off)

/-- What a window write does to a byte: the normal window stores it, the aliases set or clear its 1 bits (R75). -/
inductive WindowOp where
  | store | setBits | clearBits
deriving DecidableEq, Repr

def WindowOp.apply (op : WindowOp) (old new : Byte) : Byte :=
  match op with
  | .store => new
  | .setBits => old ||| new
  | .clearBits => old &&& ~~~ new

/-- An error found in the word at a window offset by a window access, and what the memory does (R426): a single-bit error
is corrected in the memory too, an uncorrectable one stays. `struck` says that an uncorrectable error has struck now. -/
def State.windowCheck (s : State) (u word : Nat) (flaw : Option Bool) : State :=
  let t := if flaw == some true && !(s.sramOf u).bad.contains word then s.upsetSram u word else s
  if (t.sramOf u).bad.contains word then t.sramError u word 3 true
  else if flaw == some false then t.sramError u word 3 false else t

/-- Whether an access finds an error in a word. -/
def flawOf (flaws : List (Nat × Bool)) (word : Nat) : Option Bool :=
  (flaws.find? (fun f => f.1 == word)).map Prod.snd

/-- The enabled bytes of a write that fall into one word, as offsets in the window. -/
def bytesOfWord (off word : Nat) (bytes : List (Option Byte)) : List (Nat × Byte) :=
  (bytes.zipIdx.filterMap (fun e => e.1.map (fun b => (off + e.2, b)))).filter (fun e => e.1 / 8 * 8 == word)

/-- A write to one word: a whole word replaces it; a part, and every alias write, is a read-modify-write (R432, R435). -/
def State.windowWord (s : State) (op : WindowOp) (u word : Nat) (l : List (Nat × Byte)) (flaws : List (Nat × Bool)) :
    State :=
  if op = .store ∧ l.length = 8 then (l.foldl (fun t e => t.setSramByte u e.1 e.2) s).markSram u word false
  else
    let t := s.windowCheck u word (flawOf flaws word)
    l.foldl (fun t e => t.setSramByte u e.1 (op.apply (t.sramByte u e.1) e.2)) t

/-- The offsets of the words that a stretch of a window covers. -/
def wordsIn (off len : Nat) : List Nat :=
  if len = 0 then [] else (List.range ((off + len - 1) / 8 + 1 - off / 8)).map (fun i => 8 * (off / 8 + i))

/-- A write through a memory window: a poisoned one is discarded (R456); in a word where writes are ignored nothing
changes and the write is counted once. -/
def State.windowWrite (s : State) (op : WindowOp) (off : Nat) (bytes : List (Option Byte)) (poisoned : Bool)
    (flaws : List (Nat × Bool)) : State :=
  if poisoned then s.badBar0
  else match s.windowSuper with
  | none => s
  | some u =>
    let words := ((wordsIn off bytes.length).filter (fun w => decide (w < sramSize))).map
      (fun w => (w, bytesOfWord off w bytes))
    let words := words.filter (fun e => !e.2.isEmpty)
    let t := words.foldl (fun t e =>
      if t.windowRefused u e.1 then t else t.windowWord op u e.1 e.2 flaws) s
    if words.any (fun e => s.windowRefused u e.1) then t.bump (.sram u) R.SRAM_WIN_REFUSED 1 else t

/-- Bytes beyond the memories read as zeros. -/
def State.windowByte (s : State) (u a : Nat) : Byte := if a < sramSize then s.sramByte u a else 0

/-- A read through a memory window (R74, R426, R427). During a take the data path's working regions stand as it left them
a moment ago. -/
def State.windowRead (s : State) (off len : Nat) (flaws : List (Nat × Bool)) : State :=
  match s.windowSuper with
  | none => s.emit (.readData (List.replicate len 0) false)
  | some u =>
    let words := (wordsIn off len).filter (fun w => decide (w < sramSize))
    let t := if s.taking && words.any (workArea u) then s.workSram u else s
    let t := words.foldl (fun t w => t.windowCheck u w (flawOf flaws w)) t
    let bad := words.any (fun w => (t.sramOf u).bad.contains w)
    let t := if bad then t.badBar0 else t
    t.emit (.readData ((List.range len).map (fun i => t.windowByte u (off + i))) bad)

/-- WINDOW_WRITE of bytes from a window offset on; bytes not enabled are `none`. -/
def execWindowWrite (off : Nat) (bytes : List (Option Byte)) (poisoned : Bool) (flaws : List (Nat × Bool)) (s : State) :
    Host.Outcome State Fault Refusal :=
  if 0x800000 < off + bytes.length then .fault .outsideBar else .next (s.windowWrite .store off bytes poisoned flaws)

/-- BIT_SET_ALIAS_WRITE. -/
def execBitSetAliasWrite (off : Nat) (bytes : List (Option Byte)) (poisoned : Bool) (flaws : List (Nat × Bool))
    (s : State) : Host.Outcome State Fault Refusal :=
  if 0x800000 < off + bytes.length then .fault .outsideBar else .next (s.windowWrite .setBits off bytes poisoned flaws)

/-- BIT_CLEAR_ALIAS_WRITE. -/
def execBitClearAliasWrite (off : Nat) (bytes : List (Option Byte)) (poisoned : Bool) (flaws : List (Nat × Bool))
    (s : State) : Host.Outcome State Fault Refusal :=
  if 0x800000 < off + bytes.length then .fault .outsideBar
  else .next (s.windowWrite .clearBits off bytes poisoned flaws)

/-- WINDOW_READ through any of the three windows. -/
def execWindowRead (off len : Nat) (flaws : List (Nat × Bool)) (s : State) : Host.Outcome State Fault Refusal :=
  if 0x800000 < off + len then .fault .outsideBar else .next (s.windowRead off len flaws)

/-! ### The march engine -/

/-- MARCH_START: a write of SRAM_MARCH_CTRL with START at 1, and BOOT, MODE and TARGET. -/
def execMarchStart (u boot : Nat) (mode target : Bool) (s : State) : Host.Outcome State Fault Refusal :=
  s.on (.sram u) (
    let p := Page.sram u
    let t := (s.putF p R.SRAM_MARCH_CTRL_BOOT boot).putF p R.SRAM_MARCH_CTRL_MODE (flag mode)
    (t.putF p R.SRAM_MARCH_CTRL_TARGET (flag target)).marchStart u)

/-- MARCH_RETENTION_WAIT: the wait of the background under way ends; there is one in each of the three (R436). -/
def execMarchRetentionWait (u : Nat) (s : State) : Host.Outcome State Fault Refusal :=
  s.on (.sram u) (
    let x := s.sramOf u
    match x.run with
    | none => s
    | some r =>
      if r.destructive ∧ r.waits < 3 then
        (s.setSramOf u { x with run := some { r with waits := r.waits + 1 } }).putF (.sram u)
          R.SRAM_MARCH_STATUS_BACKGROUND (min 2 (r.waits + 1))
      else s)

/-- MARCH_RUN_DONE: a destructive run is done after its three waits. -/
def execMarchRunDone (u : Nat) (fails : List (Nat × Nat × Nat × Nat)) (s : State) : Host.Outcome State Fault Refusal :=
  s.on (.sram u) (
    match (s.sramOf u).run with
    | none => s
    | some r =>
      if r.destructive ∧ r.waits < 3 then s
      else ((s.endMarch u r (fails.map (fun f => ⟨f.1, f.2.1, f.2.2.1, f.2.2.2⟩))).marchOver u r).settleBoot)

end Sys2Proof.Machine
end

