-- ==== Sys2Proof/Machine/Access.lean ====
section
/-!
DEFINITION. Access to registers over BAR0 (chapter 02): what a write of a word stores and what it sets off, pairs of words
(R69), and what a read returns.
-/
namespace Sys2Proof.Machine

/-! ### Commits (R64 to R67) -/

/-- A write of the COMMIT register: nothing when both bits are 1 (R67). -/
def State.commitWrite (s : State) (p : Page) (commit discard : Bool) : State :=
  if commit && discard then s
  else if discard then s.discard p
  else if commit then
    match p with
    | .pll i => s.commitPll (.pll i)
    | .spll u k => s.commitPll (.spll u k)
    | .board => s.commitBoard
    | _ => s.requestApply p
  else s

/-- The page applies under R64, not at an apply point of its own chapter. -/
def plainApply : Page → Bool
  | .pll _ => false
  | .spll _ _ => false
  | .board => false
  | _ => true

/-! ### Events of a page (R492 to R496, R514) -/

/-- Sources of a page, or of the link bank, by bit. -/
def sourcesOf (bank : Bool) (p : Page) (bits : Nat) : List Nat :=
  if bank then (bitsSet 30 bits).map (4 + ·) else (bitsSet (evSources p) bits).map (sourceNumber p)

/-- Every source written 1 in a FORCE register is raised (R496). -/
def State.forceSources (s : State) (l : List Nat) : State := l.foldl (fun t n => t.raiseAt n t.hiveTime true) s

/-- Sources whose ENABLE a write clears lose their unrecorded raises (R514). -/
def State.disableSources (s : State) (l : List Nat) : State :=
  { s with ev := { s.ev with unrec := s.ev.unrec.filter (fun e => !l.contains e.1) } }

/-! ### Writes -/

/-- What a write of a field outside its range stores: the value that its register table names. -/
def State.clampWord (s : State) (p : Page) (o : Nat) (w : Word) : Word :=
  let at' := fun (hi lo : Nat) (f : Nat → Nat) => setBits w hi lo (f (bitsOf w.toNat hi lo))
  match p with
  | .pll _ => if o = 0x10C then at' 16 0 (fun v => if v = 0 ∨ 100000 < v then 100000 else v) else w
  | .spll _ _ => if o = 0x10C then at' 16 0 (fun v => if v = 0 ∨ 100000 < v then 100000 else v) else w
  | .ring => if o = 0x104 then at' 15 0 (min 30000) else w
  | .reeve =>
    if o = 0x100 then at' 15 0 (min (sustainReset s.fuse.part))
    else if o = 0x104 then at' 13 0 (min 10000) else w
  | .ivr => if o = 0x10C then at' 7 0 (fun v => max 8 (min 80 v)) else w
  | .press _ => if o = 0x108 then at' 25 16 (min 768) else w
  | _ => w

/-- RW bits that a write does not store as they are: each has an effect of its own, which decides what they hold. -/
def effectMask (p : Page) (o : Nat) : Word :=
  if o = 0x008 then
    match p with
    | .hive => 1 | .host => 1 | .reeve => 1 | .ivr => 1 | .pll _ => 1 | .spll _ _ => 1
    | _ => 0
  else
    match p with
    | .host => if o = 0x114 then 7 else 0
    | .events => if o = 0x10C then 1 else 0
    | .ring => if o = 0x100 then 0x80000000 else 0
    | _ => 0

/-- A shadow write: the shadow takes the shadowed bits, and SHADOW_STATUS tells (R61, R65). -/
def State.writeShadow (s : State) (p : Page) (o : Nat) (w : Word) : State :=
  let a := pageBase p + o
  let m := shadowMask p o &&& rwMask p o
  if m = 0 then s
  else
    let t := s.setShadow a (mergeBits m (s.shadow a) w)
    let t := if liveMask p o = 0 then t else t.putF p R.SHADOW_STATUS_LIVE_PENDING 1
    let t := if t.inTake && plainApply p && (m &&& ~~~ liveMask p o) != 0 then t.putF p R.SHADOW_STATUS_HELD 1 else t
    t.settleDirty p

/-- The time that a panic under way has lasted goes into DRAM_PANIC_US. -/
def State.foldPanic (s : State) (u k : Nat) : State :=
  let x := s.chan u k
  match x.panicAt with
  | none => s
  | some a =>
    let t := s.putF (.dram u k) R.DRAM_PANIC_US_TIME (s.panicUs u k)
    t.setChan u k { x with panicAt := some s.hiveTime, panicRest := (x.panicRest + (s.hiveTime - a)) % ticksPerUs }

/-- What a write stores: direct RW bits, W1C bits cleared, and shadowed bits in the shadow (R16, R61). -/
def State.storeWord (s : State) (p : Page) (o : Nat) (w : Word) : State :=
  let a := pageBase p + o
  let w := s.clampWord p o w
  let keep := rwMask p o &&& ~~~ shadowMask p o &&& ~~~ effectMask p o
  let old := s.word a
  let t := s.setWord a (mergeBits keep old w &&& ~~~ (w &&& w1cMask p o))
  t.writeShadow p o w

/-- The effects of a written PAGE_CTRL. -/
def State.pageCtrlEffect (s : State) (p : Page) (w : Word) : State :=
  let t := match p with
    | .ring => s.settleRing
    | .board => s.settleGenerator
    | _ => s
  if w.getLsbD 1 then t.pageResetWrite p else t

/-- A ring enable follows its bit of HOST_RING_CTRL: a 1 enables a ring that is disabled or halted, a 0 disables it. -/
def State.ringCtrlEffect (s : State) (w : Word) : State :=
  let t := if w.getLsbD 2 then (if s.isSet .host R.HOST_RING_CTRL_CPL_EN then s else s.enableCpl) else s.disableCpl
  let t := if w.getLsbD 1 then
      (if t.isSet .host R.HOST_RING_CTRL_DRN_EN && !t.isSet .host R.HOST_RING_CTRL_DRN_HALT then t else t.enableDrn)
    else t.disableDrn
  if w.getLsbD 0 then
    (if t.isSet .host R.HOST_RING_CTRL_CMD_EN && !t.isSet .host R.HOST_RING_CTRL_CMD_HALT then t else t.enableCmd)
  else t.disableCmd

/-- RING_CTRL.BYPASS is written. -/
def State.bypassEffect (s : State) (b : Bool) : State :=
  if b then (if s.isSet .ring R.RING_CTRL_BYPASS then s else s.startBypass)
  else (s.putF .ring R.RING_CTRL_BYPASS 0).settleRing

/-- What a write of a block's own register sets off, beside what it stores. -/
def State.blockEffect (s : State) (p : Page) (o : Nat) (w : Word) : State :=
  match p with
  | .hive => if o = 0x260 ∧ w.getLsbD 31 then s.softReset (bitsOf w.toNat 15 8) else s
  | .host =>
    if o = 0x108 then s.settleHif
    else if o = 0x114 then s.ringCtrlEffect w
    else if o = 0x150 then s.postTally false w.toNat
    else if o = 0x160 then s.postTally true w.toNat
    else if 0x400 ≤ o then s.serveVectors else s
  | .events =>
    if o = 0x10C then (if w.getLsbD 0 then (if s.isSet .events R.EVENTS_RING_CTRL_EN then s else s.enableEvents)
      else s.disableEvents)
    else if o = 0x110 then s.freeEvents w.toNat
    else if o = 0x248 then s.disableSources (sourcesOf true p (~~~ w).toNat)
    else if o = 0x24C then s.forceSources (sourcesOf true p w.toNat)
    else if 0x120 ≤ o ∧ o < 0x220 then s.serveVectors else s
  | .ring =>
    if o = 0x100 then s.bypassEffect (w.getLsbD 31)
    else if o = 0x138 ∧ w.getLsbD 31 then s.epochGo
    else if o = 0x140 ∧ w.getLsbD 31 then s.sendMail else s
  | .board => if o = 0x1A8 ∧ w.getLsbD 31 then s.auxGo else s
  | .reeve => if o = 0x134 then s.loadWear (bitsOf w.toNat 19 0) else s
  | .pll 0 => if o = 0x218 ∧ w.getLsbD 0 then s.requestLoad else s
  | .hseq => if o = 0x104 ∧ w.getLsbD 0 then s.forceTrigger else s
  | .pod u f => if o = 0x134 ∧ w.getLsbD 0 then s.podCommandSend u f else s
  | .dram u k => if o = 0x200 ∧ w.getLsbD 31 then s.retrain u k else s
  | .sram u => if o = 0x100 ∧ w.getLsbD 31 then s.marchStart u else s
  | _ => s

/-- What a written word sets off. -/
def State.writeEffect (s : State) (p : Page) (o : Nat) (w : Word) : State :=
  if o = 0x008 then s.pageCtrlEffect p w
  else if o = 0x018 then s.disableSources (sourcesOf false p (~~~ w).toNat)
  else if o = 0x01C then s.forceSources (sourcesOf false p w.toNat)
  else if o = 0x044 then s.commitWrite p (w.getLsbD 0) (w.getLsbD 1)
  else s.blockEffect p o w

/-- A word takes effect at its page. -/
def State.applyWrite (s : State) (p : Page) (o : Nat) (w : Word) : State :=
  let s := match p with
    | .dram u k => if o = 0x114 then s.foldPanic u k else s
    | _ => s
  (s.storeWord p o w).writeEffect p o w

/-- A word is written to a register of a page that the part has. The high word of a pair is held until the low word is
written, and the two then take effect together (R69). Writes of the view of active values are ignored (R61). -/
def State.wordWrite (s : State) (p : Page) (o : Nat) (w : Word) : State :=
  if 0x800 ≤ o then s
  else if (pairLow p o).isSome then s.holdWord (pageBase p + o) w
  else
    match pairHigh p o with
    | none => s.applyWrite p o w
    | some h =>
      let a := pageBase p + h
      match s.held.find? (fun e => e.1 == a) with
      | none => s.applyWrite p o w
      | some e => ((s.unhold a).applyWrite p h e.2).applyWrite p o w

/-- A word is written at an offset of page space: it reaches a page, or nothing (R7, R8, R51). -/
def State.writeAt (s : State) (a : Nat) (w : Word) : State :=
  match pageAt a with
  | none => s
  | some p => if s.has p then s.wordWrite p (a % 0x1000) w else s

/-- The words that bytes make from an offset on. -/
def wordsOf (a : Nat) : Nat → List Byte → List (Nat × Word)
  | 0, _ => []
  | n + 1, l => (a, BitVec.ofNat 32 (ofLeBytes (l.take 4))) :: wordsOf (a + 4) n (l.drop 4)

/-- Where page space ends and the memory windows begin (R50). -/
def windowBase : Nat := 0x2800000
/-- The size of BAR0 (R50). -/
def bar0Size : Nat := 0x4000000

/-- Which of the three windows an offset lies in. -/
def windowOpAt (a : Nat) : WindowOp :=
  if a < 0x3000000 then .store else if a < 0x3800000 then .setBits else .clearBits

/-- A write of BAR0: whole aligned words reach page space, and anything else is discarded, counted and raised (R68,
R456); from the windows on it is a window write (DESIGN CHOICE, log entry 25). -/
def State.hostWrite (s : State) (a : Nat) (bytes : List Byte) (poisoned : Bool) : State :=
  if windowBase ≤ a then
    s.windowWrite (windowOpAt a) ((a - windowBase) % 0x800000) (bytes.map some) poisoned []
  else if poisoned || a % 4 != 0 || bytes.length % 4 != 0 || bytes.isEmpty then s.badBar0
  else (wordsOf a (bytes.length / 4) bytes).foldl (fun t e => t.writeAt e.1 e.2) s

/-! ### Reads -/

/-- No command or drain is under way and no ring request outstanding (HOST_RING_CTRL.QUIESCED). -/
def State.quiesced (s : State) : Bool :=
  s.host.accepted.isEmpty && s.host.fence.isNone && s.host.drains.isEmpty && s.host.waiting.isEmpty

/-- HIVE_HOLD_STATE.PIN: low where this hive, or another, holds the ball low. -/
def State.sensePins (s : State) : State :=
  let d := s.drawFree
  d.2.putF .hive R.HIVE_HOLD_STATE_PIN (s.getF .hive R.HIVE_HOLD_STATE_DRIVE ||| (Config.holdPins d.1).toNat)

/-- Where a march run stands: not stated. -/
def State.sensePlace (s : State) (u : Nat) : State :=
  if (s.sramOf u).run.isSome then
    let d := s.drawFree
    let v := Config.marchPlace d.1
    (d.2.putF (.sram u) R.SRAM_MARCH_STATUS_MEMORY v.1.toNat).putF (.sram u) R.SRAM_MARCH_STATUS_WORD v.2.toNat
  else s

/-- The grants as they stand now. -/
def State.showGrants (s : State) : State :=
  (s.supers.foldl (fun t u => t.putF .reeve (R.REEVE_GRANT_GRANT u) (s.grant u)) s).putF .reeve R.REEVE_SHARED_GRANT
    (s.grant 8)

/-- DRAM_LTR_STATUS. -/
def State.showLtr (s : State) (u k : Nat) : State :=
  let p := Page.dram u k
  let t := (s.putF p R.DRAM_LTR_STATUS_BLK_TAKE (flag s.blockTake)).putF p R.DRAM_LTR_STATUS_BLK_LTR (flag (s.blockLtr u k))
  (t.putF p R.DRAM_LTR_STATUS_BLK_OTHER (flag (s.blockOther u k))).putF p R.DRAM_LTR_STATUS_MIN_US (s.tolerance u k)

/-- PLL_STATUS: COAST_TIME of a coast under way, and whether a band search with the reference present has ended: then the
PLL is in LOCKING (R93). -/
def State.showPll (s : State) (p : Page) (o : Nat) : State :=
  if o = R.PLL_STATUS_STATE.off then
    if s.pllState p = 5 then s.putF p R.PLL_STATUS_COAST_TIME (s.coastLength p)
    else if s.pllState p = 1 ∧ s.isSet p R.PLL_STATUS_REF_PRESENT then
      let d := s.drawFree
      if Config.searchOver d.1 then d.2.setPllState p 2 else d.2
    else s
  else s

/-- BLOCK_STATUS of the EVENTS page: EN, and whether a record waits for room in the ring (R507). -/
def State.showWaiting (s : State) : State :=
  let en := s.isSet .events R.EVENTS_RING_CTRL_EN
  (s.putF .events (blockBit 16) (flag en)).putF .events (blockBit 17)
    (flag (en && !(s.queue (.hive 1)).entries.isEmpty && !s.eventFits))

/-- Registers that show how something stands at the moment are brought to date before they are read. -/
def State.refresh (s : State) (p : Page) (o : Nat) : State :=
  match p with
  | .hive =>
    if o = 0x268 then s.setWord (pageBase .hive + 0x268) s.readyWord
    else if o = 0x244 then s.sensePins else s
  | .pll i =>
    if i = 0 ∧ o = 0x208 then s.putPair (.pll 0) R.PLL_TIME_NOW_LO_TIME R.PLL_TIME_NOW_HI_TIME s.hiveTime
    else if i = 0 ∧ o = 0x20C then s.putPair (.pll 0) R.PLL_TIME_NOW_LO_TIME R.PLL_TIME_NOW_HI_TIME s.hiveTime
    else s.showPll p o
  | .spll _ _ => s.showPll p o
  | .scout u k => if o = 0x114 then s.putF p R.SCOUT_STATUS_TOKENS (s.bucketAt u k s.hiveTime / tokenUnits) else s
  | .dram u k => if o = 0x114 then s.foldPanic u k else if o = 0x12C then s.showLtr u k else s
  | .sram u => if o = 0x104 then s.sensePlace u else s
  | .host => if o = 0x114 then s.putF .host R.HOST_RING_CTRL_QUIESCED (flag s.quiesced) else s
  | .reeve => s.showGrants
  | .board => s.showBoard.putF .board R.BOARD_STATUS_TE_WAIT (flag s.teWaits)
  | .events => if o = 0x00C then s.showWaiting else s
  | _ => s

/-- What a register reads as (R16, R61): shadowed fields from the shadow, direct ones as they are; in the view at 0x800
active values of shadowed fields alone (DEDUCED, log entry 22). -/
def State.readWord (s : State) (p : Page) (o : Nat) : Word :=
  let b := pageBase p
  if 0x800 ≤ o then s.word (b + (o - 0x800)) &&& shadowMask p (o - 0x800) &&& readMask p (o - 0x800)
  else mergeBits (shadowMask p o) (s.word (b + o)) (s.shadow (b + o)) &&& readMask p o

/-- A register of a page that the part has is read. A read of the low word of a pair latches the high word, which the
following read of the high word returns (R69) (DEDUCED, log entry 23). -/
def State.pageRead (s : State) (p : Page) (o : Nat) : Word × State :=
  let a := pageBase p + o
  match s.latched.find? (fun e => e.1 == a) with
  | some e => (e.2, s.unlatch a)
  | none =>
    let t := s.refresh p (if 0x800 ≤ o then o - 0x800 else o)
    let t := match (if 0x800 ≤ o then none else pairHigh p o) with
      | none => t
      | some h => t.latchWord (pageBase p + h) (t.readWord p h)
    (t.readWord p o, t)

/-- A word of page space is read: 0 where no page lies. -/
def State.readAt (s : State) (a : Nat) : Word × State :=
  match pageAt a with
  | none => (0, s)
  | some p => if s.has p then s.pageRead p (a % 0x1000) else (0, s)

/-- Words of page space are read in order. -/
def State.readWords (s : State) (a : Nat) : Nat → List Byte × State
  | 0 => ([], s)
  | n + 1 =>
    let r := s.readAt a
    let q := r.2.readWords (a + 4) n
    (leBytes 4 r.1.toNat ++ q.1, q.2)

/-- A read of BAR0: page space answers whole words (R68), the windows bytes. -/
def State.hostRead (s : State) (a len : Nat) : State :=
  if windowBase ≤ a then s.windowRead ((a - windowBase) % 0x800000) len []
  else
    let q := s.readWords (a / 4 * 4) (if len = 0 then 0 else (a + len - 1) / 4 + 1 - a / 4)
    q.2.emit (.readData q.1 false)

end Sys2Proof.Machine
end

