-- ==== Sys2Proof/Machine/AccessCmds.lean ====
section
/-!
DEFINITION. The steps of register pages (chapter 02): reads and writes over BAR0, page resets, commits and applies, forced
events, and the host command REG_WRITE (chapter 14).
-/
namespace Sys2Proof.Machine

/-- REGISTER_WRITE of bytes at a BAR0 offset (DESIGN CHOICE, log entry 26). -/
def execRegisterWrite (off : Nat) (bytes : List Byte) (poisoned : Bool) (s : State) : Host.Outcome State Fault Refusal :=
  if bar0Size < off + bytes.length then .fault .outsideBar else (s.hostWrite off bytes poisoned).finish

/-- REGISTER_READ of `len` bytes at a BAR0 offset. -/
def execRegisterRead (off len : Nat) (s : State) : Host.Outcome State Fault Refusal :=
  if bar0Size < off + len then .fault .outsideBar else .next (s.hostRead off len)

/-- A write of a page that the part has; a page of an absent unit ignores it (R8). -/
def State.onPage (s : State) (p : Page) (t : State) : Host.Outcome State Fault Refusal :=
  if s.has p then t.finish else .next s

/-- PAGE_RESET: a write of 1 to PAGE_CTRL.PAGE_RESET, which leaves ENABLE alone. -/
def execPageReset (p : Page) (s : State) : Host.Outcome State Fault Refusal := s.onPage p (s.pageResetWrite p)

/-- COMMIT: a write of 1 to COMMIT.COMMIT. -/
def execCommit (p : Page) (s : State) : Host.Outcome State Fault Refusal := s.onPage p (s.commitWrite p true false)

/-- DISCARD: a write of 1 to COMMIT.DISCARD. -/
def execDiscard (p : Page) (s : State) : Host.Outcome State Fault Refusal := s.onPage p (s.commitWrite p false true)

/-- SHADOW_APPLY: the commit that a page has waiting outside a take is applied (R62, R64). -/
def execShadowApply (p : Page) (s : State) : Host.Outcome State Fault Refusal :=
  s.onPage p (
    if plainApply p ∧ s.isSet p R.COMMIT_COMMIT ∧ s.isSet p R.SHADOW_STATUS_COMMIT_WAIT then s.applyPage p else s)

/-- PARTIAL_APPLY: the commit written during a take copies the live-adjustable fields (R65). -/
def execPartialApply (p : Page) (s : State) : Host.Outcome State Fault Refusal :=
  s.onPage p (
    if plainApply p ∧ s.isSet p R.COMMIT_COMMIT ∧ ¬ s.isSet p R.SHADOW_STATUS_COMMIT_WAIT then s.partialApply p else s)

/-- EV_FORCE: a write of `bits` to the FORCE register of a page. -/
def execEvForce (p : Page) (bits : Nat) (s : State) : Host.Outcome State Fault Refusal :=
  s.onPage p (s.forceSources (sourcesOf false p bits))

/-- The pairs of a REG_WRITE: BAR0 offsets and values. -/
def regPairs (c : HostCmd) : List (Nat × Nat) :=
  (List.range (c.bytes.getD 0x10 0).toNat).map (fun k =>
    (ofLeBytes ((c.bytes.drop (0x18 + 8 * k)).take 4), ofLeBytes ((c.bytes.drop (0x1C + 8 * k)).take 4)))

/-- An offset that REG_WRITE may write (R474). -/
def regAllowed (a : Nat) : Bool := a % 4 == 0 && decide (a < windowBase) && !(decide (0x3000 ≤ a) && decide (a < 0x4000))

/-- REG_WRITE: every pair is checked before any is written (R473, R474). -/
def execRegWrite (s : State) : Host.Outcome State Fault Refusal :=
  (s.runCommand 6 (fun c =>
    let n := (c.bytes.getD 0x10 0).toNat
    if 1 ≤ n ∧ n ≤ 5 ∧ (regPairs c).all (fun e => regAllowed e.1) then
      ((regPairs c).foldl (fun t e => t.writeAt e.1 (BitVec.ofNat 32 e.2)) s).endCommand c 0 n []
    else s.endCommand c 4 0 [])).finish

end Sys2Proof.Machine
end

