-- ==== Sys2Proof/Machine/BootCmds.lean ====
section
/-!
DEFINITION. The commands of bring-up, resets, the die-to-die links and the service ports (chapters 01, 19 and 20).
-/
namespace Sys2Proof.Machine

/-! ### Start-up (R609 to R615, R637) -/

/-- The majority of three samples of STRAP0 and STRAP1 (R637). -/
def majority (l : List Nat) : Nat :=
  ofBits ((List.range 2).filter (fun i => decide (2 ≤ (l.filter (fun x => bitOf x i)).length)))

/-- COLD_START: VAON rises from no power, by VIN or by VSTBY alone. Nothing is kept but the part, the levels at its balls
and what it has already sent (DEDUCED, log entry 116). -/
def execColdStart (byVin : Bool) (straps : List Nat) (s : State) : Host.Outcome State Fault Refusal :=
  (let t := { s.blankSrams with reeve := .reset, ports := .reset, boot := { s.boot with railsOff := false } }.powerDown
   let t : State := { t.blankRegs with
    reeve := { ReeveSt.reset with
      energy := 2048000000, sustain := sustainReset s.fuse.part }
    boot := { t.boot with vin := byVin, vstby := !byVin, straps := majority straps } }
   let t := (t.putF .ivr R.IVR_RAILS_VAON 1).putF .ivr R.IVR_RAILS_VAON_VSTBY (flag (!byVin))
   t.raise .reeve 7).finish

/-- The rails are in regulation: bits of IVR_RAILS and IVR_RAILS_S7. -/
def State.railsUp (s : State) : State :=
  let n := 2 ^ (4 * s.fuse.part.supers) - 1
  let t := (s.putF .ivr R.IVR_RAILS_SUPER n).putF .ivr R.IVR_RAILS_S7_S7 (n / 2 ^ 28)
  let t := ((t.putF .ivr R.IVR_RAILS_VAON 1).putF .ivr R.IVR_RAILS_VHOST 1).putF .ivr R.IVR_RAILS_VIO 1
  t.putF .ivr (blockBit 16) 1

/-- PWR_OK: every rail is in regulation; the clocks start locking and the patch check begins
(DEDUCED, log entry 113; DEDUCED, log entry 118). -/
def execPwrOk (s : State) : Host.Outcome State Fault Refusal :=
  (if s.boot.vin && !s.boot.resetN && !s.boot.railsOff && !s.powerOk then
    let t := ((s.railsUp).putF .hive R.HIVE_READY_POWER 1).stage 4
    let t := t.allPlls.foldl (fun t p => t.putF p R.PLL_STATUS_REF_PRESENT 1) t
    let t := { t with host := { t.host with configured := !t.boot.perst } }
    (t.showReady .ivr).showReady .host
  else s).finish

/-- PATCH_CHECK: what became of each copy, as HIVE_PATCH codes it, and its PSEQ. With STRAP0 at 0 no image is read
(DESIGN CHOICE, log entry 119). -/
def execPatchCheck (copyA pseqA copyB pseqB : Nat) (s : State) : Host.Outcome State Fault Refusal :=
  (if s.powerOk && !s.booted then
    let reads := bitOf s.boot.straps 0
    let a := if reads then copyA else 0
    let b := if reads then copyB else 0
    let useB := b == 1 && (a != 1 || decide (pseqA < pseqB))
    let t := ((s.putF .hive R.HIVE_PATCH_COPY_A a).putF .hive R.HIVE_PATCH_COPY_B b).putF .hive R.HIVE_PATCH_PATCHED
      (flag (a == 1 || b == 1))
    let t := (t.putF .hive R.HIVE_PATCH_USED_B (flag useB)).putF .hive R.HIVE_PATCH_PSEQ
      (if useB then pseqB else if a = 1 then pseqA else 0)
    ((((t.putF .hive R.HIVE_READY_BOOTED 1).showReady .hive).showReady .reeve)).settleBoot
  else s).finish

/-! ### RESET_N and the return of VIN (R615, R616) -/

/-- RESET_N_ASSERT (DEDUCED, log entry 117). -/
def execResetNAssert (s : State) : Host.Outcome State Fault Refusal :=
  (if s.boot.resetN then s
   else
    let t := ({ s with boot := { s.boot with resetN := true } }).powerDown
    t.putF .hive R.HIVE_BOOT_LAST_RESET 2).finish

/-- Start-up begins afresh, as at a release of RESET_N: the straps are sampled, and rails that a fault had turned off may
come up again (DEDUCED, log entry 37). -/
def State.startAfresh (s : State) (straps : List Nat) (kind : Nat) : State :=
  let t := { s with
    boot := { s.boot with resetN := false, railsOff := false, straps := majority straps }
    reeve := { s.reeve with shutdown := false, thermLow := false } }
  (t.putF .hive R.HIVE_BOOT_LAST_RESET kind).bump .hive R.HIVE_RESET_COUNT_RESET_N 1

/-- RESET_N_RELEASE. -/
def execResetNRelease (straps : List Nat) (s : State) : Host.Outcome State Fault Refusal :=
  (if s.boot.resetN then s.startAfresh straps 2 else s).finish

/-- VIN_RETURN while VAON has stayed up on VSTBY. -/
def execVinReturn (straps : List Nat) (s : State) : Host.Outcome State Fault Refusal :=
  (if s.boot.vstby && !s.boot.vin then
    let t := { s with boot := { s.boot with vin := true } }
    if s.boot.resetN then t else t.startAfresh straps 6
  else s).finish

/-! ### PERST_N, the soft reset (R611, R616 to R618) -/

/-- PERST_N_ASSERT. -/
def execPerstNAssert (s : State) : Host.Outcome State Fault Refusal :=
  (if s.boot.perst then s
   else
    let t := s.stopTake 2
    let t := (t.putF .hive R.HIVE_BOOT_LAST_RESET 3).bump .hive R.HIVE_RESET_COUNT_PERST_N 1
    { t with boot := { t.boot with perst := true, perstDue := true } }).finish

/-- Every block of the take has reached the DRAM. -/
def State.allStored (s : State) : Bool :=
  s.allStreams.all (fun i => !(s.stream i).present) &&
    s.supers.all (fun u => (s.store u).cut.isEmpty && (s.store u).out.isEmpty && (s.store u).queued.isEmpty)

/-- PERST_N_PAGE_RESET (DEDUCED, log entry 120). -/
def execPerstNPageReset (s : State) : Host.Outcome State Fault Refusal :=
  (if s.boot.perstDue && !s.inTake && s.allStored then s.perstReset else s).finish

/-- PERST_N_RELEASE: configuration space answers again. -/
def execPerstNRelease (s : State) : Host.Outcome State Fault Refusal :=
  (if s.boot.perst && !s.boot.perstDue then
    ({ s with boot := { s.boot with perst := false }, host := { s.host with configured := s.powerOk } }).showReady .host
  else s).finish

/-- SOFT: HIVE_RESET_CTRL written with SOFT at 1 and a key. -/
def execSoft (key : Nat) (s : State) : Host.Outcome State Fault Refusal := (s.softReset key).finish

/-! ### Die-to-die links and sidebands (R34, R35, R622 to R624) -/

/-- The streams of a super end at tick `t`, each with a LAST block; data that a stream has already handed on past `t`
stays. -/
def State.endStreams (s : State) (u t : Nat) : State :=
  (sampleStreams u).foldl (fun r i =>
    let x := r.stream i
    if x.present then
      let r := r.closeStream i (max t x.first)
      r.setStream i { r.stream i with present := false }
    else r) s

/-- SIDEBAND_LOSS: super `u` has received no sideband beat from S0 since `beat`, for 1,024 beats
(DEDUCED, log entry 121). -/
def execSidebandLoss (u beat : Nat) (s : State) : Host.Outcome State Fault Refusal :=
  s.on (.waggle u) (
    if u = 0 ∨ s.boot.cutOff.contains u then s
    else
      let t := s.advanceTo (32 * (beat + 1024))
      let t := ({ t with boot := { t.boot with cutOff := t.boot.cutOff ++ [u] } }).putF (.spll u 0)
        R.PLL_TIME_STATUS_ALIGNED 0
      if t.taking then ((t.fillAll u (4 * beat)).formTo u (32 * beat)).endStreams u (32 * beat) else t)

/-- The lanes of a direction of a die-to-die link. -/
def State.die (s : State) (link : Nat) (back : Bool) : DieSt := sget (fun _ => DieSt.reset) s.dies (2 * link + flag back)
def State.setDie (s : State) (link : Nat) (back : Bool) (x : DieSt) : State :=
  { s with dies := sput (fun _ => DieSt.reset) s.dies (2 * link + flag back) x }

/-- DIE_LANE_FAIL: the first lane of a direction moves to the spare, with the second the direction runs at half width, and
with a third the link has failed (DEDUCED, log entry 122). -/
def execDieLaneFail (link : Nat) (back : Bool) (s : State) : Host.Outcome State Fault Refusal :=
  (if linkPresent s.fuse.part link then
    let x := s.die link back
    let t := s.setDie link back ⟨min 3 (x.failed + 1), true⟩
    match x.failed with
    | 0 => (t.putF .hive (if back then R.HIVE_LINK_SPARE_HL link else R.HIVE_LINK_SPARE_LH link) 1).raiseLink link 0
    | 1 => (t.putF .hive (if back then R.HIVE_LINK_HALF_HL link else R.HIVE_LINK_HALF_LH link) 1).raiseLink link 1
    | 2 => (t.putF .hive (R.HIVE_LINK_UP link) 0).faultStop 5
    | _ => s
  else s).finish

/-- LANE_REPAIR_DONE: the port accepts flits again. -/
def execLaneRepairDone (link : Nat) (back : Bool) (s : State) : Host.Outcome State Fault Refusal :=
  .next (
    if linkPresent s.fuse.part link && decide ((s.die link back).failed < 3) then
      s.setDie link back { s.die link back with repairing := false }
    else s)

/-! ### SMBus and TAP (R637 to R641, R655) -/

/-- VAON has a supply. -/
def State.vaonUp (s : State) : Bool := s.boot.vin || s.boot.vstby

/-- The target's address (R637). -/
def State.smbusAddress (s : State) : Nat := if bitOf s.boot.straps 1 then 0x59 else 0x58

/-- SMBUS_POINTER_WRITE to a target address. A transfer whose PEC does not check is refused
(DESIGN CHOICE, log entry 123). -/
def execSmbusPointerWrite (addr pointer : Nat) (pecGood : Bool) (s : State) : Host.Outcome State Fault Refusal :=
  .next (
    if s.vaonUp && addr == s.smbusAddress && pecGood then { s with ports := { s.ports with pointer := pointer % 2 ^ 16 } }
    else s)

/-- The word at a pointer: of the HIVE, REEVE and IVR pages, and while only VAON is powered of the always-on domain
alone. -/
def State.smbusWord (s : State) (a : Nat) : Word :=
  if 0x3000 ≤ a then 0
  else match pageAt a with
  | none => 0
  | some p =>
    let w := (s.refresh p (a % 0x1000)).readWord p (a % 0x1000)
    if s.powerOk then w
    else s.alwaysOn.foldl (fun v e => if pageBase e.1 + e.2.1 = a then w &&& e.2.2 else v) 0

/-- SMBUS_BLOCK_READ from a target address. -/
def execSmbusBlockRead (addr : Nat) (s : State) : Host.Outcome State Fault Refusal :=
  .next (
    if s.vaonUp && addr == s.smbusAddress then
      let a := s.ports.pointer
      ({ s with ports := { s.ports with pointer := (a + 4) % 2 ^ 16 } }).emit (.smbusData (s.smbusWord (a / 4 * 4)))
    else s)

/-- The device ID (R447). -/
def deviceId : Part → Nat
  | .lw8f => 0x0846 | .lw8c => 0x0843 | .lw4f => 0x0446 | .lw4c => 0x0443 | .lw2f => 0x0246 | .lw2b => 0x0242

/-- IDCODE (R640): STEP_MAJOR is the high half of the stepping byte. -/
def idcode (f : Fuse) : Nat :=
  f.stepping.toNat / 16 * 2 ^ 28 + deviceId f.part * 2 ^ 12 + Config.jedecCode.toNat * 2 + 1

/-- The test instructions that act as BYPASS during a take (R641). -/
def testInstr : TapInstr → Bool
  | .extest => true | .extestPulse => true | .extestTrain => true | .clamp => true | .highz => true
  | _ => false

/-- The instruction that acts: while TRST_N is low the test logic is held in reset, and a take lets no test instruction
act (R641, R655) (DEDUCED, log entry 125). -/
def State.tapActs (s : State) : TapInstr :=
  if s.ports.trst then .idcode else if testInstr s.ports.instruction && s.inTake then .bypass else s.ports.instruction

/-- TAP_INSTRUCTION: an instruction is loaded. Under IDCODE the 32-bit code is shifted out. -/
def execTapInstruction (i : TapInstr) (s : State) : Host.Outcome State Fault Refusal :=
  .next (
    if s.ports.trst then s
    else
      let t := { s with ports := { s.ports with instruction := i } }
      if t.tapActs == .idcode then t.emit (.tapData (idcode s.fuse)) else t)

/-- TRST_N goes low, or rises. The reset of the test logic leaves IDCODE in force (PRESUMED, log entry 124). -/
def execTrstN (low : Bool) (s : State) : Host.Outcome State Fault Refusal :=
  .next { s with ports := { s.ports with
    trst := low, instruction := if low then .idcode else s.ports.instruction } }

end Sys2Proof.Machine
end

