-- ==== Sys2Proof/Machine/CellCmds.lean ====
section
/-!
DEFINITION. The steps of cells, scouts, counters and timers (chapters 05 and 06).
-/
namespace Sys2Proof.Machine

/-- A command on frame `f` of super `u`: what the frame gives goes on to the sequencers. -/
def State.onFrame (s : State) (u f : Nat) (t : State) : Host.Outcome State Fault Refusal :=
  s.on (.frame u f) ((t.runEval u f).catchUp u f).settleSeqs

/-- LATE_SLOT: the frame needs its next slot, 4 beats after the slot's own, and some lane has not delivered it (R170). -/
def execLateSlot (u f : Nat) (s : State) : Host.Outcome State Fault Refusal :=
  s.onFrame u f (
    let n := (s.frame u f).next
    if s.enabled (.frame u f) ∧ ¬ s.delivered u f n ∧ ¬ s.intakeStopped u n then
      (s.advanceTo (32 * (n / 4 + 4))).forceSlot u f
    else s)

/-! ### Counters and timers -/

/-- The frame's oldest evaluated slot is worked on when something of the kind happens in it: an operation takes effect
(0), a counter wraps (1) or reloads (2), a timer's flag rises (3). -/
def State.slotShows (s : State) (u f kind : Nat) : Bool :=
  let x := s.frame u f
  match x.eval with
  | [] => false
  | e :: _ =>
    s.slotInTake e.n &&
      match kind with
      | 0 => (x.opAt e.n).isSome
      | 1 => (s.countersAt u f x e).any (fun c => c.2.1)
      | 2 => (s.countersAt u f x e).any (fun c => c.2.2)
      | _ => (List.range 4).any (fun n =>
          ((s.timersAt u f x e).getD n ⟨0, false, false⟩).flagged && !(x.timers.getD n ⟨0, false, false⟩).flagged)

/-- COUNTER_WRAP (R216) (DESIGN CHOICE, log entry 127). -/
def execCounterWrap (u f : Nat) (s : State) : Host.Outcome State Fault Refusal :=
  s.onFrame u f (if s.slotShows u f 1 then s.evalSlot u f else s)

/-- COUNTER_RELOAD (R215). -/
def execCounterReload (u f : Nat) (s : State) : Host.Outcome State Fault Refusal :=
  s.onFrame u f (if s.slotShows u f 2 then s.evalSlot u f else s)

/-- TIMER_HIT (R218). -/
def execTimerHit (u f : Nat) (s : State) : Host.Outcome State Fault Refusal :=
  s.onFrame u f (if s.slotShows u f 3 then s.evalSlot u f else s)

/-- OPERATION_EFFECT (R220). -/
def execOperationEffect (u f : Nat) (s : State) : Host.Outcome State Fault Refusal :=
  s.onFrame u f (if s.slotShows u f 0 then s.evalSlot u f else s)

/-! ### Scouts -/

/-- The instant from which a super's recorders have formed their records past tick `t` (R281). -/
def recorderPast (t : Nat) : Nat := 32 * (beatOf t + 32)

/-- The level that a scout shows at the tick before the take's first one changes after the take began: its deskew placed
the transition there (R183, R193). -/
def State.snapBefore (s : State) (u k : Nat) (level : Bool) : State :=
  let x := s.stream (.scout u)
  s.setStream (.scout u) { x with snaps := x.snaps.map (fun y => if y.index == k then { y with level := level } else y) }

/-- A transition joins those that the recorder is to form; one before the take's first tick shows in the SNAPSHOT alone.
Outside a take, the transitions that a deskew may still place in a take are kept. -/
def State.keepEdge (s : State) (u k t : Nat) (level : Bool) : State :=
  let x := s.scout u k
  let open' := (s.stream (.scout u)).present
  if open' then
    if t < 8 * s.take.first then
      (s.setScout u k { x with recLevel := level }).snapBefore u k level
    else s.setScout u k { x with raw := x.raw ++ [(t, level)] }
  else
    let all := x.raw ++ [(t, level)]
    let past := all.filter (fun e => decide (e.1 ≤ s.hiveTime))
    s.setScout u k { x with
      raw := all.filter (fun e => !decide (e.1 ≤ s.hiveTime))
      recLevel := match past.getLast? with | none => x.recLevel | some e => e.2 }

/-- SCOUT_TRANSITION: the new level is first sampled at `tick` (R183, R186, R197). -/
def execScoutTransition (u k tick : Nat) (level : Bool) (s : State) : Host.Outcome State Fault Refusal :=
  s.on (.scout u k) (
    let s := s.advanceTo tick
    let x := s.scout u k
    if x.level = level then s
    else
      let t := s.scoutTime u k tick
      let r := (s.setScout u k { x with level := level }).putF (.scout u k) R.SCOUT_STATUS_LEVEL (flag level)
      if !r.enabled (.scout u k) then r.setScout u k { r.scout u k with recLevel := level, raw := [] }
      else
        let y := r.scout u k
        let shows := edgeChosen (r.getF (.scout u k) R.SCOUT_TRIG_EDGE) level && !r.isSet (.scout u k) R.SCOUT_STATUS_SETTLING
        let r := if shows then
            r.setScout u k { y with edges := (y.edges.filter (fun e => decide (r.hiveTime ≤ e + 2048))) ++ [t] }
          else r
        let r := r.keepEdge u k t level
        (r.formTo u (r.formBound u)).settleSeqs)

/-- SETTLING_END of a scout (R185, R195): the recorder follows once it reaches that tick. -/
def execSettlingEnd (u k : Nat) (s : State) : Host.Outcome State Fault Refusal :=
  s.on (.scout u k) (
    if s.isSet (.scout u k) R.SCOUT_STATUS_SETTLING || (s.scout u k).suspend == .settling then
      let t := (s.advanceTo (s.scout u k).settleEnd).showSettling u k false
      if (t.stream (.scout u)).present then
        let t := t.advanceTo (recorderPast (s.scout u k).settleEnd)
        (t.formTo u (t.formBound u)).settleSeqs
      else t.setSuspend u k .none
    else s)

/-- RESUME of a scout in overrun (R197): its bucket holds SCOUT_RESUME.LEVEL tokens. -/
def execResume (u k : Nat) (s : State) : Host.Outcome State Fault Refusal :=
  s.on (.scout u k) (
    if (s.scout u k).suspend = .overrun ∧ (s.stream (.scout u)).present then
      match s.resumeTick u k (s.stream (.scout u)).formed with
      | none => s
      | some r =>
        let t := s.advanceTo (recorderPast r)
        (t.formTo u (t.formBound u)).settleSeqs
    else s)

end Sys2Proof.Machine
end

