-- ==== Sys2Proof/Machine/PowerCmds.lean ====
section
/-!
DEFINITION. The commands of the Reeve and of power (chapter 17, R552 to R581, R645).
-/
namespace Sys2Proof.Machine

/-! ### The Reeve -/

/-- PERIOD_END: the figures that a 100 µs period measured, while the rails run. -/
def execPeriodEnd (vin iin energy : Nat) (supers : List Nat) (shared tj hottest : Nat) (s : State) :
    Host.Outcome State Fault Refusal :=
  (if s.powerOk then s.endPeriod ⟨vin, iin, energy, supers, shared, tj, hottest⟩ else s).finish

/-- WEAR_HOUR: the oldest of the 168 buckets is emptied and becomes the current one (R571)
(DESIGN CHOICE, log entry 114). -/
def execWearHour (s : State) : Host.Outcome State Fault Refusal :=
  .next ({ s with reeve := { s.reeve with wear := 0 :: s.reeve.wear.take 167 } }.settleWear)

/-- REEVE_WEAR_LOAD of a number of seconds. -/
def execReeveWearLoad (seconds : Nat) (s : State) : Host.Outcome State Fault Refusal := .next (s.loadWear seconds)

/-- TRAINING_SLOT_GRANT: a READY channel that asks for a slot gets it, and its periodic retraining begins (R398, R578). -/
def State.grantSlot (s : State) (u k : Nat) : State :=
  if (s.chan u k).slotWanted && s.chanState u k == 4 && s.slotFree u then
    let t := s.setChan u k { s.chan u k with slot := true, slotWanted := false, periodic := 1 }
    let t := (t.putF (.dram u k) R.DRAM_TRAIN_STATUS_PERIODIC 1).putF (.dram u k) R.DRAM_TRAIN_STATUS_TRIES 0
    (t.bump .reeve R.REEVE_TRAIN_GRANTED 1).knob u 7 k
  else s

/-- TRAINING_SLOT_GRANT. -/
def execTrainingSlotGrant (u k : Nat) (s : State) : Host.Outcome State Fault Refusal := s.on (.dram u k) (s.grantSlot u k)

/-- TRAINING_SLOT_END. -/
def execTrainingSlotEnd (u k : Nat) (s : State) : Host.Outcome State Fault Refusal :=
  s.on (.dram u k) (s.setChan u k { s.chan u k with slot := false })

/-! ### The IVR (R555, R623) -/

/-- A fault stop of the IVR while the rails run: its event, its cause, and the rails off 100 µs later. -/
def State.ivrStop (s : State) (source cause : Nat) : State := ((s.faultStop cause).raise .ivr source).railsOffSoon

/-- OVER_VOLTAGE. -/
def execOverVoltage (s : State) : Host.Outcome State Fault Refusal :=
  (if s.powerOk then s.ivrStop 3 1 else s).finish

/-- OVER_CURRENT. -/
def execOverCurrent (s : State) : Host.Outcome State Fault Refusal :=
  (if s.powerOk then s.ivrStop 4 2 else s).finish

/-- Rails by number: 4 × super + r, r being 0 VCORE, 1 VSRAM, 2 VSERDES, 3 VDDQ; then 32 VHOST, 33 VIO
(DESIGN CHOICE, log entry 115). -/
def railField (rail : Nat) : Fld :=
  if rail < 28 then ⟨0x110, 4 + rail, 4 + rail⟩
  else if rail < 32 then ⟨0x114, rail - 28, rail - 28⟩
  else if rail = 32 then R.IVR_RAILS_VHOST else R.IVR_RAILS_VIO

/-- The part has the rail. -/
def railPresent (p : Part) (rail : Nat) : Bool := decide (rail < 4 * p.supers) || rail == 32 || rail == 33

/-- RAIL_FAULT: the rail is out of regulation, and PWR_OK goes low (R610). -/
def execRailFault (rail : Nat) (s : State) : Host.Outcome State Fault Refusal :=
  (if railPresent s.fuse.part rail && s.isSet .ivr (railField rail) then
    let t := (s.putF .ivr (railField rail) 0).putF .ivr (blockBit 16) 0
    ((t.ivrStop 5 3).putF .hive R.HIVE_READY_POWER 0).showReady .ivr
  else s).finish

/-- VIN_HIGH: operation continues. -/
def execVinHigh (s : State) : Host.Outcome State Fault Refusal := .next (if s.boot.vin then s.raise .ivr 1 else s)

/-- VIN_LOW. -/
def execVinLow (s : State) : Host.Outcome State Fault Refusal := .next (if s.powerOk then s.raise .ivr 0 else s)

/-- PHASE_DROPPED: VCORE phase `phase` of super `u` is dropped. -/
def execPhaseDropped (u phase : Nat) (s : State) : Host.Outcome State Fault Refusal :=
  .next (
    if u < s.fuse.part.supers ∧ phase < 4 ∧ s.powerOk ∧ !s.reeve.phases.contains (4 * u + phase) then
      let t := { s with reeve := { s.reeve with phases := s.reeve.phases ++ [4 * u + phase] } }
      (t.setBitF .ivr R.IVR_PHASE_DROPPED (4 * u + phase)).raise .ivr 6
    else s)

/-! ### Supplies (R552, R554, R570, R645) -/

/-- Every rail but VAON goes off, and VAON too when no supply is left. -/
def State.losePower (s : State) : State :=
  let t := s.powerDown
  if s.boot.vin || s.boot.vstby then t else t.putF .ivr R.IVR_RAILS_VAON 0

/-- RAILS_OFF, 100 µs after a fault stop or a thermal shutdown; until RESET_N is next released. -/
def execRailsOff (s : State) : Host.Outcome State Fault Refusal :=
  (match s.boot.railsOffAt with
    | none => s
    | some t =>
      let s := s.advanceTo t
      ({ s with boot := { s.boot with railsOff := true } }).losePower).finish

/-- UVLO. -/
def execUvlo (s : State) : Host.Outcome State Fault Refusal :=
  (if s.boot.vin then ({ s with boot := { s.boot with vin := false } }).losePower else s).finish

/-- VSTBY_LOST: VAON goes on from VIN, or without VIN has no supply. -/
def execVstbyLost (s : State) : Host.Outcome State Fault Refusal :=
  (if s.boot.vstby then
    let t := ({ s with boot := { s.boot with vstby := false } }).putF .ivr R.IVR_RAILS_VAON_VSTBY 0
    if s.boot.vin then t.raise .ivr 7 else t.losePower
  else s).finish

/-- VSTBY_RETURN while VIN is present. -/
def execVstbyReturn (s : State) : Host.Outcome State Fault Refusal :=
  .next (if s.boot.vin && !s.boot.vstby then
    ({ s with boot := { s.boot with vstby := true } }).putF .ivr R.IVR_RAILS_VAON_VSTBY 1
  else s)

end Sys2Proof.Machine
end

