-- ==== Sys2Proof/Machine/Press.lean ====
section
/-!
DEFINITION. The coded payload of the Press (chapter 09): the container, adaptive Rice codes, the token stream as the
Press writes it and the decoder of R335, table mode, and the lossy options with their loss table.
-/
namespace Sys2Proof.Machine

/-! ### Bits (R329) -/

/-- The words that bits fill, from bit 0 of the first word upward. -/
def packBits (l : List Bool) : List Nat := go l l.length
where
  go (l : List Bool) : Nat → List Nat
    | 0 => []
    | fuel + 1 =>
      if l.isEmpty then []
      else ((l.take 32).zipIdx.foldl (fun w e => if e.1 then w ||| 2 ^ e.2 else w) 0) :: go (l.drop 32) fuel

/-- The low `n` bits of a number, least significant first. -/
def lowBits (n v : Nat) : List Bool := (List.range n).map (bitOf v)

/-! ### Rice codes (R330) -/

/-- The contexts M, G, S, L, I, D, ML and MD, each with its sum A and count N. -/
abbrev Contexts := List (Nat × Nat)
def Contexts.fresh : Contexts := List.replicate 8 (1, 1)

/-- The parameter of a context. -/
def riceParameter (c : Nat × Nat) : Nat := ((List.range 31).find? (fun k => decide (c.1 ≤ c.2 * 2 ^ k))).getD 31

/-- A context after a value. -/
def riceNext (u : Nat) (c : Nat × Nat) : Nat × Nat :=
  let a := (c.1 + u) % 2 ^ 64
  if c.2 + 1 = 32 then (a / 2, 16) else (a, c.2 + 1)

/-- A value coded in context `i`. -/
def riceEncode (x : Contexts) (i u : Nat) : List Bool × Contexts :=
  let c := x.getD i (1, 1)
  let k := riceParameter c
  let q := u / 2 ^ k
  let bits := if q < 24 then List.replicate q true ++ [false] ++ lowBits k u
    else List.replicate 24 true ++ lowBits 32 u
  (bits, modifyNth (riceNext u) i x)

/-- A signed difference as a Rice value. -/
def zig (d : Int) : Nat := if 0 ≤ d then (2 * d).toNat else (-2 * d - 1).toNat
def unzig (z : Nat) : Int := if z % 2 = 1 then -(((z + 1) / 2 : Nat) : Int) else ((z / 2 : Nat) : Int)

/-! ### Classes and state (R331, R334) -/

/-- What coder and decoder keep beside the contexts: of an F block the value and residue before, SKIP, and words of the run
and of the ABSENT record to come; of an S block the last INDEX, levels, distances, and escape words to come. -/
structure CodeSt where
  p : Nat
  q : Nat
  ps : Nat
  need : Nat
  body : Nat
  esc : Nat
  li : Nat
  lev : List Nat
  pd : List (Nat × Nat)
deriving DecidableEq, Repr

/-- The start of a block (R334). -/
def CodeSt.start (isF : Bool) (base firstRun : Nat) : CodeSt :=
  let named := isF && firstRun != noRun
  { p := if isF then base else 0, q := 0, ps := if named then firstRun % 2 ^ 20 else 0
    need := if named then bitsOf firstRun 29 20 + 1 else 0, body := 0, esc := 0, li := 0, lev := List.replicate 8 0
    pd := List.replicate 8 (0, 0) }

/-- The last DELTA of a transition of scout `k` to level `l`. -/
def CodeSt.distance (c : CodeSt) (k l : Nat) : Nat :=
  let e := c.pd.getD k (0, 0)
  if l = 0 then e.1 else e.2

/-- note() of R335: the state after a word; none is a format error. -/
def CodeSt.note (isF : Bool) (c : CodeSt) (x : Nat) : Option CodeSt :=
  if isF then
    if c.need ≠ 0 then some { c with q := x ^^^ c.p, p := x, need := c.need - 1 }
    else if c.body ≠ 0 then some { c with body := c.body - 1 }
    else match x / 2 ^ 30 with
      | 0 => some { c with ps := x % 2 ^ 20, need := bitsOf x 29 20 + 1 }
      | 2 => if bitsOf x 29 24 = 1 then some { c with body := 5 } else none
      | 3 => none
      | _ => some c
  else if c.esc = 1 then
    let t := x / 2 ^ 28
    if 1 ≤ t ∧ t ≤ 4 then some { c with esc := if t = 4 then 2 else 0 } else none
  else if c.esc = 2 then some { c with esc := 0 }
  else
    let k := x / 2 ^ 29
    let l := x / 2 ^ 28 % 2
    let d := x % 2 ^ 28
    let c := { c with li := k, lev := modifyNth (fun _ => l) k c.lev }
    if d = 0 then some { c with esc := 1 }
    else some { c with pd := modifyNth (fun e => if l = 0 then (d, e.2) else (e.1, d)) k c.pd }

/-! ### Coding (R332, R333, R335) -/

/-- The class of the next word (R331): 0 VALUE, 1 BODY, 2 HEAD, 3 ESC, 4 REC. -/
def CodeSt.classOf (isF : Bool) (c : CodeSt) : Nat :=
  if isF then if c.need ≠ 0 then 0 else if c.body ≠ 0 then 1 else 2 else if c.esc ≠ 0 then 3 else 4

/-- The predicted form of a literal, or the word itself where that is shorter: the spec leaves the choice to the coder
(DESIGN CHOICE, log entry 60). -/
def shorterLiteral (x : Contexts) (w : Nat) (p : List Bool × Contexts) : List Bool × Contexts :=
  if p.1.length ≤ 33 then p else (true :: lowBits 32 w, x)

/-- A literal of the class that the state names. -/
def encodeLiteral (isF : Bool) (c : CodeSt) (x : Contexts) (w : Nat) : List Bool × Contexts :=
  if isF ∧ c.need ≠ 0 then
    let r := w ^^^ c.p
    if r = c.q then ([true], x)
    else
      let set := bitsSet 32 r
      let m := riceEncode x 0 set.length
      let g := set.foldl (fun (a : List Bool × Contexts × Int) (b : Nat) =>
        let e := riceEncode a.2.1 1 (Int.ofNat b - a.2.2 - 1).toNat
        (a.1 ++ e.1, e.2, Int.ofNat b)) (m.1, m.2, (-1 : Int))
      (false :: g.1, g.2.1)
  else if (isF ∧ c.body ≠ 0) ∨ (¬ isF ∧ c.esc ≠ 0) then (lowBits 32 w, x)
  else if isF then
    if w / 2 ^ 30 = 0 then
      let s := riceEncode x 2 (zig (Int.ofNat (w % 2 ^ 20) - Int.ofNat c.ps))
      let l := riceEncode s.2 3 (bitsOf w 29 20)
      shorterLiteral x w (false :: s.1 ++ l.1, l.2)
    else (true :: lowBits 32 w, x)
  else
    let d := w % 2 ^ 28
    if d = 0 then (true :: lowBits 32 w, x)
    else
      let k := w / 2 ^ 29
      let l := w / 2 ^ 28 % 2
      let j := riceEncode x 4 ((k + 8 - c.li) % 8)
      let z := riceEncode j.2 5 (zig (Int.ofNat d - Int.ofNat (c.distance k l)))
      shorterLiteral x w (false :: j.1 ++ [(c.lev.getD k 0 + 1 + l) % 2 == 1] ++ z.1, z.2)

/-- How many words from `i` on equal those `d` before them. -/
def matchLength (w : List Nat) (i d : Nat) : Nat :=
  (((w.drop i).zip (w.drop (i - d))).takeWhile (fun e => e.1 == e.2)).length

/-- The match that the Press takes at word `i`: among the `n` latest earlier positions with the same two words in the same
classes, as the worked example of a coded F block looks them up, the longest, the nearest on a tie. `k` holds each word with
its class. Answers length and distance. -/
def bestMatch (w : List Nat) (k : List (Nat × Nat)) (i n : Nat) : Option (Nat × Nat) :=
  if i + 1 < w.length then
    let same := ((List.range i).reverse.filter (fun j =>
      k.getD j (0, 0) == k.getD i (0, 0) && k.getD (j + 1) (0, 0) == k.getD (i + 1) (0, 0))).take n
    (same.map (fun j => (matchLength w i (i - j), i - j))).foldl
      (fun b e => match b with
        | none => some e
        | some a => if a.1 < e.1 then some e else b) none
  else none

/-- Match candidates of a level (R304). -/
def candidates (level : Nat) : Nat := if level = 0 then 0 else 2 ^ (level - 1)

/-- The state after words copied or coded; words that break the format leave it, and the decoder finds them. -/
def CodeSt.notes (isF : Bool) (c : CodeSt) (l : List Nat) : CodeSt :=
  l.foldl (fun c x => (c.note isF x).getD c) c

/-- The words of a block, each with its class. -/
def classWords (isF : Bool) : CodeSt → List Nat → List (Nat × Nat)
  | _, [] => []
  | c, x :: xs => (c.classOf isF, x) :: classWords isF (c.notes isF [x]) xs

/-- The bitstream of a block's raw words from word `i` on; `fuel` bounds the tokens (DEDUCED, log entry 61). -/
def encodeTokens (isF : Bool) (level : Nat) (w : List Nat) (k : List (Nat × Nat)) : Nat → Nat → CodeSt → Contexts → List Bool
  | 0, _, _, _ => []
  | fuel + 1, i, c, x =>
    if w.length ≤ i then []
    else match bestMatch w k i (candidates level) with
      | some (n, d) =>
        let l := riceEncode x 6 (n - 2)
        let m := riceEncode l.2 7 (d - 1)
        true :: l.1 ++ m.1
          ++ encodeTokens isF level w k fuel (i + n) (c.notes isF ((w.drop i).take n)) m.2
      | none =>
        let v := w.getD i 0
        let e := encodeLiteral isF c x v
        (if level = 0 then [] else [false]) ++ e.1
          ++ encodeTokens isF level w k fuel (i + 1) (c.notes isF [v]) e.2

/-- The container word (R327). -/
def containerWord (form lossWords bits : Nat) : Nat :=
  2 ^ 28 ||| placed form 27 26 ||| placed lossWords 21 16 ||| placed bits 15 0

/-- The stored payload of a block coded at a level. -/
def encodePress (isF : Bool) (level base firstRun : Nat) (raw loss : List Nat) : List Nat :=
  let c := CodeSt.start isF base firstRun
  let bits := encodeTokens isF level raw (classWords isF c raw) raw.length 0 c .fresh
  containerWord 0 loss.length bits.length :: packBits bits ++ loss

/-! ### Table mode (R325, R326) -/

/-- Code lengths of the static form. -/
def staticLength (b : Nat) : Nat :=
  if b = 0 then 2 else if b = 0xFF then 4 else if popCount 8 b = 1 then 6 else 10

def staticLengths : List Nat := (List.range 256).map staticLength

/-- Symbols with their lengths, in order of length and then of value. -/
def symbolOrder (lengths : List Nat) : List (Nat × Nat) :=
  (List.range 15).flatMap (fun i =>
    ((List.range 256).filter (fun b => lengths.getD b 0 == i + 1)).map (fun b => (b, i + 1)))

/-- Canonical codes: symbol, length and code. -/
def canonicalCodes (lengths : List Nat) : List (Nat × Nat × Nat) :=
  ((symbolOrder lengths).foldl (fun (a : List (Nat × Nat × Nat) × Option (Nat × Nat)) e =>
    let code := match a.2 with
      | none => 0
      | some (len, c) => (c + 1) * 2 ^ (e.2 - len)
    ((e.1, e.2, code) :: a.1, some (e.2, code))) ([], none)).1.reverse

/-- The lengths leave room for every code. -/
def tableSound (lengths : List Nat) : Bool :=
  decide ((lengths.foldl (fun n l => if l = 0 then n else n + 2 ^ (15 - l)) 0) ≤ 2 ^ 15)

/-- A code, most significant bit first. -/
def codeBits (len code : Nat) : List Bool := (lowBits len code).reverse

/-- The code bits of one byte; none for a byte without a code. -/
def tableBits (codes : List (Nat × Nat × Nat)) (b : Byte) : List Bool :=
  match codes.find? (fun e => e.1 == b.toNat) with
  | none => []
  | some e => codeBits e.2.1 e.2.2

/-- The 32 table words of the dynamic form (R328). -/
def tableWords (lengths : List Nat) : List Nat :=
  (List.range 32).map (fun j => (List.range 8).foldl (fun w i => w ||| (lengths.getD (8 * j + i) 0 % 16) <<< (4 * i)) 0)

/-- The stored payload of a TABLE-coded block; `dynamic` are the lengths that the Press has chosen for it
(DESIGN CHOICE, log entry 62). -/
def encodeTable (dynamic : Option (List Nat)) (raw : List Nat) : List Nat :=
  let lengths := dynamic.getD staticLengths
  let codes := canonicalCodes lengths
  let bits := (wordBytes raw).flatMap (tableBits codes)
  containerWord (if dynamic.isSome then 3 else 2) 0 bits.length
    :: (if dynamic.isSome then tableWords lengths else []) ++ packBits bits

/-! ### The decoder (R335) -/

/-- The bits of bitstream words. -/
def unpackBits (l : List Nat) : List Bool := l.flatMap (lowBits 32)

/-- `n` bits, least significant first, and the rest; bits past the end are 0. -/
def takeBits (n : Nat) (l : List Bool) : Nat × List Bool :=
  (((l.take n).zipIdx.foldl (fun w e => if e.1 then w ||| 2 ^ e.2 else w) 0), l.drop n)

/-- rice() of R335. -/
def riceDecode (x : Contexts) (i : Nat) (l : List Bool) : Nat × Contexts × List Bool :=
  let k := riceParameter (x.getD i (1, 1))
  let n := ((l.take 24).takeWhile id).length
  let r := if n = 24 then takeBits 32 (l.drop 24)
    else
      let b := takeBits k (l.drop (n + 1))
      (n * 2 ^ k + b.1, b.2)
  (r.1, modifyNth (riceNext r.1) i x, r.2)

/-- The gaps of a VALUE literal. -/
def decodeGaps : Nat → Int → Nat → Contexts → List Bool → Option (Nat × Contexts × List Bool)
  | 0, _, r, x, l => some (r, x, l)
  | m + 1, pos, r, x, l =>
    let g := riceDecode x 1 l
    let pos := pos + g.1 + 1
    if 31 < pos then none else decodeGaps m pos (r ||| 2 ^ pos.toNat) g.2.1 g.2.2

/-- literal() of R335. -/
def decodeLiteral (isF : Bool) (c : CodeSt) (x : Contexts) (l : List Bool) : Option (Nat × Contexts × List Bool) :=
  let raw := fun (l : List Bool) => let b := takeBits 32 l; some (b.1, x, b.2)
  if isF ∧ c.need ≠ 0 then
    if l.headD false then some (c.p ^^^ c.q, x, l.drop 1)
    else
      let m := riceDecode x 0 (l.drop 1)
      if 32 < m.1 then none
      else match decodeGaps m.1 (-1) 0 m.2.1 m.2.2 with
        | none => none
        | some r => some (c.p ^^^ r.1, r.2)
  else if (isF ∧ c.body ≠ 0) ∨ (¬ isF ∧ c.esc ≠ 0) then raw l
  else if l.headD false then raw (l.drop 1)
  else if isF then
    let z := riceDecode x 2 (l.drop 1)
    let n := riceDecode z.2.1 3 z.2.2
    let s := (c.ps : Int) + unzig z.1
    if s < 0 ∨ 0xFFFFF < s ∨ 0x3FF < n.1 then none else some (n.1 * 2 ^ 20 + s.toNat, n.2.1, n.2.2)
  else
    let j := riceDecode x 4 (l.drop 1)
    if 7 < j.1 then none
    else
      let k := (c.li + j.1) % 8
      let lv := (c.lev.getD k 0 + 1 + flag (j.2.2.headD false)) % 2
      let z := riceDecode j.2.1 5 (j.2.2.drop 1)
      let d := (c.distance k lv : Int) + unzig z.1
      if d < 1 ∨ 0xFFFFFFF < d then none
      else some (k * 2 ^ 29 + lv * 2 ^ 28 + d.toNat, z.2.1, z.2.2)

/-- The words that a match copies, one by one, and the state after; `out` holds the words so far, newest first. -/
def copyWords (isF : Bool) (d : Nat) : Nat → List Nat → CodeSt → Option (List Nat × CodeSt)
  | 0, out, c => some (out, c)
  | n + 1, out, c =>
    let w := out.getD (d - 1) 0
    match c.note isF w with
    | none => none
    | some c => copyWords isF d n (w :: out) c

/-- The token loop of decode(): the words, newest first, and the bits left. -/
def decodeTokens (isF : Bool) (level nw : Nat) :
    Nat → List Nat → CodeSt → Contexts → List Bool → Option (List Nat × CodeSt × List Bool)
  | 0, out, c, _, l => if out.length = nw then some (out, c, l) else none
  | fuel + 1, out, c, x, l =>
    if nw ≤ out.length then some (out, c, l)
    else if 1 ≤ level ∧ l.headD false then
      let n := riceDecode x 6 (l.drop 1)
      let d := riceDecode n.2.1 7 n.2.2
      if out.length < d.1 + 1 ∨ nw < out.length + n.1 + 2 then none
      else match copyWords isF (d.1 + 1) (n.1 + 2) out c with
        | none => none
        | some r => decodeTokens isF level nw fuel r.1 r.2 d.2.1 d.2.2
    else
      match decodeLiteral isF c x (if 1 ≤ level then l.drop 1 else l) with
      | none => none
      | some r =>
        match c.note isF r.1 with
        | none => none
        | some c => decodeTokens isF level nw fuel (r.1 :: out) c r.2.1 r.2.2

/-- One byte of a TABLE bitstream: codes grow bit by bit, most significant first. -/
def decodeByte (codes : List (Nat × Nat × Nat)) : Nat → Nat → Nat → List Bool → Option (Nat × List Bool)
  | 0, _, _, _ => none
  | fuel + 1, len, code, l =>
    let code := 2 * code + flag (l.headD false)
    match codes.find? (fun e => e.2.1 == len + 1 && e.2.2 == code) with
    | some e => some (e.1, l.drop 1)
    | none => decodeByte codes fuel (len + 1) code (l.drop 1)

def decodeBytes (codes : List (Nat × Nat × Nat)) : Nat → List Bool → Option (List Byte × List Bool)
  | 0, l => some ([], l)
  | n + 1, l =>
    match decodeByte codes 15 0 0 l with
    | none => none
    | some (b, l) =>
      match decodeBytes codes n l with
      | none => none
      | some (bs, l) => some (BitVec.ofNat 8 b :: bs, l)

/-- Words of a byte string. -/
def bytesToWords (l : List Byte) : List Nat := (List.range (l.length / 4)).map (fun i => ofLeBytes ((l.drop (4 * i)).take 4))

/-- decode() of R335 on the stored payload of a block of `nw` raw words: the raw words and the loss table, or none for a
format error. -/
def decodePayload (isF table : Bool) (level base firstRun nw : Nat) (payload : List Nat) :
    Option (List Nat × List Nat) :=
  match payload with
  | [] => none
  | c :: rest =>
    let form := bitsOf c 27 26
    let lossWords := bitsOf c 21 16
    let bits := bitsOf c 15 0
    let t := if form = 3 then 32 else 0
    let stream := if form = 1 then nw else ceilDiv bits 32
    if bitsOf c 31 28 ≠ 1 ∨ (2 ≤ form) ≠ table ∨ rest.length ≠ t + stream + lossWords then none
    else
      let loss := rest.drop (t + stream)
      let l := (unpackBits ((rest.drop t).take stream)).take bits
      if form = 1 then some (rest.take nw, loss)
      else if table then
        let lengths := if form = 3 then
            (List.range 256).map (fun b => bitsOf (rest.getD (b / 8) 0) (4 * (b % 8) + 3) (4 * (b % 8)))
          else staticLengths
        if !tableSound lengths then none
        else match decodeBytes (canonicalCodes lengths) (4 * nw) l with
          | none => none
          | some (bs, _) => some (bytesToWords bs, loss)
      else
        match decodeTokens isF level nw nw [] (.start isF base firstRun) .fresh l with
        | none => none
        | some (out, c, rest) =>
          if c.need = 0 ∧ c.body = 0 ∧ c.esc = 0 ∧ rest.isEmpty then some (out.reverse, loss) else none

/-! ### Lossy options (R319 to R324) -/

/-- Pulses lost by a unit: FOLDED and MERGED. -/
structure Loss where
  folded : Nat
  merged : Nat
deriving DecidableEq, Repr

/-- Glitch fold of transitions in time order: pairs fewer than `g` ticks apart are removed. Answers what is kept, and the
first edges of what is removed. -/
def foldPulses (g : Nat) : List Nat → List Nat × List Nat
  | a :: b :: rest =>
    if b - a < g then
      let r := foldPulses g rest
      (r.1, a :: r.2)
    else
      let r := foldPulses g (b :: rest)
      (a :: r.1, r.2)
  | l => (l, [])

/-- Time coarsening of transitions, each moved to its interval's start or the lower bound; of those on one tick one is kept
when their number is odd. Answers what is kept, and the ticks of the pulses merged. -/
def coarsenTicks (k : Nat) (l : List (Nat × Nat)) : List Nat × List Nat :=
  let moved := l.map (fun e => max (e.1 / 2 ^ k * 2 ^ k) e.2)
  let at' := moved.eraseDups
  let n := fun (t : Nat) => (moved.filter (· == t)).length
  (at'.filter (fun t => n t % 2 == 1), at'.flatMap (fun t => List.replicate (n t / 2) t))

/-- The loss table (R324): none for a stream on which no option acts. -/
def lossTable (units : List (Nat × Loss)) : List Nat :=
  let marked := units.filter (fun e => e.2.folded != 0 || e.2.merged != 0)
  ofBits (marked.map Prod.fst)
    :: marked.map (fun e => placed (min 0xFFFF e.2.folded) 31 16 ||| placed (min 0xFFFF e.2.merged) 15 0)

/-- What an option does to the transitions of one unit, each with its lower bound. Answers the ticks kept, and the first
edges of pulses folded and merged. A setting of 0 does not act. -/
def loseUnit (k g : Nat) (l : List (Nat × Nat)) : List Nat × List Nat × List Nat :=
  let f := foldPulses g (l.map Prod.fst)
  let kept := l.filter (fun e => f.1.contains e.1)
  if k = 0 then (f.1, f.2, [])
  else
    let c := coarsenTicks k kept
    (c.1, f.2, c.2)

/-- Transitions of cell `c` between consecutive stored words from a base on: ticks. -/
def cellTransitions (c : Nat) : Nat → List SlotRec → List Nat
  | _, [] => []
  | before, r :: rs =>
    if bitOf r.value c != bitOf before c then 8 * r.n :: cellTransitions c r.value rs else cellTransitions c r.value rs

/-- The slots of an F block with an option acting: per cell what is kept of its transitions, slots stored where the word
then changes (R322), and the first edges of lost pulses. -/
def loseSlots (k g first base : Nat) (slots : List SlotRec) : List SlotRec × List (Nat × List Nat × List Nat) :=
  let stored := slots.filter (·.stored)
  let units := (List.range 32).map (fun c =>
    (c, loseUnit k g ((cellTransitions c base stored).map (fun t => (t, first)))))
  let ticks := ((slots.map (fun r => 8 * r.n)))
  let value := fun (t : Nat) => units.foldl (fun v e =>
    if (e.2.1.filter (fun x => decide (x ≤ t))).length % 2 = 1 then v ^^^ 2 ^ e.1 else v) base
  let changes := fun (t : Nat) => units.any (fun e => e.2.1.contains t)
  (slots.zip ticks |>.map (fun e => { e.1 with value := value e.2, stored := changes e.2 && value e.2 != (if e.2 = first then base else value (e.2 - 8)) }),
    units.map (fun e => (e.1, e.2.2)))

/-- The transitions of a scout between two escape records, with their lower bound and level; new stretch at each escape. -/
def scoutStretches (k : Nat) : Nat → List (Nat × Bool × Nat) → List ScoutRec → List (List (Nat × Bool × Nat))
  | _, acc, [] => [acc.reverse]
  | bound, acc, r :: rs =>
    if r.index = k then
      match r.item with
      | .edge v => scoutStretches k bound ((r.tick, v, bound) :: acc) rs
      | .overrun _ => acc.reverse :: scoutStretches k (r.tick + 1) [] rs
      | .resume _ _ => acc.reverse :: scoutStretches k (r.tick + 1) [] rs
      | _ => scoutStretches k bound acc rs
    else scoutStretches k bound acc rs

/-- The records of an S block with an option acting, and the first edges of lost pulses by scout. -/
def loseRecs (k g first : Nat) (snaps : List ScoutSnap) (recs : List ScoutRec) :
    List ScoutRec × List (Nat × List Nat × List Nat) :=
  let units := snaps.map (fun x =>
    let parts := (scoutStretches x.index first [] recs).map (fun l =>
      let r := loseUnit k g (l.map (fun e => (e.1, e.2.2)))
      (l, r))
    (x.index, parts))
  let edges := units.flatMap (fun u => u.2.flatMap (fun p =>
    let level0 := match p.1 with | [] => false | e :: _ => !e.2.1
    p.2.1.zipIdx.map (fun e =>
      (⟨e.1, u.1, .edge (Bool.xor level0 (e.2 % 2 == 0)),
        (recs.any (fun r => r.index == u.1 && r.coasted && decide (r.tick / 2 ^ k * 2 ^ k ≤ e.1) && decide (e.1 ≤ r.tick)))⟩ : ScoutRec))))
  let others := recs.filter (fun r => match r.item with | .edge _ => false | _ => true)
  let sorted := (others ++ edges).foldl (fun l r => insert r l) []
  (sorted, units.map (fun u => (u.1, u.2.flatMap (fun p => p.2.2.1), u.2.flatMap (fun p => p.2.2.2))))
where
  /-- Order of tick and then of index (R191). -/
  insert (r : ScoutRec) : List ScoutRec → List ScoutRec
    | [] => [r]
    | x :: xs => if x.tick < r.tick ∨ (x.tick = r.tick ∧ x.index ≤ r.index) then x :: insert r xs else r :: x :: xs

/-- The counts of pulses lost in a stretch of ticks, by unit. -/
def lossIn (lost : List (Nat × List Nat × List Nat)) (a b : Nat) : List (Nat × Loss) :=
  let n := fun (l : List Nat) => (l.filter (fun t => decide (a ≤ t) && decide (t < b))).length
  lost.map (fun e => (e.1, ⟨n e.2.1, n e.2.2⟩))

/-! ### Raw pieces (R314, R315) -/

/-- The slot in which the cells of an ABSENT record returned (R292). -/
def absentReturn (l : List Nat) : Nat := (l.getD 4 0 + 2 ^ 32 * l.getD 5 0) / 8

/-- A frame payload filled as the builder fills it, ABSENT records in the order of their return: the payload, the records
it took, and the records and slots left over. -/
def FrameEnc.fillPiece (limit : Nat) :
    FrameEnc → List (List Nat) → List (List Nat) → List SlotRec → FrameEnc × List (List Nat) × List (List Nat) × List SlotRec
  | e, took, abs, [] =>
    let n := min abs.length ((limit - e.used) / 6)
    ({ e with used := e.used + 6 * n }, took ++ abs.take n, abs.drop n, [])
  | e, took, abs, r :: rs =>
    let due := abs.takeWhile (fun l => decide (absentReturn l ≤ r.n))
    let used := e.used + 6 * due.length
    if limit < used then (e, took, abs, r :: rs)
    else
      let e := { e with used := used }
      let took := took ++ due
      let abs := abs.drop due.length
      if r.stored then
        if e.used + e.cost r.n ≤ limit then (e.place r.n r.value).fillPiece limit took abs rs else (e, took, abs, r :: rs)
      else e.fillPiece limit took abs rs

/-- The pieces of an F block, each cut where RAW coding with a limit of words would have cut it; `fuel` bounds them. -/
def framePieces (limit : Nat) : Nat → CutBlock → List CutBlock
  | 0, b => [b]
  | fuel + 1, b =>
    let e := (FrameEnc.start (b.first / 8) 0).fillPiece limit [] b.absents b.slots
    if e.2.2.1.isEmpty ∧ e.2.2.2.isEmpty then [b]
    else
      let stop := max b.first (8 * e.1.pos)
      let mine := b.slots.filter (fun r => decide (8 * r.n < stop))
      { b with stop := stop, last := false, slots := mine, absents := e.2.1 }
        :: framePieces limit fuel { b with
            first := stop, gap := 0, chosen := false, base := nextBase b.base mine
            slots := b.slots.filter (fun r => decide (stop ≤ 8 * r.n)), absents := e.2.2.1 }

/-- The pieces of an S block (DEDUCED, log entry 82). -/
def scoutPieces (limit : Nat) : Nat → CutBlock → List CutBlock
  | 0, b => [b]
  | fuel + 1, b =>
    let e := ScoutEnc.fill limit b.first b.recs.length (ScoutEnc.start b.snaps) b.recs
    match e.2 with
    | [] => [b]
    | _ :: _ =>
      let mine := b.recs.take (b.recs.length - e.2.length)
      let stop := match mine.getLast? with
        | none => b.first
        | some r => r.tick + 1
      { b with stop := stop, last := false, recs := mine }
        :: scoutPieces limit fuel { b with
            first := stop, gap := 0, chosen := false, snaps := mine.foldl snapAfter b.snaps, recs := e.2 }

/-- The blocks that raw content is stored in: one when it fits, else pieces (R314). -/
def rawPieces (limit : Nat) (b : CutBlock) : List CutBlock :=
  if b.rawPayload.2.length ≤ limit then [b]
  else match b.stream with
    | .scout _ => scoutPieces limit b.recs.length b
    | _ => framePieces limit (b.slots.length + b.absents.length) b

/-- Poisoned raw words of a block that fall into words `a` to `a + n - 1`, as 64-bit words of a payload in which they begin
at word `start`. -/
def poisonIn (l : List Nat) (a n start : Nat) : List Nat :=
  ((l.filter (fun w => decide (a ≤ w) && decide (w < a + n))).map (fun w => (w - a + start) / 2)).eraseDups

end Sys2Proof.Machine
end

