-- ==== Sys2Proof/Machine/PressCmds.lean ====
section
/-!
DEFINITION. PRESS_BLOCK (chapter 09): a block enters the Press and is coded, verified, and stored coded or raw.
-/
namespace Sys2Proof.Machine

/-- The stream belongs to the F lane. -/
def isFrameStream : StreamId → Bool
  | .frame _ _ => true
  | _ => false

/-- The settings of the lossy options that act on a stream (R318, R319): k and G, each 0 when it does not act. -/
def State.lossySettings (s : State) (i : StreamId) : Nat × Nat :=
  let u := streamSuper i
  let p := Page.press u
  let k := s.getF p R.PRESS_LOSSY_K
  let g := s.getF p R.PRESS_LOSSY_G
  match i with
  | .scout _ =>
    if s.isSet p R.PRESS_LOSSY_S_EN then (k, if 2 ≤ g then g else 0) else (0, 0)
  | .frame u f =>
    if bitOf (s.getF p R.PRESS_LOSSY_F_EN) f && s.getF (.frame u f) R.FRAME_STORE_CTRL_MODE == 2 && !s.stateMode u f then
      (if 4 ≤ k then k else 0, if 9 ≤ g then g else 0)
    else (0, 0)
  | .mark => (0, 0)

/-- The level wanted of a lane: that of its setting and the Reeve's cap (R306, R308). -/
def State.pressWanted (s : State) (u : Nat) (isF : Bool) : Nat :=
  let p := Page.press u
  let cap := s.getF p R.PRESS_STATUS_CAP
  if isF then min (min (s.getF p R.PRESS_CTRL_LEVEL) 9) cap else min (min (s.getF p R.PRESS_CTRL_S_LEVEL) 4) cap

/-- The level of the next block of a lane, with what it shows and counts of slipping (R306, R337). TABLE coding has
LEVEL 0 and never slips (R309, R325). -/
def State.pressLevel (s : State) (u : Nat) (isF table : Bool) : Nat × State :=
  if table then (0, if isF then s.putF (.press u) R.PRESS_STATUS_LAST_LEVEL 0 else s)
  else
    let wanted := s.pressWanted u isF
    if isF then
      let limit := s.slipLimit u (s.backlogBytes u)
      let level := min wanted limit
      let t := s.putF (.press u) R.PRESS_STATUS_LAST_LEVEL level
      let t := if level < wanted then t.bump (.press u) R.PRESS_SLIPPED_COUNT 1 else t
      let slips := limit != 9
      let t := if slips && !(s.store u).slipping then t.raise (.press u) 1 else t
      (level, t.setStore u { t.store u with slipping := slips })
    else (wanted, s)

/-- OUT counts what leaves the Press. -/
def State.countOut (s : State) (u words : Nat) : State :=
  s.addPair (.press u) R.PRESS_OUT_LO_BYTES R.PRESS_OUT_HI_BYTES (4 * words)

/-- Raw content goes to the store: RAW, or in the form STORED with a loss table where an option acts (R314, R315). -/
def State.storeRaw (s : State) (u : Nat) (c : Coded) (lost : Option (List (Nat × List Nat × List Nat)))
    (poison : List Nat) : Nat → List CutBlock → State
  | _, [] => s
  | done, b :: bs =>
    let p := b.rawPayload
    let n := p.2.length
    let loss := match lost with
      | none => []
      | some l => lossTable (lossIn l b.first (if bs.isEmpty then max b.stop (b.first + 1) else b.stop))
    let payload := if lost.isSome then containerWord 1 loss.length 0 :: p.2 ++ loss else p.2
    let bad := poisonIn poison done n (flag lost.isSome)
    ((s.writePiece u { b with poison := bad } c p.1 (4 * n) payload).countOut u payload.length).storeRaw
      u c lost poison (done + n) bs

/-- Errors that the Press met as it read its memories: each at a window offset, and for an uncorrectable one the raw word
that it struck (R426, R427) (DESIGN CHOICE, log entry 81). -/
def State.pressFlaws (s : State) (u : Nat) (l : List (Nat × Option Nat)) : State :=
  l.foldl (fun t e => t.sramError u e.1 1 e.2.isSome) s

/-- The block is coded, verified and stored (DEDUCED, log entry 80). -/
def State.pressOne (s : State) (u : Nat) (b : CutBlock) (lengths : List Nat) (coded : Option (List Nat))
    (flaws : List (Nat × Option Nat)) : State :=
  let p := Page.press u
  let isF := isFrameStream b.stream
  let coding := s.codingOf b.stream
  let table := coding == 2
  let s := s.pressFlaws u flaws
  let poison := flaws.filterMap Prod.snd
  let s := s.addPair p R.PRESS_IN_LO_BYTES R.PRESS_IN_HI_BYTES (4 * b.rawPayload.2.length)
  let v := s.pressLevel u isF table
  let level := v.1
  let s := v.2
  let set := if table then (0, 0) else s.lossySettings b.stream
  let acts := set.1 != 0 || set.2 != 0
  let changed : CutBlock × List (Nat × List Nat × List Nat) :=
    if !acts then (b, [])
    else if isF then
      let r := loseSlots set.1 set.2 b.first b.base b.slots
      ({ b with slots := r.1 }, r.2)
    else
      let r := loseRecs set.1 set.2 b.first b.snaps b.recs
      ({ b with recs := r.1 }, r.2)
  let b := changed.1
  let raw := b.rawPayload
  let loss := if acts then lossTable (lossIn changed.2 b.first b.stop) else []
  let dynamic := if s.getF p R.PRESS_CTRL_TABLE_FORM = 1 then some lengths else none
  let payload := coded.getD
    (if table then encodeTable dynamic raw.2 else encodePress isF level b.base raw.1 raw.2 loss)
  let good := decodePayload isF table level b.base raw.1 raw.2.length payload == some (raw.2, loss) && poison.isEmpty
  let gains := decide (4 * payload.length + 64 < 4 * raw.2.length) && decide (payload.length ≤ rawWords)
  if good && gains then
    ((s.bump p R.PRESS_CODED_COUNT 1).writePiece u b
        ⟨coding, level, acts, if acts then set.1 else 0, if acts then set.2 else 0, false, false⟩ raw.1
        (4 * raw.2.length) payload).countOut u payload.length
  else
    let seq := (s.stream b.stream).seq
    let s := if good then s.bump p R.PRESS_RAWN_COUNT 1
      else (((s.bump p R.PRESS_RAWV_COUNT 1).putF p R.PRESS_RAWV_AT_STREAM_ID (streamNumber b.stream)).putF
        p R.PRESS_RAWV_SEQ_SEQ seq).raise p 0
    let c : Coded := if acts then ⟨1, level, true, set.1, set.2, !good, good⟩ else ⟨0, 0, false, 0, 0, !good, good⟩
    let limit := if acts then rawWords - 1 - loss.length else rawWords
    s.storeRaw u c (if acts then some changed.2 else none) poison 0 (rawPieces limit b)

/-- The oldest block of a lane that waits for the Press leaves the wait. -/
def takeCut (isF : Bool) : List CutBlock → Option (CutBlock × List CutBlock)
  | [] => none
  | b :: bs =>
    if isFrameStream b.stream == isF then some (b, bs)
    else (takeCut isF bs).map (fun r => (r.1, b :: r.2))

/-- PRESS_BLOCK (R306 to R315). `lengths` are the code lengths that the Press chooses for a dynamic table, `coded` is the
payload where the coder's choices, or an error in it, make another than `encodePress` and `encodeTable` give, and `flaws` are the errors of on-chip memory that it reads. -/
def execPressBlock (u : Nat) (sLane : Bool) (lengths : List Nat) (coded : Option (List Nat))
    (flaws : List (Nat × Option Nat)) (s : State) : Host.Outcome State Fault Refusal :=
  s.on (.press u) (match takeCut (!sLane) (s.store u).cut with
    | none => s
    | some (b, rest) =>
      let t := s.pressOne u b lengths coded flaws
      (t.setStore u { t.store u with cut := rest }).settleBacklog u)

end Sys2Proof.Machine
end

