-- ==== Sys2Proof/Machine/TakeCmds.lean ====
section
/-!
DEFINITION. The commands of takes and the store (chapter 08): ARM and its checks, a take's first slot, stops, the ends of
segments and of the take, records, cuts, holes and store losses.
-/
namespace Sys2Proof.Machine

/-! ### The checks of an ARM (R266) -/

/-- Four microseconds in ticks (R265). -/
def armDelay : Nat := 4 * ticksPerUs

/-- The shadow value of a pair of HIVE fields. -/
def State.shadowPair (s : State) (lo hi : Fld) : Nat := s.getShadowF .hive lo + 2 ^ 32 * s.getShadowF .hive hi

/-- HIVE_TAKE_START as ARM will apply it, bits 4:0 taken as 0 (R265). -/
def State.startBound (s : State) : Nat :=
  s.shadowPair R.HIVE_TAKE_START_LO_START R.HIVE_TAKE_START_HI_START / 32 * 32

/-- The super will write a frame or scout stream by the shadows that ARM applies; S0 always counts (R266, R285). -/
def State.willStore (s : State) (u : Nat) : Bool :=
  u == 0 || (List.range 8).any (fun k =>
    s.shadowOn (.frame u k) && s.getShadowF (.frame u k) R.FRAME_STORE_CTRL_MODE != 0
      || s.shadowOn (.scout u k))

/-- The layout of a super is settled (R266). -/
def State.layoutSettled (s : State) (u : Nat) : Bool :=
  (s.chanUsable u 0 || s.chanUsable u 1) &&
    (List.range 2).all (fun k => s.chanState u k == 0 || decide (4 ≤ s.chanState u k))

/-- Code 0x06 (R198). -/
def State.overBudget (s : State) (u : Nat) : Bool :=
  let on := (List.range 8).filter (fun k => s.shadowOn (.scout u k))
  let sum := fun (f : Fld) => on.foldl (fun n k => n + s.getShadowF (.scout u k) f) 0
  decide (784 < sum R.SCOUT_BUDGET_ALLOW) || decide (16376 < sum R.SCOUT_BUDGET_BURST)
    || on.any (fun k =>
        let l := s.getShadowF (.scout u k) R.SCOUT_RESUME_LEVEL
        decide (l < 64) || decide (s.getShadowF (.scout u k) R.SCOUT_BUDGET_BURST < l))

/-- Code 0x05 (R152). -/
def State.podModeDiffers (s : State) (u : Nat) : Bool :=
  (List.range 8).any (fun f =>
    s.shadowOn (.pod u f)
      && s.getShadowF (.pod u f) R.POD_LINK_CTRL_MODE != s.getF (.pod u f) R.POD_LINK_STATUS_MODE)

/-- PRE and the store limit of a super as ARM will apply them. -/
def State.shadowPre (s : State) : Nat := s.shadowPair R.HIVE_TAKE_PRE_LO_PRE R.HIVE_TAKE_PRE_HI_PRE
def State.shadowLimit (s : State) (u : Nat) : Nat := s.getShadowF .hive (R.HIVE_STORE_LIMIT_SLOT u)

/-- The size rule of R277 for a super with store limit `ls` and `segs` segments. -/
def storeLarge (pre segs ls : Nat) : Bool := decide (ceilDiv ((pre + 2048) * 17) 2016 + 384 ≤ ls / segs)

/-- Code 0x09. -/
def State.storeSmall (s : State) (u : Nat) : Bool :=
  let ls := if s.shadowLimit u = 0 then s.slotCount u else s.shadowLimit u
  s.layoutSettled u && s.willStore u
    && !storeLarge s.shadowPre (s.getShadowF .hive R.HIVE_TAKE_SEGS_SEGS_M1 + 1) ls

/-- Code 0x0A (R266, R421, R443). -/
def State.storeUnready (s : State) (u : Nat) : Bool :=
  (s.willStore u && !s.layoutSettled u) || !s.isSet (.sram u) R.PAGE_STATUS_READY

/-- A check of a super: the code and the first super that fails it. -/
def State.firstSuper (s : State) (code : Nat) (bad : Nat → Bool) : Option (Nat × Nat) :=
  (s.supers.find? bad).map (fun u => (code, u))

/-- A check of the hive. -/
def hiveCheck (code : Nat) (bad : Bool) : Option (Nat × Nat) := if bad then some (code, 0xF) else none

/-- The checks before the Reeve's, in the order of their codes: the first that fails, with its super. A part without a
Press or scouts has no page that could ask for them (R7, R13) (DEDUCED, log entry 65). -/
def State.armChecks (s : State) : Option (Nat × Nat) :=
  [hiveCheck 1 s.inTake,
   if s.fuse.part.hasScouts then none else s.firstSuper 3 (fun u => (List.range 8).any (fun k => s.shadowOn (.scout u k))),
   s.firstSuper 4 (fun u => !s.isSet (.spll u 0) R.PLL_TIME_STATUS_ALIGNED),
   s.firstSuper 5 s.podModeDiffers,
   s.firstSuper 6 s.overBudget,
   hiveCheck 7 (decide (s.shadowPre < 1600)),
   s.firstSuper 8 (fun u => s.layoutSettled u && decide (s.slotCount u < s.shadowLimit u)),
   s.firstSuper 9 s.storeSmall,
   s.firstSuper 0xA s.storeUnready,
   hiveCheck 0xB (s.startBound != 0 && decide (s.startBound < s.hiveTime + armDelay))].findSome? id

/-! ### An ARM (R264, R266) -/

/-- REEVE_PLAN shows the plan of an ARM that has reached the Reeve, and its outcome. -/
def State.showPlan (s : State) (refused : Bool) : State :=
  ((s.putF .reeve R.REEVE_PLAN_REFUSED (flag refused)).putF .reeve R.REEVE_PLAN_PEAK_USED (flag (!s.historyOk))).putF
    .reeve R.REEVE_PLAN_PLAN (min 0xFFFF s.planQ)

/-- The ARM is refused with a code and the super concerned. -/
def State.refuseArm (s : State) (c : HostCmd) (e : Nat × Nat) : State :=
  let t := (s.putF .hive R.HIVE_TAKE_REFUSE_CODE e.1).putF .hive R.HIVE_TAKE_REFUSE_SUPER e.2
  (t.raise .hive 1).endCommand c 1 (e.1 + 256 * e.2) []

/-- The first slot of the take (R265). -/
def State.firstSlot (s : State) : Nat := beatUp (max (s.hiveTime + armDelay) s.startBound) / 8

/-- The blocks of the previous take that are still on their way are given up: one that is already entering the super queue,
or in it, goes on to its pop, and takes no block slot (DESIGN CHOICE, log entry 67). -/
def StoreSt.giveUp (x : StoreSt) : StoreSt :=
  let drop := fun (b : OutBlock) => { b with segment := 65536 }
  { x with
    owed := [], lossFrom := none, cut := [], out := if x.pushed = 0 then [] else (x.out.take 1).map drop
    queued := x.queued.map drop, slipping := false }

/-- The store of a super as ARM leaves it: its limit, its parts, and nothing in them (R267, R276)
(DEDUCED, log entry 69). -/
def State.openStore (s : State) (u : Nat) : State :=
  let l := s.getF .hive (R.HIVE_STORE_LIMIT_SLOT u)
  let l := if l = 0 then s.slotCount u else l
  s.setStore u { (s.store u).giveUp with limit := l, partSize := l / s.segments, parts := [] }

/-- Registers that clear at ARM: FRAME_STORE_BLOCKS and FRAME_STORE_LOST, the counters of the Press, and QUEUE_PEAK, which
then shows the depth (DEDUCED, log entry 66; DEDUCED, log entry 70). -/
def State.clearAtArm (s : State) : State :=
  let t := s.supers.foldl (fun t u =>
    let t := (List.range 8).foldl (fun t f =>
      (t.putF (.frame u f) R.FRAME_STORE_BLOCKS_COUNT 0).putF (.frame u f) R.FRAME_STORE_LOST_COUNT 0) t
    if t.has (.press u) then
      let p := Page.press u
      [R.PRESS_BACKLOG_MAX_MAX, R.PRESS_CODED_COUNT, R.PRESS_RAWN_COUNT, R.PRESS_RAWV_COUNT, R.PRESS_SLIPPED_COUNT,
        R.PRESS_IN_LO_BYTES, R.PRESS_IN_HI_BYTES, R.PRESS_OUT_LO_BYTES, R.PRESS_OUT_HI_BYTES,
        R.PRESS_STATUS_BACKLOG].foldl (fun t f => t.putF p f 0) t
    else t) s
  t.allQueues.foldl (fun t q => (t.putF (queuePage q) R.QUEUE_PEAK_COUNT 0).settlePeak q) t

/-- The stream will be present in the take (R285) (DEDUCED, log entry 29; DEDUCED, log entry 68). -/
def State.streamWanted (s : State) : StreamId → Bool
  | .frame u f => s.enabled (.frame u f) && s.getF (.frame u f) R.FRAME_STORE_CTRL_MODE != 0
  | .scout u => !(s.activeScouts u).isEmpty
  | .mark => true

/-- The lossy options of a super are asked of a present stream on which they cannot act (R318, R464). -/
def State.lossyIgnored (s : State) (u : Nat) : Bool :=
  s.enabled (.press u) &&
    ((s.isSet (.press u) R.PRESS_LOSSY_S_EN && s.streamWanted (.scout u) && s.codingOf (.scout u) != 1)
      || (List.range 8).any (fun f =>
        bitOf (s.getF (.press u) R.PRESS_LOSSY_F_EN) f && s.streamWanted (.frame u f)
          && !(s.codingOf (.frame u f) == 1 && s.getF (.frame u f) R.FRAME_STORE_CTRL_MODE == 2 && !s.stateMode u f)))

/-- PRESS_FLAGS.LOSSY_IGNORED of every super (R318). -/
def State.noteLossy (s : State) : State :=
  s.supers.foldl (fun t u =>
    if s.lossyIgnored u then (t.putF (.press u) R.PRESS_FLAGS_LOSSY_IGNORED 1).raise (.press u) 3 else t) s

/-- The ARM is accepted with take ID `id`: shadows apply, the previous take is given up, and the take is ARMED. -/
def State.acceptArm (s : State) (id : Nat) : State :=
  let first := s.firstSlot
  let t := s.grantTake.applyAtArm
  let t := t.putF .hive R.HIVE_TAKE_ID_ID id
  let t := t.putPair .hive R.HIVE_TAKE_FIRST_LO_TIME R.HIVE_TAKE_FIRST_HI_TIME (8 * first)
  let t := (t.putF .hive R.HIVE_TAKE_TRIGS_COUNT 0).putF .hive R.HIVE_TAKE_STATE_SEGMENT 0
  let t := { t with
    stopped := []
    take := { TakeSt.reset with
      begun := true, accepted := s.hiveTime, first := first, start := first, reader := s.reduced } }
  let t := t.allStreams.foldl (fun t i => t.setStream i .reset) t
  let t := t.supers.foldl (fun t u => (((t.openStore u).leaveSelfRefresh u 0).leaveSelfRefresh u 1).showStore u) t
  ((t.clearAtArm.noteLossy).setTakeState 1).raise .hive 0

/-- The effect of an ARM. -/
def State.arm (s : State) (c : HostCmd) : State :=
  match s.armChecks with
  | some e => s.refuseArm c e
  | none =>
    if s.powerAllows then
      let id := ofLeBytes ((c.bytes.drop 0x10).take 4)
      ((s.showPlan false).acceptArm id).endCommand c 0 id (leBytes 8 s.hiveTime ++ leBytes 8 (8 * s.firstSlot))
    else (s.showPlan true).refuseArm c (0xC, 0xF)

/-- ARM. -/
def execArm (s : State) : Host.Outcome State Fault Refusal := (s.runCommand 1 s.arm).finish

/-! ### The take's first slot (R265) -/

/-- The scouts of a super begin the take: buckets full, transitions before the first tick told by the SNAPSHOT alone
(R195, R196). -/
def State.startScouts (s : State) (u : Nat) : State :=
  let a := 8 * s.take.first
  let t := (s.activeScouts u).foldl (fun t k =>
    let x := t.scout u k
    let before := x.raw.filter (fun e => decide (e.1 < a))
    let settling := x.suspend == .settling && decide (a < x.settleEnd)
    (t.setScout u k { x with
      recLevel := match before.getLast? with | none => x.recLevel | some e => e.2
      raw := x.raw.filter (fun e => decide (a ≤ e.1))
      lost := 0, bucket := t.getF (.scout u k) R.SCOUT_BUDGET_BURST * tokenUnits, bucketAt := a }).setSuspend u k
        (if settling then .settling else .none)) s
  t.setStream (.scout u) { t.stream (.scout u) with
    snaps := (t.activeScouts u).map (fun k =>
      ⟨k, (t.scout u k).recLevel, false, (t.scout u k).suspend == .settling⟩) }

/-- A clock of the super has been gone too long for samples to be taken in (R108, R658). -/
def State.intakeOff (s : State) (u : Nat) : Bool :=
  [Page.pll 0, .spll u 0].any (fun p =>
    match s.pllState p with
    | 3 => false
    | 6 => false
    | 5 => decide ((s.pll p).coastAt + s.getF p R.PLL_COAST_COAST_MAX * ticksPerUs ≤ s.hiveTime)
    | _ => true)

/-- The take begins: every present stream opens at the first slot's tick, TAKE_START is written, sequencers and scouts
start, and losses under way show as holes or store losses (DEDUCED, log entry 44). -/
def State.beginTake (s : State) : State :=
  let n := s.take.first
  let a := 8 * n
  let t := (s.setTakeState 2).putPair .hseq R.SEQ_TRIG_TIME_LO_TIME R.SEQ_TRIG_TIME_HI_TIME 0
  let t := (t.putF .hseq R.SEQ_TRIG_COUNT_COUNT 0).startSeqs n
  let t := t.allStreams.foldl (fun t i =>
    t.setStream i { StreamSt.reset with present := s.streamWanted i, first := a, formed := a }) t
  let t := t.supers.foldl (fun t u => (t.startScouts u).workSram u) t
  let t := { t with reeve := { t.reeve with energies := [], best := 0 } }
  let t := t.systemMark (sysRec 0x01 0xF a
    (if t.ringState = 4 ∨ t.ringState = 5 then 0x8000 + t.position else 0)
    (t.getF .hive R.HIVE_TAKE_ID_ID) t.take.accepted t.pre)
  let t := t.clearFlags
  let t := t.supers.foldl (fun t u =>
    if t.storeDisabled u then t.beginStoreLoss u a (if t.storeOff u then 2 else 1) else t) t
  t.supers.foldl (fun t u =>
    if t.intakeOff u then
      (sampleStreams u).foldl (fun t i => t.holeBegin i a false) { t with stopped := t.stopped ++ [(u, n)] }
    else t.showStore u) t

/-- TAKE_FIRST_SLOT. -/
def execTakeFirstSlot (s : State) : Host.Outcome State Fault Refusal :=
  (if s.takeState = 1 then (s.advanceTo (8 * s.take.first)).beginTake else s).finish

/-! ### Stops, and the ends of segments and of the take (R268, R270, R276) -/

/-- STOP. -/
def execStop (s : State) : Host.Outcome State Fault Refusal :=
  (s.runCommand 2 (fun c =>
    if s.inTake then
      let t := s.stopTake 2
      let stop := if s.takeState = 1 then 0 else match t.take.last with | none => 0 | some e => 8 * (e.1 + 1)
      t.endCommand c 0 t.takeWord (leBytes 8 s.hiveTime ++ leBytes 8 stop)
    else s.endCommand c 2 0 [])).finish

/-- What every end of a segment at slot `n` brings: the streams close it, SEGMENT records become due, and the segment ended
event is raised (DEDUCED, log entry 71). -/
def State.endSegment (s : State) (n ending : Nat) (final : Bool) : State :=
  let t := if final then s else s.cutMark (8 * (n + 1)) true
  let t := (t.closeStreams ⟨s.segment, n, final⟩).oweSegments n ending
  t.raise .hive 2

/-- The ending of the segment that holds the take's last slot (R297): its own, when that is what ends the take
(DEDUCED, log entry 72). -/
def State.lastEnding (s : State) (reason : Nat) : Nat :=
  match s.take.segLast with
  | some (_, e) => if reason = 1 ∨ reason = 3 then e else 4
  | none => 4

/-- The take's last slot `n` has ended, for a reason. -/
def State.endTake (s : State) (n reason : Nat) : State :=
  let stop := 8 * (n + 1)
  let t := s.settleSeqs.closeRuns stop
  let t := t.endSegment n (s.lastEnding reason) true
  let t := t.supers.foldl (fun t u =>
    if t.storeLost u then
      let r := (sampleStreams u).foldl (fun t i => t.setStream i { t.stream i with present := false }) t
      let x := (r.store u).lossFrom
      let r := r.endStoreLoss u stop
      if u = 0 then r.setStore u { r.store u with lossFrom := x } else r
    else t) t
  let t := t.systemMark (sysRec 0x02 0xF stop reason (t.segment + 1) (t.take.firstTrigger.getD 0)
    (t.getF .hive R.HIVE_TAKE_TRIGS_COUNT))
  let t := (t.learn (n + 1 - t.take.first)).enterStopped reason
  (t.putPair .hive R.HIVE_TAKE_END_LO_TIME R.HIVE_TAKE_END_HI_TIME stop).closeMarks

/-- The segment under way ends before the take does: its last slot and ending. -/
def State.segmentEnding (s : State) : Option (Nat × Nat) :=
  match s.take.segLast with
  | none => none
  | some (n, e) =>
    if s.lastSegment then none
    else match s.take.last with
      | none => some (n, e)
      | some (m, _) => if n < m then some (n, e) else none

/-- SEGMENT_END: the next segment begins, or with the last one the take stops (DEDUCED, log entry 74). -/
def execSegmentEnd (s : State) : Host.Outcome State Fault Refusal :=
  (match s.segmentEnding with
    | some (n, e) =>
      if s.taking then ((s.advanceTo (8 * (n + 1))).endSegment n e false).nextSegment n else s
    | none =>
      match s.take.segLast, s.take.last with
      | some _, some (m, r) =>
        if s.taking && s.lastSegment then (s.advanceTo (8 * (m + 1))).endTake m r else s
      | _, _ => s).finish

/-- TAKE_LAST_SLOT. -/
def execTakeLastSlot (s : State) : Host.Outcome State Fault Refusal :=
  (match s.segmentEnding, s.take.last with
    | none, some (n, r) => if s.taking then (s.advanceTo (8 * (n + 1))).endTake n r else s
    | _, _ => s).finish

/-- The SEGMENT record of the oldest segment that super `u` owes is written once its blocks have reached DRAM (R297). -/
def State.writeSegment (s : State) (u : Nat) : State :=
  let x := s.store u
  match x.owed with
  | [] => s
  | o :: rest =>
    if s.pendingBlocks u o.segment then s
    else
      let p := x.part o.segment
      ((s.setStore u { x with owed := rest }).systemMark
        (sysRec 0x04 u o.time o.ending o.segment (oldestKept o.kept p) p.next)).closeMarks

/-- SEGMENT_RECORD of super `u` (DEDUCED, log entry 73). -/
def execSegmentRecord (u : Nat) (s : State) : Host.Outcome State Fault Refusal :=
  if u < s.fuse.part.supers then (s.writeSegment u).finish else .next s

/-! ### Cuts and holes (R289, R293, R298) -/

/-- The M stream's open block is full while a record waits for it, or as long as a span may be. -/
def State.cutMarkDue (s : State) : State :=
  let x := s.stream .mark
  let long := x.first + longestSpan .mark < s.hiveTime
  let full := decide (markCapacity ≤ x.marks.length) && !s.take.system.isEmpty
  if x.present ∧ (long ∨ full) then
    s.cutMarkAt (min s.hiveTime (x.first + longestSpan .mark)) false
  else s

/-- BLOCK_CUT of a stream whose data up to `tick` does not go into one block. `fit` is the number of raw words whose coded
form still fits, for a stream that is coded (DESIGN CHOICE, log entry 76). -/
def execBlockCut (i : StreamId) (tick fit : Nat) (s : State) : Host.Outcome State Fault Refusal :=
  (let x := s.stream i
   if x.present && x.hole.isNone then
    match i with
    | .mark => s.cutMarkDue
    | .frame u f =>
      let t := s.catchUp u f
      let r := t.cutFrame u f (max 8 fit) (max (t.stream i).first (min (tick / 8 * 8) (8 * (t.frame u f).next))) false
      if r.1 || (r.2.stream i).first == (t.stream i).first then t else r.2
    | .scout u =>
      let t := s.formTo u (s.formBound u)
      let r := t.cutScout u (max 32 fit) (max (t.stream i).first (min tick (t.stream i).formed)) false
      if r.1 || (r.2.stream i).first == (t.stream i).first then t else r.2
   else s).finish

/-- The first tick that the stream's builder has still to take in. -/
def State.builderAt (s : State) : StreamId → Nat
  | .frame u f => 8 * (s.frame u f).next
  | .scout u => (s.stream (.scout u)).formed
  | .mark => 0

/-- HOLE_END: a hole that is a loss ends at `tick`, slot 0 of a beat that the builder has not passed, while intake runs
(DEDUCED, log entry 77). -/
def execHoleEnd (i : StreamId) (tick : Nat) (s : State) : Host.Outcome State Fault Refusal :=
  (match (s.stream i).hole with
    | some (h, false) =>
      if (s.stream i).present && tick % 32 == 0 && decide (h ≤ tick) && decide (s.builderAt i ≤ tick)
          && !s.stopped.any (fun e => e.1 == streamSuper i) then
        s.holeEnd i tick
      else s
    | _ => s).finish

/-- STORE_LOSS: the store of super `u` can be written again from `tick` on. What its streams held from before is lost,
and on S0 the mark records of that time with it (R295) (DEDUCED, log entry 75). -/
def execStoreLoss (u tick : Nat) (s : State) : Host.Outcome State Fault Refusal :=
  (match (s.store u).lossFrom with
    | some (a, _) =>
      if s.taking && a < tick && !s.storeDisabled u then
        let t := s.advanceTo tick
        let t := (t.catchUpAll u).formTo u (t.formBound u)
        let t := (sampleStreams u).foldl (fun (t : State) i =>
          let x := t.stream i
          if x.present && x.hole.isNone && decide (x.first < tick) then t.cutAll i tick false (x.size tick) else t) t
        let t := if u = 0 then t.flushSystem.cutMark tick false else t
        t.endStoreLoss u tick
      else s
    | none => s).finish

/-- M_BLOCK_AGE: the oldest record of the open M block has waited HIVE_TAKE_MARK.AGE_US, 0 acting as 1 (R298). -/
def execMBlockAge (s : State) : Host.Outcome State Fault Refusal :=
  (let x := s.stream .mark
   if x.present && !x.marks.isEmpty then
    let t := s.advanceTo (x.markSince + max 1 (s.getF .hive R.HIVE_TAKE_MARK_AGE_US) * ticksPerUs)
    t.cutMark t.hiveTime false
   else s).finish

end Sys2Proof.Machine
end

