-- ==== Sys2Proof/Machine/Dispatch.lean ====
section
/-!
DEFINITION. The dispatch: one arm per constructor of `Instr`, each a direct call of the command's meaning.
-/
namespace Sys2Proof.Machine

def exec (i : Instr) (s : State) : Host.Outcome State Fault Refusal :=
  match i with
  | .registerWrite off bytes poisoned => Sys2Proof.Machine.execRegisterWrite off bytes poisoned s
  | .pageReset p => Sys2Proof.Machine.execPageReset p s
  | .commit p => Sys2Proof.Machine.execCommit p s
  | .discard p => Sys2Proof.Machine.execDiscard p s
  | .shadowApply p => Sys2Proof.Machine.execShadowApply p s
  | .partialApply p => Sys2Proof.Machine.execPartialApply p s
  | .evForce p bits => Sys2Proof.Machine.execEvForce p bits s
  | .windowWrite off bytes poisoned flaws => Sys2Proof.Machine.execWindowWrite off bytes poisoned flaws s
  | .bitSetAliasWrite off bytes poisoned flaws => Sys2Proof.Machine.execBitSetAliasWrite off bytes poisoned flaws s
  | .bitClearAliasWrite off bytes poisoned flaws => Sys2Proof.Machine.execBitClearAliasWrite off bytes poisoned flaws s
  | .windowRead off len flaws => Sys2Proof.Machine.execWindowRead off len flaws s
  | .load => Sys2Proof.Machine.execLoad s
  | .hiveTimeLoad => Sys2Proof.Machine.execHiveTimeLoad s
  | .turnMark tick => Sys2Proof.Machine.execTurnMark tick s
  | .sscChange p => Sys2Proof.Machine.execSscChange p s
  | .pllLock p cycles => Sys2Proof.Machine.execPllLock p cycles s
  | .timeAlignMessage u sent => Sys2Proof.Machine.execTimeAlignMessage u sent s
  | .refLost p => Sys2Proof.Machine.execRefLost p s
  | .lockLost p => Sys2Proof.Machine.execLockLost p s
  | .coastLimit p => Sys2Proof.Machine.execCoastLimit p s
  | .refReturn p small => Sys2Proof.Machine.execRefReturn p small s
  | .resumeTry p small => Sys2Proof.Machine.execResumeTry p small s
  | .intakeResume u => Sys2Proof.Machine.execIntakeResume u s
  | .linkRetry u f => Sys2Proof.Machine.execLinkRetry u f s
  | .blockLock u f lane => Sys2Proof.Machine.execBlockLock u f lane s
  | .status u f lane payload => Sys2Proof.Machine.execStatus u f lane payload s
  | .replyTimeout u f => Sys2Proof.Machine.execReplyTimeout u f s
  | .marker u f lane slot pos laneId mode phase tick => Sys2Proof.Machine.execMarker u f lane slot pos laneId mode phase tick s
  | .dataBlock u f lane beat payload syncError => Sys2Proof.Machine.execDataBlock u f lane beat payload syncError s
  | .typeError u f lane => Sys2Proof.Machine.execTypeError u f lane s
  | .idle u f lane => Sys2Proof.Machine.execIdle u f lane s
  | .linkUpAbandon u f => Sys2Proof.Machine.execLinkUpAbandon u f s
  | .laneLoss u f lane cause => Sys2Proof.Machine.execLaneLoss u f lane cause s
  | .laneRetrainRetry u f => Sys2Proof.Machine.execLaneRetrainRetry u f s
  | .podCmdSend u f => Sys2Proof.Machine.execPodCmdSend u f s
  | .lateSlot u f => Sys2Proof.Machine.execLateSlot u f s
  | .settlingEnd u k => Sys2Proof.Machine.execSettlingEnd u k s
  | .scoutTransition u k tick level => Sys2Proof.Machine.execScoutTransition u k tick level s
  | .resume u k => Sys2Proof.Machine.execResume u k s
  | .counterWrap u f => Sys2Proof.Machine.execCounterWrap u f s
  | .counterReload u f => Sys2Proof.Machine.execCounterReload u f s
  | .timerHit u f => Sys2Proof.Machine.execTimerHit u f s
  | .operationEffect u f => Sys2Proof.Machine.execOperationEffect u f s
  | .superExit u => Sys2Proof.Machine.execSuperExit u s
  | .markForward => Sys2Proof.Machine.execMarkForward s
  | .hiveExit => Sys2Proof.Machine.execHiveExit s
  | .trigOutPulseEnd n => Sys2Proof.Machine.execTrigOutPulseEnd n s
  | .hiveTimerHit => Sys2Proof.Machine.execHiveTimerHit s
  | .trig => Sys2Proof.Machine.execTrig s
  | .trigIn pin tick level => Sys2Proof.Machine.execTrigIn pin tick level s
  | .waggleLost u outbound beat => Sys2Proof.Machine.execWaggleLost u outbound beat s
  | .waggleWireFail link => Sys2Proof.Machine.execWaggleWireFail link s
  | .clockPairFail link => Sys2Proof.Machine.execClockPairFail link s
  | .arm => Sys2Proof.Machine.execArm s
  | .takeFirstSlot => Sys2Proof.Machine.execTakeFirstSlot s
  | .stop => Sys2Proof.Machine.execStop s
  | .takeLastSlot => Sys2Proof.Machine.execTakeLastSlot s
  | .segmentEnd => Sys2Proof.Machine.execSegmentEnd s
  | .segmentRecord u => Sys2Proof.Machine.execSegmentRecord u s
  | .blockCut stream tick fit => Sys2Proof.Machine.execBlockCut stream tick fit s
  | .holeEnd stream tick => Sys2Proof.Machine.execHoleEnd stream tick s
  | .storeLoss u tick => Sys2Proof.Machine.execStoreLoss u tick s
  | .mBlockAge => Sys2Proof.Machine.execMBlockAge s
  | .pressBlock u sLane lengths coded flaws => Sys2Proof.Machine.execPressBlock u sLane lengths coded flaws s
  | .queuePush q words left beat => Sys2Proof.Machine.execQueuePush q words left beat s
  | .queuePop q corrected uncorrectable => Sys2Proof.Machine.execQueuePop q corrected uncorrectable s
  | .dramWriterPop u corrected uncorrectable => Sys2Proof.Machine.execDramWriterPop u corrected uncorrectable s
  | .dramAccess u k sub write port piece flaws strobe => Sys2Proof.Machine.execDramAccess u k sub write port piece flaws strobe s
  | .portHeld u k sub port bank => Sys2Proof.Machine.execPortHeld u k sub port bank s
  | .actWindow u k => Sys2Proof.Machine.execActWindow u k s
  | .refresh u k => Sys2Proof.Machine.execRefresh u k s
  | .mr4Read u k code above => Sys2Proof.Machine.execMr4Read u k code above s
  | .powerDown u k sub rank => Sys2Proof.Machine.execPowerDown u k sub rank s
  | .selfRefreshEntry u k => Sys2Proof.Machine.execSelfRefreshEntry u k s
  | .selfRefreshExit u k => Sys2Proof.Machine.execSelfRefreshExit u k s
  | .rhTableClear u k => Sys2Proof.Machine.execRhTableClear u k s
  | .neighbourRefresh u k sub bank row => Sys2Proof.Machine.execNeighbourRefresh u k sub bank row s
  | .scrubRead u k sub flaws => Sys2Proof.Machine.execScrubRead u k sub flaws s
  | .retrain u k => Sys2Proof.Machine.execRetrain u k s
  | .trainingStepDone u k result => Sys2Proof.Machine.execTrainingStepDone u k result s
  | .clearingDone u k => Sys2Proof.Machine.execClearingDone u k s
  | .periodicRetrain u k => Sys2Proof.Machine.execPeriodicRetrain u k s
  | .periodicStepAbandon u k => Sys2Proof.Machine.execPeriodicStepAbandon u k s
  | .frequencyChangeRelease p => Sys2Proof.Machine.execFrequencyChangeRelease p s
  | .alertN u k => Sys2Proof.Machine.execAlertN u k s
  | .commandAcknowledged u k sub => Sys2Proof.Machine.execCommandAcknowledged u k sub s
  | .layoutSwitch u => Sys2Proof.Machine.execLayoutSwitch u s
  | .marchStart u boot mode target => Sys2Proof.Machine.execMarchStart u boot mode target s
  | .marchRetentionWait u => Sys2Proof.Machine.execMarchRetentionWait u s
  | .marchRunDone u fails => Sys2Proof.Machine.execMarchRunDone u fails s
  | .bar2Read off len => Sys2Proof.Machine.execBar2Read off len s
  | .bar2Write off bytes poisoned => Sys2Proof.Machine.execBar2Write off bytes poisoned s
  | .reqMajor major => Sys2Proof.Machine.execReqMajor major s
  | .cmdEnSet => Sys2Proof.Machine.execCmdEnSet s
  | .cmdEnClear => Sys2Proof.Machine.execCmdEnClear s
  | .drnEnSet => Sys2Proof.Machine.execDrnEnSet s
  | .drnEnClear => Sys2Proof.Machine.execDrnEnClear s
  | .cplEnSet => Sys2Proof.Machine.execCplEnSet s
  | .cplEnClear => Sys2Proof.Machine.execCplEnClear s
  | .hostCmdPosted tally => Sys2Proof.Machine.execHostCmdPosted tally s
  | .hostDrnPosted tally => Sys2Proof.Machine.execHostDrnPosted tally s
  | .commandFetch bytes => Sys2Proof.Machine.execCommandFetch bytes s
  | .fetchTimeout drain => Sys2Proof.Machine.execFetchTimeout drain s
  | .nop => Sys2Proof.Machine.execNop s
  | .statusCommand => Sys2Proof.Machine.execStatusCommand s
  | .fence => Sys2Proof.Machine.execFence s
  | .drainAbort => Sys2Proof.Machine.execDrainAbort s
  | .regWrite => Sys2Proof.Machine.execRegWrite s
  | .badOpcode => Sys2Proof.Machine.execBadOpcode s
  | .completionWrite => Sys2Proof.Machine.execCompletionWrite s
  | .hostCplFreed tally => Sys2Proof.Machine.execHostCplFreed tally s
  | .drainDescriptorFetch bytes => Sys2Proof.Machine.execDrainDescriptorFetch bytes s
  | .drainBlock u => Sys2Proof.Machine.execDrainBlock u s
  | .functionLevelReset => Sys2Proof.Machine.execFunctionLevelReset s
  | .hostLinkLoss => Sys2Proof.Machine.execHostLinkLoss s
  | .linkChanged speed width flit reversed => Sys2Proof.Machine.execLinkChanged speed width flit reversed s
  | .busMasterEnable bme d3 => Sys2Proof.Machine.execBusMasterEnable bme d3 s
  | .eventEnqueue origin => Sys2Proof.Machine.execEventEnqueue origin s
  | .eventRingWrite corrected uncorrectable => Sys2Proof.Machine.execEventRingWrite corrected uncorrectable s
  | .irqModExpire vector => Sys2Proof.Machine.execIrqModExpire vector s
  | .recordsLost => Sys2Proof.Machine.execRecordsLost s
  | .holdoffEnd source => Sys2Proof.Machine.execHoldoffEnd source s
  | .eventsEnSet => Sys2Proof.Machine.execEventsEnSet s
  | .eventsEnClear => Sys2Proof.Machine.execEventsEnClear s
  | .eventsFreed tally => Sys2Proof.Machine.execEventsFreed tally s
  | .hello ring sub data tick => Sys2Proof.Machine.execHello ring sub data tick s
  | .leaderElected => Sys2Proof.Machine.execLeaderElected s
  | .form position loopNs => Sys2Proof.Machine.execForm position loopNs s
  | .setup copy tally arg => Sys2Proof.Machine.execSetup copy tally arg s
  | .path copy dest tally arg => Sys2Proof.Machine.execPath copy dest tally arg s
  | .report copy source tally arg => Sys2Proof.Machine.execReport copy source tally arg s
  | .hopMeasure ring => Sys2Proof.Machine.execHopMeasure ring s
  | .timeLaunch => Sys2Proof.Machine.execTimeLaunch s
  | .time copy tally time tick => Sys2Proof.Machine.execTime copy tally time tick s
  | .epochGo => Sys2Proof.Machine.execEpochGo s
  | .epoch copy tally count => Sys2Proof.Machine.execEpoch copy tally count s
  | .leaderLost => Sys2Proof.Machine.execLeaderLost s
  | .flagLaunch ring => Sys2Proof.Machine.execFlagLaunch ring s
  | .flag copy body => Sys2Proof.Machine.execFlag copy body s
  | .flagDelivery => Sys2Proof.Machine.execFlagDelivery s
  | .containerReturn loop ring => Sys2Proof.Machine.execContainerReturn loop ring s
  | .hopDown ring cause => Sys2Proof.Machine.execHopDown ring cause s
  | .brk ring => Sys2Proof.Machine.execBrk ring s
  | .unwrap ring => Sys2Proof.Machine.execUnwrap ring s
  | .bypass => Sys2Proof.Machine.execBypass s
  | .bypassClose => Sys2Proof.Machine.execBypassClose s
  | .leave copy source tally => Sys2Proof.Machine.execLeave copy source tally s
  | .mailSend dest argHi => Sys2Proof.Machine.execMailSend dest argHi s
  | .mail copy source dest tally arg => Sys2Proof.Machine.execMail copy source dest tally arg s
  | .periodEnd vin iin energy supers shared tj hottest => Sys2Proof.Machine.execPeriodEnd vin iin energy supers shared tj hottest s
  | .railsOff => Sys2Proof.Machine.execRailsOff s
  | .wearHour => Sys2Proof.Machine.execWearHour s
  | .reeveWearLoad seconds => Sys2Proof.Machine.execReeveWearLoad seconds s
  | .trainingSlotGrant u k => Sys2Proof.Machine.execTrainingSlotGrant u k s
  | .overVoltage => Sys2Proof.Machine.execOverVoltage s
  | .overCurrent => Sys2Proof.Machine.execOverCurrent s
  | .railFault rail => Sys2Proof.Machine.execRailFault rail s
  | .vinHigh => Sys2Proof.Machine.execVinHigh s
  | .phaseDropped u phase => Sys2Proof.Machine.execPhaseDropped u phase s
  | .vstbyLost => Sys2Proof.Machine.execVstbyLost s
  | .uvlo => Sys2Proof.Machine.execUvlo s
  | .boardApply => Sys2Proof.Machine.execBoardApply s
  | .frameStart => Sys2Proof.Machine.execFrameStart s
  | .edpTrainRetry port => Sys2Proof.Machine.execEdpTrainRetry port s
  | .laneStatusPoll port lost => Sys2Proof.Machine.execLaneStatusPoll port lost s
  | .lineBufferFetch => Sys2Proof.Machine.execLineBufferFetch s
  | .underrun line pixel => Sys2Proof.Machine.execUnderrun line pixel s
  | .lowered => Sys2Proof.Machine.execLowered s
  | .te input rising tick => Sys2Proof.Machine.execTe input rising tick s
  | .teMiss => Sys2Proof.Machine.execTeMiss s
  | .frameCrc readA readB => Sys2Proof.Machine.execFrameCrc readA readB s
  | .auxGo port kind lenM1 addr => Sys2Proof.Machine.execAuxGo port kind lenM1 addr s
  | .auxDone result bytes => Sys2Proof.Machine.execAuxDone result bytes s
  | .painterColumn k => Sys2Proof.Machine.execPainterColumn k s
  | .coldStart byVin straps => Sys2Proof.Machine.execColdStart byVin straps s
  | .pwrOk => Sys2Proof.Machine.execPwrOk s
  | .patchCheck copyA pseqA copyB pseqB => Sys2Proof.Machine.execPatchCheck copyA pseqA copyB pseqB s
  | .resetNAssert => Sys2Proof.Machine.execResetNAssert s
  | .resetNRelease straps => Sys2Proof.Machine.execResetNRelease straps s
  | .vinReturn straps => Sys2Proof.Machine.execVinReturn straps s
  | .perstNAssert => Sys2Proof.Machine.execPerstNAssert s
  | .perstNPageReset => Sys2Proof.Machine.execPerstNPageReset s
  | .perstNRelease => Sys2Proof.Machine.execPerstNRelease s
  | .soft key => Sys2Proof.Machine.execSoft key s
  | .sidebandLoss u beat => Sys2Proof.Machine.execSidebandLoss u beat s
  | .dieLaneFail link back => Sys2Proof.Machine.execDieLaneFail link back s
  | .laneRepairDone link back => Sys2Proof.Machine.execLaneRepairDone link back s
  | .smbusPointerWrite addr pointer pecGood => Sys2Proof.Machine.execSmbusPointerWrite addr pointer pecGood s
  | .smbusBlockRead addr => Sys2Proof.Machine.execSmbusBlockRead addr s
  | .tapInstruction test => Sys2Proof.Machine.execTapInstruction test s
  | .registerRead off len => Sys2Proof.Machine.execRegisterRead off len s
  | .alertNRelease u k => Sys2Proof.Machine.execAlertNRelease u k s
  | .vinLow => Sys2Proof.Machine.execVinLow s
  | .vstbyReturn => Sys2Proof.Machine.execVstbyReturn s
  | .trstN low => Sys2Proof.Machine.execTrstN low s
  | .waggleFlagsReceivedAgain u outbound tick => Sys2Proof.Machine.execWaggleFlagsReceivedAgain u outbound tick s
  | .edpTrainingDone port good => Sys2Proof.Machine.execEdpTrainingDone port good s
  | .trainingSlotEnd u k => Sys2Proof.Machine.execTrainingSlotEnd u k s

end Sys2Proof.Machine
end

