-- ==== Sys2Proof/Machine/Idle.lean ====
section
/-!
DEFINITION. What the hive does when no command waits: one beat of 2.5 ns passes.
-/
namespace Sys2Proof.Machine

/-- Frames take the slots that have reached them, recorders form what is old enough, and the sequencers go on to their next
exit. -/
def State.settleBeat (s : State) : State :=
  let t := s.supers.foldl (fun (t : State) u => (t.catchUpAll u).formTo u (t.formBound u)) s
  t.settleSeqs

/-- A beat without a command: hive time goes on once it runs, samples and flags of old beats are worked on, and one system
record enters the open M block (DESIGN CHOICE, log entry 4). -/
def State.idle (s : State) : State :=
  if s.timeRuns then
    let t := (s.tick 32).settleBeat
    (if (t.stream .mark).present then t.drainSystem else t).closeMarks.settleHolds
  else s

end Sys2Proof.Machine
end

