-- ==== Sys2Proof/Safety.lean ====
section
/-!
DEFINITION. What a sound state of the hive is, in the terms that the statements use: every table of registers, units and
memory is in its one canonical form, and every copy of hive time fits 64 bits.
-/
namespace Sys2Proof.Machine

/-- The canonical form of a memory whose unlisted addresses read as `d`: addresses strictly rising, and no listed byte that
an unlisted address would read. -/
def Memory.wf (d : Nat → Byte) (m : List Host.Cell) : Bool := canonical d m

/-- On-chip memory and DRAM are in canonical form. -/
def State.memoryWf (s : State) : Bool := Memory.wf s.sramDefault s.sram && Memory.wf s.dramDefault s.dram

/-- The register file: active and shadow words in canonical form against the reset words, no high word latched or held
twice. -/
def State.registersWf (s : State) : Bool :=
  canonical (resetWord s.fuse) s.act && canonical (resetWord s.fuse) s.shd && sorted s.latched && sorted s.held

/-- Every table of units is in canonical form: a unit at its reset contents is not listed. -/
def State.unitsWf (s : State) : Bool :=
  canonical (fun _ => PllSt.reset) s.plls && canonical (fun _ => PodSt.reset) s.pods
    && canonical (fun _ => FrameSt.reset) s.frames && canonical (fun _ => ScoutSt.reset) s.scouts
    && canonical (fun _ => SeqSt.reset) s.seqs && canonical (fun _ => StreamSt.reset) s.streams
    && canonical (fun _ => StoreSt.reset) s.stores && canonical (fun _ => SideSt.reset) s.sides
    && canonical (fun _ => QueueSt.reset) s.queues && canonical (fun _ => SramSt.reset) s.srams
    && canonical (fun _ => ChanSt.reset) s.chans && canonical (fun _ => DieSt.reset) s.dies
    && canonical (fun _ => 0) s.sramEpoch && canonical (fun _ => 0) s.dramEpoch

/-- Hive time, and every super's copy of it, fits 64 bits (R78). -/
def State.timeWf (s : State) : Bool :=
  decide (s.hiveTime < timeModulus) && s.superTime.all (fun e => decide (e.2 < timeModulus))

/-- A sound state. -/
def State.Sound (s : State) : Prop :=
  s.registersWf = true ∧ s.unitsWf = true ∧ s.memoryWf = true ∧ s.timeWf = true

/-- The kinds of state that the hive holds beside its part and its queue of commands. -/
inductive StateKind where
  | registers | time | intake | plls | pods | frames | scouts | sequencers | take | streams | stores
  | events | host | triggers | sidebands | ring | queues | sram | march | dram | channels | board | reeve
  | boot | dies | ports | sent
deriving DecidableEq, Repr

/-- Two states hold the same of a kind. -/
def State.same (s t : State) : StateKind → Prop
  | .registers => t.act = s.act ∧ t.shd = s.shd ∧ t.latched = s.latched ∧ t.held = s.held
  | .time =>
    t.hiveTime = s.hiveTime ∧ t.timeRuns = s.timeRuns ∧ t.superTime = s.superTime
      ∧ t.loadWanted = s.loadWanted ∧ t.turnAt = s.turnAt
  | .intake => t.stopped = s.stopped
  | .plls => t.plls = s.plls
  | .pods => t.pods = s.pods
  | .frames => t.frames = s.frames
  | .scouts => t.scouts = s.scouts
  | .sequencers => t.seqs = s.seqs
  | .take => t.take = s.take
  | .streams => t.streams = s.streams
  | .stores => t.stores = s.stores
  | .events => t.ev = s.ev
  | .host => t.busMaster = s.busMaster ∧ t.host = s.host
  | .triggers => t.trigIn = s.trigIn ∧ t.trigOut = s.trigOut
  | .sidebands => t.sides = s.sides
  | .ring => t.afLog = s.afLog ∧ t.afQueue = s.afQueue ∧ t.ring = s.ring
  | .queues => t.queues = s.queues
  | .sram => t.sram = s.sram ∧ t.sramEpoch = s.sramEpoch
  | .march => t.srams = s.srams
  | .dram => t.dram = s.dram ∧ t.dramEpoch = s.dramEpoch
  | .channels => t.chans = s.chans
  | .board => t.nbTolerance = s.nbTolerance ∧ t.board = s.board
  | .reeve => t.reeve = s.reeve
  | .boot => t.boot = s.boot
  | .dies => t.dies = s.dies
  | .ports => t.ports = s.ports
  | .sent => t.frees = s.frees ∧ t.out = s.out

/-- Every kind but those of a list is as it was. -/
def State.onlyChanges (l : List StateKind) (s t : State) : Prop := ∀ k, k ∉ l → s.same t k

/-- Every kind of state. -/
def everyKind : List StateKind :=
  [.registers, .time, .intake, .plls, .pods, .frames, .scouts, .sequencers, .take, .streams, .stores, .events,
    .host, .triggers, .sidebands, .ring, .queues, .sram, .march, .dram, .channels, .board, .reeve, .boot, .dies,
    .ports, .sent]

/-- The kinds of state that a command may change. -/
def touches : Instr → List StateKind
  | .registerWrite _ _ _ | .regWrite =>
    [.registers, .time, .intake, .plls, .pods, .frames, .scouts, .sequencers, .take, .streams, .stores, .events,
      .host, .triggers, .sidebands, .ring, .queues, .sram, .march, .dram, .channels, .board, .reeve, .boot, .sent]
  | .pageReset _ | .perstNPageReset | .soft _ =>
    [.registers, .time, .intake, .plls, .pods, .frames, .scouts, .sequencers, .take, .streams, .stores, .events,
      .host, .triggers, .sidebands, .ring, .queues, .sram, .march, .dram, .channels, .board, .boot, .sent]
  | .commit _ | .discard _ => [.registers, .plls, .board]
  | .shadowApply _ =>
    [.registers, .pods, .frames, .scouts, .streams, .stores, .events, .ring, .queues, .dram, .channels, .board,
      .sent]
  | .partialApply _ | .reqMajor _ | .cplEnSet | .hostCplFreed _ | .eventsEnClear => [.registers]
  | .evForce _ _ | .waggleWireFail _ | .hostCmdPosted _ | .hostDrnPosted _ | .fetchTimeout _ | .eventsEnSet
    | .eventsFreed _ | .vinHigh | .vinLow => [.registers, .events, .sent]
  | .windowWrite _ _ _ _ | .bitSetAliasWrite _ _ _ _ | .bitClearAliasWrite _ _ _ _ | .windowRead _ _ _ =>
    [.registers, .events, .sram, .march, .sent]
  | .load => [.registers, .time]
  | .hiveTimeLoad => [.time, .pods, .frames]
  | .turnMark _ => [.registers, .time, .take]
  | .sscChange _ => [.registers, .plls]
  | .pllLock _ _ =>
    [.registers, .time, .intake, .plls, .pods, .frames, .scouts, .take, .streams, .stores, .events, .sram, .march,
      .dram, .channels, .board, .boot, .sent]
  | .timeAlignMessage _ _ =>
    [.registers, .time, .plls, .take, .stores, .events, .sram, .march, .dram, .channels, .board, .boot, .sent]
  | .refLost _ | .refReturn _ _ | .resumeTry _ _ =>
    [.registers, .intake, .plls, .pods, .frames, .scouts, .streams, .stores, .events, .channels, .sent]
  | .lockLost _ => [.registers, .plls, .events, .channels, .sent]
  | .coastLimit _ => [.registers, .time, .intake, .pods, .frames, .scouts, .streams, .stores, .events, .sent]
  | .intakeResume _ =>
    [.registers, .time, .intake, .pods, .frames, .scouts, .sequencers, .take, .streams, .stores, .events, .triggers,
      .ring, .sent]
  | .linkRetry _ _ | .marker _ _ _ _ _ _ _ _ _ | .dataBlock _ _ _ _ _ _ | .linkUpAbandon _ _
    | .laneRetrainRetry _ _ | .lateSlot _ _ | .settlingEnd _ _ | .scoutTransition _ _ _ _ | .resume _ _
    | .superExit _ | .hiveExit | .hiveTimerHit | .flagDelivery =>
    [.registers, .time, .pods, .frames, .scouts, .sequencers, .take, .streams, .stores, .events, .triggers, .ring,
      .sent]
  | .blockLock _ _ _ | .status _ _ _ _ | .replyTimeout _ _ | .typeError _ _ _ | .idle _ _ _ | .laneLoss _ _ _ _
    | .podCmdSend _ _ | .counterWrap _ _ | .counterReload _ _ | .timerHit _ _ | .operationEffect _ _ =>
    [.registers, .pods, .frames, .scouts, .sequencers, .take, .streams, .stores, .events, .triggers, .ring, .sent]
  | .markForward => [.registers, .time, .sequencers, .take, .streams, .stores]
  | .trigOutPulseEnd _ => [.registers, .time, .triggers, .sent]
  | .trig => [.take]
  | .trigIn _ _ _ => [.time, .triggers]
  | .waggleLost _ _ _ => [.registers, .plls, .take, .events, .sidebands, .ring, .sent]
  | .clockPairFail _ => [.registers, .plls, .take, .events, .ring, .sent]
  | .arm =>
    [.registers, .intake, .pods, .frames, .scouts, .take, .streams, .stores, .events, .host, .ring, .queues, .dram,
      .channels, .board, .reeve, .sent]
  | .takeFirstSlot =>
    [.registers, .time, .intake, .scouts, .sequencers, .take, .streams, .stores, .events, .triggers, .ring, .sram,
      .reeve, .sent]
  | .stop => [.registers, .plls, .take, .events, .host, .ring, .sent]
  | .takeLastSlot | .segmentEnd =>
    [.registers, .time, .plls, .pods, .frames, .scouts, .sequencers, .take, .streams, .stores, .events, .triggers,
      .sidebands, .ring, .sent]
  | .segmentRecord _ => [.registers, .take, .streams, .stores]
  | .blockCut _ _ _ => [.registers, .pods, .frames, .scouts, .streams, .stores, .events, .sent]
  | .holeEnd _ _ => [.registers, .streams]
  | .storeLoss _ _ => [.registers, .time, .pods, .frames, .scouts, .take, .streams, .stores, .events, .sent]
  | .mBlockAge => [.registers, .time, .streams, .stores]
  | .pressBlock _ _ _ _ _ => [.registers, .streams, .stores, .events, .sent]
  | .queuePush _ _ _ _ => [.registers, .streams, .stores, .events, .queues, .sram, .channels, .sent]
  | .queuePop _ _ _ => [.registers, .stores, .events, .queues, .channels, .sent]
  | .dramWriterPop _ _ _ => [.registers, .take, .stores, .events, .host, .queues, .channels, .sent]
  | .dramAccess _ _ _ _ _ _ _ _ | .scrubRead _ _ _ _ =>
    [.registers, .stores, .events, .host, .queues, .dram, .channels, .board, .sent]
  | .portHeld _ _ _ _ _ | .refresh _ _ | .mr4Read _ _ _ _ | .bar2Read _ _ | .alertNRelease _ _ =>
    [.registers, .events, .channels, .sent]
  | .actWindow _ _ => [.registers, .time, .channels]
  | .powerDown _ _ _ _ | .selfRefreshExit _ _ | .neighbourRefresh _ _ _ _ _ => [.registers, .channels, .sent]
  | .selfRefreshEntry _ _ | .leaderElected => [.registers, .time, .sent]
  | .rhTableClear _ _ | .periodicRetrain _ _ | .periodicStepAbandon _ _ | .commandAcknowledged _ _ _
    | .trainingSlotEnd _ _ => [.registers, .channels]
  | .retrain _ _ => [.registers, .stores, .events, .dram, .channels, .board, .sent]
  | .trainingStepDone _ _ _ =>
    [.registers, .plls, .stores, .events, .queues, .sram, .march, .dram, .channels, .board, .boot, .sent]
  | .clearingDone _ _ | .marchRunDone _ _ =>
    [.registers, .stores, .events, .queues, .sram, .march, .dram, .channels, .board, .boot, .sent]
  | .frequencyChangeRelease _ => [.registers, .plls, .channels]
  | .alertN _ _ => [.registers, .stores, .events, .queues, .dram, .channels, .board, .sent]
  | .layoutSwitch _ => [.registers, .take, .stores, .events, .dram, .channels, .board, .sent]
  | .marchStart _ _ _ _ | .marchRetentionWait _ => [.registers, .march]
  | .bar2Write _ _ _ => [.registers, .stores, .events, .channels, .board, .sent]
  | .cmdEnSet | .cmdEnClear | .cplEnClear | .pwrOk => [.registers, .host]
  | .drnEnSet | .drnEnClear | .commandFetch _ | .nop | .statusCommand | .fence | .drainAbort | .badOpcode
    | .completionWrite | .functionLevelReset | .hostLinkLoss | .linkChanged _ _ _ _ | .busMasterEnable _ _ =>
    [.registers, .events, .host, .sent]
  | .drainDescriptorFetch _ | .drainBlock _ => [.registers, .events, .host, .channels, .sent]
  | .eventEnqueue _ | .recordsLost => [.registers, .events, .queues, .sram, .sent]
  | .eventRingWrite _ _ => [.registers, .events, .queues, .sent]
  | .irqModExpire _ => [.registers, .time, .events, .sent]
  | .holdoffEnd _ => [.time, .events]
  | .hello _ _ _ _ | .time _ _ _ _ => [.registers, .time, .events, .ring, .sent]
  | .form _ _ | .setup _ _ _ | .path _ _ _ _ | .report _ _ _ _ | .flag _ _ | .containerReturn _ _ | .hopDown _ _
    | .brk _ | .unwrap _ | .leave _ _ _ | .mail _ _ _ _ _ => [.registers, .events, .ring, .sent]
  | .hopMeasure _ | .timeLaunch => [.ring, .sent]
  | .epochGo | .flagLaunch _ | .bypass | .mailSend _ _ => [.registers, .ring, .sent]
  | .epoch _ _ _ => [.registers, .time, .pods, .frames, .events, .ring, .sent]
  | .leaderLost | .bypassClose => [.registers, .time, .ring]
  | .periodEnd _ _ _ _ _ _ _ => [.registers, .plls, .take, .events, .ring, .reeve, .boot, .sent]
  | .railsOff | .vstbyLost | .uvlo | .coldStart _ _ | .resetNAssert => everyKind
  | .wearHour | .phaseDropped _ _ => [.registers, .events, .reeve, .sent]
  | .reeveWearLoad _ => [.registers, .reeve]
  | .trainingSlotGrant _ _ => [.registers, .take, .channels]
  | .overVoltage | .overCurrent | .railFault _ | .perstNAssert =>
    [.registers, .plls, .take, .events, .ring, .boot, .sent]
  | .boardApply | .frameCrc _ _ => [.registers, .time, .plls, .events, .board, .sent]
  | .frameStart | .laneStatusPoll _ _ | .underrun _ _ | .teMiss => [.registers, .time, .events, .board, .sent]
  | .edpTrainRetry _ | .te _ _ _ => [.registers, .time, .board]
  | .lineBufferFetch => [.registers, .time, .stores, .events, .queues, .dram, .channels, .board, .sent]
  | .lowered | .auxDone _ _ => [.registers, .board]
  | .auxGo _ _ _ _ => [.registers, .board, .sent]
  | .painterColumn _ =>
    [.registers, .time, .pods, .frames, .scouts, .sequencers, .take, .streams, .stores, .events, .triggers, .ring,
      .board, .sent]
  | .patchCheck _ _ _ _ => [.registers, .stores, .events, .sram, .march, .dram, .channels, .board, .boot, .sent]
  | .resetNRelease _ | .vinReturn _ => [.registers, .reeve, .boot]
  | .perstNRelease => [.registers, .host, .boot]
  | .sidebandLoss _ _ => [.registers, .time, .pods, .frames, .scouts, .streams, .stores, .events, .boot, .sent]
  | .dieLaneFail _ _ => [.registers, .plls, .take, .events, .ring, .dies, .sent]
  | .laneRepairDone _ _ => [.dies]
  | .smbusPointerWrite _ _ _ | .trstN _ => [.ports]
  | .smbusBlockRead _ | .tapInstruction _ => [.ports, .sent]
  | .registerRead _ _ => [.registers, .events, .sram, .march, .channels, .board, .sent]
  | .vstbyReturn => [.registers, .boot]
  | .waggleFlagsReceivedAgain _ _ _ => [.registers, .take, .sidebands]
  | .edpTrainingDone _ _ => [.registers, .events, .board, .sent]

/-! ### Registers that statements leave out -/

/-- The addresses of the pending bits of MSI-X. -/
def pendingWord (a : Nat) : Bool := decide (0x3380 ≤ a) && decide (a < 0x3388)

/-- The addresses of words that a raise may write: STICKY and COUNT of some page, those of the link bank, and the pending bits
of MSI-X. -/
def eventWord (a : Nat) : Bool :=
  a % 0x1000 == 0x014 || (decide (0x020 ≤ a % 0x1000) && decide (a % 0x1000 < 0x040))
    || (decide (0x4244 ≤ a) && decide (a < 0x4290)) || pendingWord a

/-- The addresses of words that show and count the HOLD outputs. -/
def holdWordAt (a : Nat) : Bool := decide (0x244 ≤ a) && decide (a < 0x258)

/-- Every word of the active copy keeps its value, but those at the addresses of a list and those that show and count the HOLD
outputs. -/
def State.keepsWords (l : List Nat) (s t : State) : Prop :=
  ∀ a, a ∉ l → holdWordAt a = false → t.word a = s.word a

/-- As `keepsWords`, where a source of a page has been raised: the words of its page that a raise may write, and the pending bits of
MSI-X, may have changed too. -/
def State.keepsWordsRaising (p : Page) (l : List Nat) (s t : State) : Prop :=
  ∀ a, a ∉ l → holdWordAt a = false → pendingWord a = false → ¬ (eventWord a = true ∧ a / 0x1000 = pageBase p / 0x1000) →
    t.word a = s.word a

/-- Every shadow word keeps its value, but those at the offsets of a list. -/
def State.keepsShadows (l : List Nat) (s t : State) : Prop := ∀ a, a ∉ l → t.shadow a = s.shadow a

/-- A host write of the register at offset `o` of a page, other than a header register, sets off nothing beside what it
stores, and no value of it is out of range. -/
def plainRegister (p : Page) (o : Nat) : Bool :=
  decide (0x100 ≤ o) && decide (o < 0x800) && o % 4 == 0 && match p with
  | .hive => !holdWordAt o && o != 0x260
  | .host => decide (o < 0x400) && !pendingWord (0x3000 + o) && !(o == 0x108 || o == 0x114 || o == 0x150 || o == 0x160)
  | .events =>
    !eventWord (0x4000 + o) && !(o == 0x10C || o == 0x110 || o == 0x248 || o == 0x24C)
      && !(decide (0x120 ≤ o) && decide (o < 0x220))
  | .ring => !(o == 0x100 || o == 0x104 || o == 0x138 || o == 0x140)
  | .board => o != 0x1A8
  | .reeve => !(o == 0x100 || o == 0x104 || o == 0x134)
  | .ivr => o != 0x10C
  | .pll i => o != 0x10C && (i != 0 || o != 0x218)
  | .spll _ _ => o != 0x10C
  | .hseq => o != 0x104
  | .press _ => o != 0x108
  | .pod _ _ => o != 0x134
  | .dram _ _ => o != 0x114 && o != 0x200
  | .sram _ => o != 0x100
  | .frame _ _ | .scout _ _ | .sseq _ | .waggle _ | .queue _ _ | .hqueue _ => true

/-- The register at offset `o` of a page has taken the word `w` that the host wrote (R16, R61): in the current copy the direct
RW bits are those of `w` and W1C bits written 1 are 0, in the shadow the shadowed RW bits are those of `w`, and every other
bit is as it was. -/
def State.tookWord (s t : State) (p : Page) (o : Nat) (w : Word) : Prop :=
  ∀ i, i < 32 →
    (t.word (pageBase p + o)).getLsbD i =
        (if (w1cMask p o).getLsbD i && w.getLsbD i then false
         else if (rwMask p o).getLsbD i && !(shadowMask p o).getLsbD i then w.getLsbD i
         else (s.word (pageBase p + o)).getLsbD i)
      ∧ (t.shadow (pageBase p + o)).getLsbD i =
        (if (rwMask p o).getLsbD i && (shadowMask p o).getLsbD i then w.getLsbD i
         else (s.shadow (pageBase p + o)).getLsbD i)

/-- The register at offset `o` of a page is not brought to date when it is read: it shows what it holds. -/
def heldRegister (p : Page) (o : Nat) : Bool :=
  match p with
  | .hive => !(o == 0x268 || o == 0x244)
  | .pll i => o != R.PLL_STATUS_STATE.off && (i != 0 || !(o == 0x208 || o == 0x20C))
  | .spll _ _ => o != R.PLL_STATUS_STATE.off
  | .scout _ _ => o != 0x114
  | .dram _ _ => o != 0x114 && o != 0x12C
  | .sram _ => o != 0x104
  | .host => o != 0x114
  | .reeve | .board => false
  | .events => o != 0x00C
  | .ring | .ivr | .hseq | .hqueue _ | .frame _ _ | .pod _ _ | .sseq _ | .press _ | .queue _ _ | .waggle _ => true

/-- `v` is what a read of the register at offset `o` returns (R16, R61): bits of WO fields as 0, shadowed bits from the shadow, and
the others from the current copy. -/
def State.readsAs (s : State) (p : Page) (o : Nat) (v : Word) : Prop :=
  ∀ i, i < 32 → v.getLsbD i =
    ((readMask p o).getLsbD i &&
      (if (shadowMask p o).getLsbD i then (s.shadow (pageBase p + o)).getLsbD i else (s.word (pageBase p + o)).getLsbD i))

/-- The STICKY bit of source `n` of a page. -/
def State.sticky (s : State) (p : Page) (n : Nat) : Bool := bitOf (s.word (pageBase p + 0x014)).toNat n

/-- A saturating counter of a page has gone up by `n`. -/
def State.counted (s t : State) (p : Page) (f : Fld) (n : Nat) : Prop :=
  t.getF p f = min (s.getF p f + n) (2 ^ (f.hi + 1 - f.lo) - 1)

/-- Start-up is over: the clocks are up, the march runs of step 5 have been started, and steps 6 and 7 are done on every
super. -/
def State.bootOver (s : State) : Prop :=
  s.boot.clocks = true ∧ s.boot.marching = true ∧ s.boot.trainOwed = []

/-- No sequencer runs. -/
def State.seqsIdle (s : State) : Prop := ∀ u, u ≤ 8 → (s.seq u).running = false

/-! ### Commands of the command ring -/

/-- The command `c` stands at the front of the accepted commands and may begin: it has the opcode `op`, known in the active
version, and no reserved bit set; `rest` follows it (R471, R472, R478). -/
def State.commandReady (s : State) (op : Nat) (c : HostCmd) (rest : List HostCmd) : Prop :=
  s.host.accepted = c :: rest ∧ s.host.waiting = [] ∧ s.host.fence = none ∧ c.badTally = false ∧ c.opcode = op
    ∧ s.opcodeKnown op = true ∧ c.clean = true ∧ c.tally < 2 ^ 32 ∧ ∀ d ∈ rest, d.badTally = false

/-- The 32 bytes of a completion (R475). -/
def completionBytes (cseq tally kind status op info : Nat) (result : List Byte) : List Byte :=
  leBytes 4 cseq ++ leBytes 4 tally ++ leBytes 1 kind ++ leBytes 1 status ++ leBytes 1 op ++ leBytes 1 0xA5
    ++ leBytes 4 info ++ padTo 16 0 result

/-- One completion has been produced between two states: it has the next CSEQ, stands in the echo, and waits for the ring while
CPL_EN is 1 (R475, R478, R479). -/
def State.produced (s t : State) (tally kind status op info : Nat) (result : List Byte) (irq : Bool) : Prop :=
  let c := tallyNext (s.getF .host R.HOST_CPL_PRODUCED_SEQ)
  let bytes := completionBytes c tally kind status op info result
  t.getF .host R.HOST_CPL_PRODUCED_SEQ = c
    ∧ (∀ w, w < 8 → t.getF .host (R.HOST_CPL_ECHO_WORD (8 * (c % 8) + w)) = ofLeBytes ((bytes.drop (4 * w)).take 4))
    ∧ t.host.waiting = s.host.waiting ++ (if s.isSet .host R.HOST_RING_CTRL_CPL_EN then [⟨c, bytes, irq, status == 8⟩] else [])

/-- The command `c` has ended with its completion (R472, R477): HOST_CMD_DONE is its tally, and `rest` is next. -/
def State.answers (s t : State) (c : HostCmd) (rest : List HostCmd) (status info : Nat) (result : List Byte) : Prop :=
  s.produced t c.tally 1 status c.opcode info result (bitOf (c.bytes.getD 5 0).toNat 0)
    ∧ t.getF .host R.HOST_CMD_DONE_TALLY = c.tally ∧ t.host.accepted = rest

/-! ### Statements -/

/-- The command is carried out, and the next state has the property. -/
def completes (c : Instr) (s : State) (q : State → Prop) : Prop := ∃ t, exec c s = .next t ∧ q t

/-- The command is carried out: once its own effect is done the state has the property, and what follows from it there, `tail`,
leads to the next state. -/
def completesBefore (tail : State → State) (c : Instr) (s : State) (q : State → Prop) : Prop :=
  ∃ t, exec c s = .next (tail t) ∧ q t

/-- What follows a step of a pod link: its frame takes the slots that have reached it, the sequencers go on, and the HOLD outputs
follow. -/
def State.afterLink (s : State) (u f : Nat) : State := (s.afterPod u f).settleHolds

/-- What follows a step of a frame: it works on the slots that it has evaluated, takes those that have reached it, and the
sequencers and HOLD outputs follow. -/
def State.afterFrame (s : State) (u f : Nat) : State := ((((s.runEval u f).catchUp u f).settleSeqs)).settleHolds

/-- What follows a step of a scout: the recorders of its super form their records as far as their time has come, and the
sequencers and HOLD outputs follow. -/
def State.afterScout (s : State) (u : Nat) : State := ((s.formTo u (s.formBound u)).settleSeqs).settleHolds

end Sys2Proof.Machine
end

