-- ==== Sys2Proof/Certificates/Slice0/Obligations.lean ====
section
/-!
DEFINITION. The statements for the provers: what the rules of the spec say of the hive and of each of its commands, family by
family. `completes c s q` says that command `c` is carried out in state `s` and that the next state has the property `q`.
-/
open Sys2Proof Sys2Proof.Machine

/-! ## The whole machine -/

/-- A step carries out the command at the front of the queue on the state with the queue's rest.
Where the spec leaves it open, the model's own choices count
(log entry 1). -/
def Obligations.StepCarriesOutFrontCommand : Prop :=
  ∀ (c : Instr) (rest : List Instr) (s : State),
    step { s with pending := c :: rest } = exec c { s with pending := rest }

/-- With no command waiting a step is an idle beat: while hive time does not run nothing
changes, and once it runs it moves on by one beat.
Where the spec leaves it open, the model's own choices count
(log entry 4). -/
def Obligations.IdleStepIsOneBeat : Prop :=
  ∀ s : State, s.pending = [] → ∃ t, step s = .next t ∧ t.pending = [] ∧
    (s.timeRuns = false → t = s) ∧ (s.timeRuns = true → t.hiveTime = (s.hiveTime + 32) % 2 ^ 64)

/-- The state right after reset is sound: every table is in canonical form, and hive time fits 64 bits.
Where the spec leaves it open, the model's own choices count
(log entries 5, 6). -/
def Obligations.ResetIsSound : Prop := State.reset.Sound

/-- Every step keeps soundness: the canonical form of the register file, of the tables of units, of on-chip memory and of
DRAM, and timestamps below 2^64 (R78). -/
def Obligations.EveryStepKeepsSoundness : Prop :=
  ∀ s t : State, s.Sound → step s = .next t → t.Sound

/-- A command changes no kind of state but those that `touches` names for it, and neither the part nor the commands that
wait.
Where the spec leaves it open, the model's own choices count
(log entry 3). -/
def Obligations.CommandsChangeOnlyTheirKinds : Prop :=
  ∀ (c : Instr) (s t : State), exec c s = .next t →
    s.onlyChanges (touches c) t ∧ t.fuse = s.fuse ∧ t.pending = s.pending

/-- Every byte of on-chip memory, and every stored byte of DRAM, reads as before after a command that does not store there. -/
def Obligations.BytesChangeOnlyByStores : Prop :=
  ∀ (c : Instr) (s t : State), exec c s = .next t →
    (StateKind.sram ∉ touches c → ∀ u off, t.sramByte u off = s.sramByte u off) ∧
    (StateKind.dram ∉ touches c → ∀ u k sub off, t.dramStored u k sub off = s.dramStored u k sub off)

/-- No command is refused, and none stops but an access beyond the end of its BAR, which PCI Express never routes to the
hive (R50, R71, R452).
Where the spec leaves it open, the model's own choices count
(log entries 3, 7, 94). -/
def Obligations.OnlyAccessesBeyondTheBarStop : Prop :=
  ∀ (c : Instr) (s : State),
    (∀ r, exec c s ≠ .refused r) ∧
    ∀ f, exec c s = .fault f → f = .outsideBar ∧
      match c with
      | .registerWrite off bytes _ => 0x4000000 < off + bytes.length
      | .registerRead off len => 0x4000000 < off + len
      | .windowWrite off bytes _ _ => 0x800000 < off + bytes.length
      | .bitSetAliasWrite off bytes _ _ => 0x800000 < off + bytes.length
      | .bitClearAliasWrite off bytes _ _ => 0x800000 < off + bytes.length
      | .windowRead off len _ => 0x800000 < off + len
      | .bar2Read off len => s.bar2Size < off + len
      | .bar2Write off bytes _ => s.bar2Size < off + bytes.length
      | _ => False

/-! ## Register pages (chapter 02) -/

/-- A write of an aligned word to a register without an effect of its own stores what R16 and R61 say, in the shadow for
shadowed fields, and changes no other register but SHADOW_STATUS.
Where the spec leaves it open, the model's own choices count
(log entries 24, 25, 39). -/
def Obligations.RegisterWriteStoresItsBits : Prop :=
  ∀ (s : State) (p : Page) (o : Nat) (w : Word),
    s.has p = true → plainRegister p o = true → pairLow p o = none →
    (∀ h, pairHigh p o = some h → ∀ v, (pageBase p + h, v) ∉ s.held) →
    completes (.registerWrite (pageBase p + o) (leBytes 4 w.toNat) false) s (fun t =>
      s.tookWord t p o w ∧ s.keepsWords [pageBase p + o, pageBase p + 0x040] t
        ∧ s.keepsShadows [pageBase p + o] t ∧ t.held = s.held ∧ t.latched = s.latched ∧ s.onlyChanges [.registers] t)

/-- Both words of a pair: the high word is held, and nothing shows of it until the low word is written; then both have taken
effect (R69).
A read of the low word of a pair latches the high word, and a following read of the high word returns the latched value
(R69), whatever the register holds by then.
Where the spec leaves it open, the model's own choices count
(log entry 23). -/
def Obligations.RegisterPairsWorkAsOne : Prop :=
  (∀ (s : State) (p : Page) (o h : Nat) (lo hi : Word),
        s.has p = true → plainRegister p o = true → plainRegister p h = true → pairHigh p o = some h →
        completes (.registerWrite (pageBase p + h) (leBytes 4 hi.toNat) false) s (fun t =>
          s.keepsWords [] t ∧ s.keepsShadows [] t ∧ s.onlyChanges [.registers] t
            ∧ completes (.registerWrite (pageBase p + o) (leBytes 4 lo.toNat) false) t (fun v =>
              s.tookWord v p h hi ∧ s.tookWord v p o lo
                ∧ s.keepsWords [pageBase p + h, pageBase p + o, pageBase p + 0x040] v
                ∧ s.keepsShadows [pageBase p + h, pageBase p + o] v)))
  ∧ (∀ (s : State) (p : Page) (o h : Nat),
        s.has p = true → heldRegister p o = true → pairHigh p o = some h → (∀ v, (pageBase p + o, v) ∉ s.latched) →
        completes (.registerRead (pageBase p + o) 4) s (fun t =>
          ∃ v : Word, s.readsAs p h v ∧ ∀ a w, let t' := t.setWord a w
            completes (.registerRead (pageBase p + h) 4) t' (fun u => u.out = .readData (leBytes 4 v.toNat) false :: t.out)))

/-- A read of page space answers the four bytes of the word, even a narrower read (R68), with the fields that R16 and R61
name; at 0x800 above a register it answers the active values of shadowed fields alone. It changes no register.
Where the spec leaves it open, the model's own choices count
(log entries 22, 23, 25, 39). -/
def Obligations.RegisterReadAnswersItsWord : Prop :=
  ∀ (s : State) (p : Page) (o k n : Nat),
    s.has p = true → o % 4 = 0 → o < 0x800 → heldRegister p o = true → 0 < n → k + n ≤ 4 →
    (∀ v, (pageBase p + o, v) ∉ s.latched) →
    completes (.registerRead (pageBase p + o + k) n) s (fun t =>
        (∃ v : Word, s.readsAs p o v ∧ t.out = .readData (leBytes 4 v.toNat) false :: s.out)
          ∧ t.act = s.act ∧ t.shd = s.shd ∧ s.onlyChanges [.registers, .sent] t)
      ∧ ((∀ v, (pageBase p + (o + 0x800), v) ∉ s.latched) →
        completes (.registerRead (pageBase p + (o + 0x800) + k) n) s (fun t =>
          (∃ v : Word, (∀ i, i < 32 → v.getLsbD i = ((readMask p o).getLsbD i && (shadowMask p o).getLsbD i
              && (s.word (pageBase p + o)).getLsbD i))
            ∧ t.out = .readData (leBytes 4 v.toNat) false :: s.out)
            ∧ t.act = s.act ∧ t.shd = s.shd ∧ s.onlyChanges [.registers, .sent] t))

/-- Where no page lies, and at the pages of absent units, reads answer 0 and writes change nothing (R7, R8, R51).
A write to page space that is not made of whole aligned words, or that arrives poisoned, is discarded, counted in
HOST_BAD_BAR0 and raised as the host port's bad-access event (R68, R456).
Where the spec leaves it open, the model's own choices count
(log entry 25). -/
def Obligations.AbsentPagesAndBadWritesChangeNothing : Prop :=
  (∀ (s : State) (a : Nat) (w : Word), a % 4 = 0 → a < windowBase →
        (∀ p, pageAt a = some p → pagePresent s.fuse.part p = false) →
        completes (.registerRead a 4) s (fun t => t = { s with out := .readData [0, 0, 0, 0] false :: s.out })
          ∧ completes (.registerWrite a (leBytes 4 w.toNat) false) s (fun t =>
            s.keepsWords [] t ∧ t.shd = s.shd ∧ s.onlyChanges [.registers] t))
  ∧ (∀ (s : State) (a : Nat) (bytes : List Byte) (poisoned : Bool), a < windowBase → a + bytes.length ≤ bar0Size →
        (poisoned = true ∨ a % 4 ≠ 0 ∨ bytes.length % 4 ≠ 0 ∨ bytes = []) →
        completes (.registerWrite a bytes poisoned) s (fun t =>
          s.counted t .host R.HOST_BAD_BAR0 1 ∧ t.sticky .host 2 = true
            ∧ s.keepsWordsRaising .host [pageBase .host + R.HOST_BAD_BAR0.off] t ∧ t.shd = s.shd
            ∧ s.onlyChanges [.registers, .events, .sent] t))

/-- A page reset (R58, R60, R620): refused on REEVE and IVR pages and, during a take, on the pages that chapters 02 and 19 name,
with RESET_REFUSED set and nothing else changed; else every register of the page from 0x100 on, active and shadow, is at
its reset value, shown here for the blocks whose registers show nothing of their surroundings, and no register of another
page has changed. -/
def Obligations.PageResetIsRefusedOrRestoresReset : Prop :=
  ∀ (s : State) (p : Page), s.has p = true →
    ((p = .reeve ∨ p = .ivr ∨ (s.inTake = true ∧ (dataPage p || heldPage p) = true)) →
      completes (.pageReset p) s (fun t =>
        t.getF p R.PAGE_STATUS_RESET_REFUSED = 1 ∧ s.keepsWords [pageBase p + 0x00C] t ∧ t.shd = s.shd
          ∧ s.onlyChanges [.registers] t))
    ∧ (¬ (s.inTake = true ∧ (dataPage p || heldPage p) = true) →
      (match p with
        | .frame _ _ => True | .scout _ _ => True | .sseq _ => True | .waggle _ => True | .ring => True
        | _ => False) →
      completes (.pageReset p) s (fun t =>
        t.getF p R.PAGE_STATUS_RESET_REFUSED = 0
          ∧ (∀ o, 0x100 ≤ o → o < 0x1000 → t.word (pageBase p + o) = resetWord s.fuse (pageBase p + o)
              ∧ t.shadow (pageBase p + o) = resetWord s.fuse (pageBase p + o))
          ∧ (∀ a, a / 0x1000 ≠ pageBase p / 0x1000 → holdWordAt a = false → t.word a = s.word a ∧ t.shadow a = s.shadow a)
          ∧ (match p with
            | .frame u f => t.frame u f = { FrameSt.reset with next := s.reached }
            | .scout u k => t.scout u k =
              { ScoutSt.reset with level := (s.scout u k).level, recLevel := (s.scout u k).level }
            | .sseq u => t.seq u = .reset
            | .waggle u => t.side u = .reset
            | .ring => t.ring = .reset
            | _ => True)))

/-- COMMIT of a page that applies under R64: outside a take it waits for its apply point, during a take it does not (R64,
R65). DISCARD copies the active values back into the shadow and clears what SHADOW_STATUS and COMMIT show of a change.
An apply outside a take clears COMMIT, COMMIT_WAIT, HELD and LIVE_PENDING; on a page whose chapter refuses no value, and
whose block does nothing further at an apply, every shadowed bit of the active copy is now that of the shadow, every direct
bit is as it was, and APPLY_COUNT has moved on (R62, R64). The partial apply of a COMMIT during a take copies the
live-adjustable fields alone (R65).
Where the spec leaves it open, the model's own choices count
(log entries 28, 42). -/
def Obligations.CommitsAndDiscardsFollowTheShadow : Prop :=
  (∀ (s : State) (p : Page), s.has p = true →
        (plainApply p = true →
          completes (.commit p) s (fun t =>
            t.getF p R.COMMIT_COMMIT = 1
              ∧ t.getF p R.SHADOW_STATUS_COMMIT_WAIT = (if s.inTake then s.getF p R.SHADOW_STATUS_COMMIT_WAIT else 1)
              ∧ s.keepsWords [pageBase p + 0x040, pageBase p + 0x044] t ∧ t.shd = s.shd ∧ s.onlyChanges [.registers] t))
        ∧ completes (.discard p) s (fun t =>
          (∀ o, o < 0x800 → ∀ i, i < 32 → (t.shadow (pageBase p + o)).getLsbD i =
              (if (shadowMask p o).getLsbD i then (s.word (pageBase p + o)).getLsbD i
               else (s.shadow (pageBase p + o)).getLsbD i))
            ∧ t.getF p R.COMMIT_COMMIT = 0 ∧ t.getF p R.SHADOW_STATUS_COMMIT_WAIT = 0 ∧ t.getF p R.SHADOW_STATUS_HELD = 0
            ∧ t.getF p R.SHADOW_STATUS_LIVE_PENDING = 0 ∧ t.getF p R.SHADOW_STATUS_DIRTY = 0
            ∧ s.keepsWords [pageBase p + 0x040, pageBase p + 0x044] t ∧ s.onlyChanges [.registers] t))
  ∧ (∀ (s : State) (p : Page), s.has p = true → plainApply p = true → s.getF p R.COMMIT_COMMIT = 1 →
        (s.getF p R.SHADOW_STATUS_COMMIT_WAIT = 1 →
          completes (.shadowApply p) s (fun t =>
            t.getF p R.COMMIT_COMMIT = 0 ∧ t.getF p R.SHADOW_STATUS_COMMIT_WAIT = 0 ∧ t.getF p R.SHADOW_STATUS_HELD = 0
              ∧ t.getF p R.SHADOW_STATUS_LIVE_PENDING = 0
              ∧ ((match p with
                  | .sseq _ => True | .waggle _ => True | .sram _ => True | .reeve => True | .hive => True
                  | _ => False) →
                (∀ o, 0x100 ≤ o ∨ o = 0x008 → o < 0x800 → holdWordAt (pageBase p + o) = false → ∀ i, i < 32 →
                  (t.word (pageBase p + o)).getLsbD i =
                    (if (shadowMask p o).getLsbD i then (s.shadow (pageBase p + o)).getLsbD i
                     else (s.word (pageBase p + o)).getLsbD i))
                  ∧ t.getF p R.SHADOW_STATUS_DIRTY = 0
                  ∧ t.getF p R.SHADOW_STATUS_APPLY_COUNT = (s.getF p R.SHADOW_STATUS_APPLY_COUNT + 1) % 256
                  ∧ t.shd = s.shd ∧ s.onlyChanges [.registers] t)))
        ∧ (s.getF p R.SHADOW_STATUS_COMMIT_WAIT = 0 →
          completes (.partialApply p) s (fun t =>
            (∀ o, 0x100 ≤ o → o < 0x800 → holdWordAt (pageBase p + o) = false → ∀ i, i < 32 →
                (t.word (pageBase p + o)).getLsbD i =
                  (if (liveMask p o).getLsbD i then (s.shadow (pageBase p + o)).getLsbD i
                   else (s.word (pageBase p + o)).getLsbD i))
              ∧ t.getF p R.COMMIT_COMMIT = 0 ∧ t.getF p R.SHADOW_STATUS_LIVE_PENDING = 0
              ∧ t.getF p R.SHADOW_STATUS_HELD = s.getF p R.SHADOW_STATUS_HELD
              ∧ t.getF p R.SHADOW_STATUS_APPLY_COUNT = (s.getF p R.SHADOW_STATUS_APPLY_COUNT + 1) % 256
              ∧ t.shd = s.shd ∧ s.onlyChanges [.registers] t)))

/-- Each source of a page whose bit is written 1 in FORCE is raised once: its STICKY bit is 1 and its COUNT has gone up; the
other sources, and every register outside events, are as they were (R493, R496). -/
def Obligations.ForcedSourcesAreRaised : Prop :=
  ∀ (s : State) (p : Page) (bits : Nat), s.has p = true →
    completes (.evForce p bits) s (fun t =>
      (∀ n, n < evSources p →
        (t.sticky p n = (s.sticky p n || bitOf bits n)) ∧ s.counted t p (R.EV_COUNT n) (flag (bitOf bits n)))
        ∧ s.keepsWordsRaising p [] t ∧ t.shd = s.shd ∧ s.onlyChanges [.registers, .events, .sent] t)

/-! ## On-chip memory and its windows (chapters 02 and 13) -/

/-- A write through a window stores, sets or clears exactly the enabled bytes (R75), in the super that MEMWIN_SEL names, where
writes are not ignored (R433 to R435) and the words hold no error; every other byte of on-chip memory, and every
register, is as it was.
Where the spec leaves it open, the model's own choices count
(log entries 13, 93). -/
def Obligations.WindowWritesChangeEnabledBytesOnly : Prop :=
  ∀ (s : State) (u off : Nat) (bytes : List (Option Byte)), s.getF .hive R.MEMWIN_SEL_SUPER = u → u < s.fuse.part.supers →
    off + bytes.length ≤ sramSize → s.enabled (.sram u) = true → (s.sramOf u).bad = [] →
    (∀ r, (s.sramOf u).run = some r → r.destructive = false) →
    (s.inTake = true → ∀ i, i < bytes.length → hostArea (off + i) = true) →
    let done (op : Byte → Byte → Byte) (t : State) : Prop :=
      (∀ i, i < bytes.length → t.sramByte u (off + i) =
          (match bytes.getD i none with
            | some b => op (s.sramByte u (off + i)) b
            | none => s.sramByte u (off + i)))
        ∧ (∀ v a, a < 0x800000 → v ≠ u ∨ a < off ∨ off + bytes.length ≤ a → t.sramByte v a = s.sramByte v a)
        ∧ t.sramOf u = s.sramOf u ∧ s.onlyChanges [.sram, .march] t
    completes (.windowWrite off bytes false []) s (done (fun _ b => b))
      ∧ completes (.bitSetAliasWrite off bytes false []) s (done (fun a b => a ||| b))
      ∧ completes (.bitClearAliasWrite off bytes false []) s (done (fun a b => a &&& ~~~ b))

/-- A window write is ignored, and counted once in SRAM_WIN.REFUSED, during a take in a region that is not the host's, while the
SRAM page is disabled, and in a memory under a destructive march (R433, R434, R435); while MEMWIN_SEL names no present
super it is ignored (R72); a poisoned one is discarded as a bad access (R456). In each case every byte stays. -/
def Obligations.WindowWritesAreIgnoredWhereTheRulesSay : Prop :=
  ∀ (s : State) (off : Nat) (b : Byte), off < sramSize → ∀ op ∈ [WindowOp.store, .setBits, .clearBits],
    let c (poisoned : Bool) : Instr := match op with
      | .store => .windowWrite off [some b] poisoned []
      | .setBits => .bitSetAliasWrite off [some b] poisoned []
      | .clearBits => .bitClearAliasWrite off [some b] poisoned []
    let u := s.getF .hive R.MEMWIN_SEL_SUPER
    (s.fuse.part.supers ≤ u → completes (c false) s (fun t => t = s))
      ∧ (u < s.fuse.part.supers →
        ((s.inTake = true ∧ hostArea (off / 8 * 8) = false) ∨ s.enabled (.sram u) = false
          ∨ ∃ r, (s.sramOf u).run = some r ∧ r.destructive = true ∧ r.whole = true) →
        completes (c false) s (fun t =>
          s.counted t (.sram u) R.SRAM_WIN_REFUSED 1 ∧ s.keepsWords [pageBase (.sram u) + R.SRAM_WIN_REFUSED.off] t
            ∧ t.shd = s.shd ∧ s.onlyChanges [.registers] t))
      ∧ completes (c true) s (fun t =>
        s.counted t .host R.HOST_BAD_BAR0 1 ∧ t.sticky .host 2 = true ∧ s.onlyChanges [.registers, .events, .sent] t)

/-- A window read answers the bytes of the super that MEMWIN_SEL names, zeros beyond its memories and while no present super
is named (R71, R72, R74); within a take the bytes of the data path's own regions are left open.
A read that meets an error in a word (R426): a single-bit error is corrected, counted, shown and raised as source 0; an
uncorrectable word is counted, shown, raised as source 1, and answered poisoned.
Where the spec leaves it open, the model's own choices count
(log entries 13, 18). -/
def Obligations.WindowReadsAnswerAndReportErrors : Prop :=
  (∀ (s : State) (off len : Nat), off + len ≤ 0x800000 →
        let u := s.getF .hive R.MEMWIN_SEL_SUPER
        (s.fuse.part.supers ≤ u → completes (.windowRead off len []) s (fun t =>
          t = { s with out := .readData (List.replicate len 0) false :: s.out }))
        ∧ (u < s.fuse.part.supers → (s.sramOf u).bad = [] → completes (.windowRead off len []) s (fun t =>
          (∃ l, t.out = .readData l false :: s.out ∧ l.length = len
            ∧ ∀ i, i < len → s.taking = false ∨ workArea u (off + i) = false →
              l.getD i 0 = (if off + i < sramSize then s.sramByte u (off + i) else 0))
            ∧ (s.taking = false → t = { s with out := t.out }) ∧ s.onlyChanges [.sram, .sent] t)))
  ∧ (∀ (s : State) (u off : Nat), s.getF .hive R.MEMWIN_SEL_SUPER = u → u < s.fuse.part.supers → off < sramSize → off % 8 = 0 →
        s.taking = false →
        (off ∉ (s.sramOf u).bad →
          completes (.windowRead off 8 [(off, false)]) s (fun t =>
            t.out.head? = some (.readData (s.sramBytes u off 8) false) ∧ s.counted t (.sram u) R.SRAM_ECC_CE 1
              ∧ t.getF (.sram u) R.SRAM_ECC_LAST_KIND = 1 ∧ t.getF (.sram u) R.SRAM_ECC_LAST_MEMORY = memoryCode off
              ∧ t.getF (.sram u) R.SRAM_ECC_LAST_LINE = off % 0x40000 / 64
              ∧ t.getF (.sram u) R.SRAM_ECC_LAST_WORD = off % 64 / 8 ∧ t.sticky (.sram u) 0 = true
              ∧ s.onlyChanges [.registers, .events, .sent] t))
        ∧ (off ∈ (s.sramOf u).bad →
          completes (.windowRead off 8 []) s (fun t =>
            t.out.head? = some (.readData (s.sramBytes u off 8) true) ∧ s.counted t (.sram u) R.SRAM_ECC_UE 1
              ∧ t.getF (.sram u) R.SRAM_ECC_LAST_KIND = 2 ∧ t.sticky (.sram u) 1 = true
              ∧ s.counted t .host R.HOST_BAD_BAR0 1 ∧ s.onlyChanges [.registers, .events, .sent] t)))

/-- The march engine: a START begins the run that MODE and TARGET choose, or is refused and START_REFUSED set (R442, R434); a
destructive run has one retention wait in each of its three backgrounds (R436).
A march run of a host's START ends with its engine idle: a destructive one leaves every byte that it tested zero (R437) and
every other byte as it was, a preserving one leaves every byte as it was (R438); words with one failing bit are counted
weak, and with at most four lines to repair in each memory the run is DONE with none left unrepaired (R439).
Where the spec leaves it open, the model's own choices count
(log entries 90, 91). -/
def Obligations.MarchRunsStartWaitAndEnd : Prop :=
  (∀ (s : State) (u : Nat), u < s.fuse.part.supers →
        (∀ (boot : Nat) (mode target : Bool),
          completes (.marchStart u boot mode target) s (fun t =>
            (if (s.sramOf u).run = none ∧ s.enabled (.sram u) = true ∧ (s.inTake = true → target = true) then
              (t.sramOf u).run = some ⟨!mode, !target, false, 0⟩ ∧ t.getF (.sram u) (blockBit 16) = 1
                ∧ t.getF (.sram u) R.SRAM_MARCH_STATUS_BACKGROUND = 0
                ∧ t.getF (.sram u) R.SRAM_MARCH_STATUS_STATE = (if s.bgPaused then 2 else 1)
                ∧ (target = false → t.getF (.sram u) R.PAGE_STATUS_READY = 0)
            else t.getF (.sram u) R.SRAM_MARCH_CTRL_START_REFUSED = 1 ∧ t.sramOf u = s.sramOf u)
              ∧ s.keepsWords [pageBase (.sram u) + 0x00C, pageBase (.sram u) + 0x100, pageBase (.sram u) + 0x104] t
              ∧ t.shd = s.shd ∧ s.onlyChanges [.registers, .march] t))
        ∧ (∀ r, (s.sramOf u).run = some r → r.destructive = true → r.waits < 3 →
          completes (.marchRetentionWait u) s (fun t =>
            t.sramOf u = { s.sramOf u with run := some { r with waits := r.waits + 1 } }
              ∧ t.getF (.sram u) R.SRAM_MARCH_STATUS_BACKGROUND = min 2 (r.waits + 1)
              ∧ s.keepsWords [pageBase (.sram u) + 0x104] t ∧ t.shd = s.shd ∧ s.onlyChanges [.registers, .march] t)))
  ∧ (∀ (s : State) (u : Nat) (r : MarchRun) (fails : List (Nat × Nat × Nat × Nat)), u < s.fuse.part.supers → s.bootOver →
        (s.sramOf u).run = some r → r.startup = false → (r.destructive = true → r.waits = 3) →
        (∀ m, (((fails.filter (fun f => f.1 == m && decide (2 ≤ f.2.2.2))).map (fun f => f.2.1)).eraseDups).length ≤ 4) →
        let tested (off : Nat) : Bool := r.whole || memoryCode off == 14 || memoryCode off == 15
        completes (.marchRunDone u fails) s (fun t =>
          (t.sramOf u).run = none ∧ t.getF (.sram u) (blockBit 16) = 0 ∧ t.getF (.sram u) R.SRAM_MARCH_STATUS_STATE = 3
            ∧ (r.whole = true → t.getF (.sram u) R.PAGE_STATUS_READY = 1 ∧ (∀ m, m < 24 → bitOf (t.getF (.sram u) R.SRAM_UNREPAIRED_MEMORIES) m = false)
              ∧ t.getF (.sram u) R.SRAM_MARCH_WEAK_COUNT =
                min 0xFFFF (fails.filter (fun f => decide (f.1 < (if u = 0 ∧ s.fuse.part.hasBoard then 25 else 24))
                  && f.2.2.2 == 1)).length)
            ∧ (∀ v off, off < 0x800000 → t.sramByte v off =
              (if r.destructive = true ∧ v = u ∧ tested off = true then 0 else s.sramByte v off))
            ∧ (r.destructive = true → ∀ off, off ∈ (t.sramOf u).bad → tested off = false)))/-! ## Hive time and the PLLs (chapter 03) -/

/-- A LOAD outside a take asks for hive time to be set to PLL_TIME_LOAD with its low 5 bits taken as 0; during a take it is ignored
and LOAD_REFUSED set (R84, R85). At the next beat boundary every present super's copy holds that value in the same tick.
Where the spec leaves it open, the model's own choices count
(log entry 40). -/
def Obligations.HiveTimeLoadsAtABeatBoundary : Prop :=
  ∀ s : State,
    (s.inTake = true → completes .load s (fun t =>
      t.getF (.pll 0) R.PLL_TIME_CTRL_LOAD_REFUSED = 1 ∧ s.keepsWords [pageBase (.pll 0) + 0x218] t
        ∧ s.onlyChanges [.registers] t))
    ∧ (s.inTake = false → completes .load s (fun t =>
      let v := s.getF (.pll 0) R.PLL_TIME_LOAD_LO_VALUE + 2 ^ 32 * s.getF (.pll 0) R.PLL_TIME_LOAD_HI_VALUE
      t = { s with loadWanted := some (32 * (v / 32)) }))
    ∧ ∀ v, s.loadWanted = some v → v < 2 ^ 64 → completes .hiveTimeLoad s (fun t =>
      t.hiveTime = v ∧ (∀ u, u < s.fuse.part.supers → t.timeOf u = v) ∧ t.loadWanted = none
        ∧ s.onlyChanges [.time, .pods, .frames] t)

/-- A time message reaches a super whose SPLL is locked: its copy of hive time is the value sent plus 256 ticks, ALIGNED is 1
(R81, R82), and after a coast that stopped nothing the signed step stands in TIME_STEP (R112). -/
def Obligations.TimeMessageAlignsASuper : Prop :=
  ∀ (s : State) (u sent : Nat), u < s.fuse.part.supers → s.bootOver → s.pllState (.spll u 0) = 3 → u ∉ s.boot.cutOff →
    completes (.timeAlignMessage u sent) s (fun t =>
      t.timeOf u = (sent + 256) % 2 ^ 64 ∧ t.getF (.spll u 0) R.PLL_TIME_STATUS_ALIGNED = 1
        ∧ (∀ v, v ≠ u → t.timeOf v = s.timeOf v) ∧ t.hiveTime = s.hiveTime
        ∧ ((s.pll (.spll u 0)).stepOwed = true →
          t.getF (.spll u 0) R.PLL_TIME_STATUS_TIME_STEP
            = saturatedSigned 24 ((((sent + 256) % 2 ^ 64 : Nat) : Int) - (s.timeOf u : Int))
            ∧ (t.pll (.spll u 0)).stepOwed = false)
        ∧ s.keepsWords [pageBase (.spll u 0) + R.PLL_TIME_STATUS_ALIGNED.off] t)

/-- A rising edge on TURN_MARK is timestamped to its tick, latched and counted (R86), but for one that comes less than 32 ticks
after the previous accepted edge, which is counted in TURN_EARLY alone (R87). -/
def Obligations.TurnMarksAreLatchedOrCountedEarly : Prop :=
  ∀ (s : State) (tick : Nat), s.hiveTime ≤ tick → tick < 2 ^ 64 →
    ((∀ a, s.turnAt = some a → a + 32 ≤ tick) → completes (.turnMark tick) s (fun t =>
      t.getF (.pll 0) R.PLL_TIME_TURN_LO_TIME + 2 ^ 32 * t.getF (.pll 0) R.PLL_TIME_TURN_HI_TIME = tick
        ∧ t.getF (.pll 0) R.PLL_TIME_TURN_COUNT_COUNT = (s.getF (.pll 0) R.PLL_TIME_TURN_COUNT_COUNT + 1) % 2 ^ 32
        ∧ t.getF (.pll 0) R.PLL_TIME_CTRL_TURN_EARLY = s.getF (.pll 0) R.PLL_TIME_CTRL_TURN_EARLY
        ∧ t.turnAt = some tick ∧ t.hiveTime = tick ∧ s.onlyChanges [.registers, .time, .take] t))
    ∧ (∀ a, s.turnAt = some a → tick < a + 32 → completes (.turnMark tick) s (fun t =>
      s.counted t (.pll 0) R.PLL_TIME_CTRL_TURN_EARLY 1 ∧ t.turnAt = s.turnAt
        ∧ s.keepsWords [pageBase (.pll 0) + R.PLL_TIME_CTRL_TURN_EARLY.off] t ∧ s.onlyChanges [.registers, .time] t))

/-- A PLL that is LOCKED or in PULL_IN coasts on the loss of its reference, or of lock with its reference present (R105): STATE is
COAST, LOCK 0, LOCK_LOST set and COASTS counted, and its source raised (R115, R116). One that is not yet locked falls to
BYPASS when its reference goes (R658); a PLL that is off, or that coasts already, only notes it.
When the cause of a coast clears, the PLL resumes tracking in PULL_IN if its frequency error is small, and otherwise relocks
through bypass by a new search (R110, R96); COAST_TIME then holds the coast's length. A PLL in BYPASS for want of its
reference searches when it returns.
Where the spec leaves it open, the model's own choices count
(log entries 11, 43). -/
def Obligations.PllsCoastResumeOrRelock : Prop :=
  (∀ (s : State) (p : Page), s.has p = true → isPll p = true → s.taking = false →
        let coasts (reference : Bool) (t : State) : Prop :=
          t.pllState p = 5 ∧ t.getF p R.PLL_STATUS_LOCK = 0 ∧ t.getF p R.PLL_FLAGS_LOCK_LOST = 1
            ∧ s.counted t p R.PLL_COUNTS_COASTS 1
            ∧ (t.pll p).cause = (if reference then .reference else .lock) ∧ (t.pll p).coastAt = s.hiveTime
            ∧ (match p with
              | .spll u k => t.sticky (.spll u 0) 0 = true ∧ (k = 0 → t.getF p R.PLL_TIME_STATUS_ALIGNED = 0)
              | _ => t.sticky p (flag reference) = true)
        completes (.refLost p) s (fun t =>
            t.getF p R.PLL_STATUS_REF_PRESENT = 0
              ∧ (s.pllState p = 3 ∨ s.pllState p = 6 → coasts true t)
              ∧ (s.pllState p = 1 ∨ s.pllState p = 2 ∨ s.pllState p = 4 →
                t.pllState p = 4 ∧ t.getF p R.PLL_FLAGS_LOCK_LOST = 1)
              ∧ (s.pllState p = 5 → t.pllState p = 5 ∧ (t.pll p).cause = .reference)
              ∧ (s.pllState p = 0 → t.pllState p = 0))
          ∧ (s.getF p R.PLL_STATUS_REF_PRESENT = 1 → s.pllState p = 3 ∨ s.pllState p = 6 →
            completes (.lockLost p) s (fun t => coasts false t ∧ t.getF p R.PLL_STATUS_REF_PRESENT = 1)))
  ∧ (∀ (s : State) (p : Page) (small : Bool), s.has p = true → isPll p = true → s.taking = false →
        let ends (t : State) : Prop :=
          t.pllState p = (if small then 6 else 1) ∧ t.getF p R.PLL_STATUS_LOCK = 0
            ∧ t.getF p R.PLL_STATUS_COAST_TIME = min ((s.hiveTime - (s.pll p).coastAt) / ticksPerUs) 0xFFFFF
            ∧ (small = false → s.counted t p R.PLL_COUNTS_RELOCKS 1)
        (s.pllState p = 5 → (s.pll p).cause = .reference → completes (.refReturn p small) s (fun t =>
            ends t ∧ t.getF p R.PLL_STATUS_REF_PRESENT = 1))
          ∧ (s.pllState p = 4 → completes (.refReturn p small) s (fun t =>
            t.pllState p = 1 ∧ t.getF p R.PLL_STATUS_REF_PRESENT = 1))
          ∧ (s.pllState p = 5 → (s.pll p).cause = .lock → s.getF p R.PLL_STATUS_REF_PRESENT = 1 →
            completes (.resumeTry p small) s ends))

/-- A PLL that searches, locks or pulls in reports lock: STATE is LOCKED and LOCK 1, and a COMMIT that no take holds and behind
which none waits clears (R98). After a relock of the MPLL hive time has moved on by the elapsed reference cycles at the
new tick ratio (R100), and every SPLL, FPLL, DPLL and GPLL relocks through bypass (R99). A spread-spectrum setting takes
effect without a relock (R104).
Where the spec leaves it open, the model's own choices count
(log entries 10, 41, 42, 43). -/
def Obligations.LockCompletesAPllChange : Prop :=
  ∀ (s : State) (p : Page) (cycles : Nat), s.has p = true → isPll p = true →
    (s.bootOver → s.powerOk = true → s.taking = false → s.timeRuns = true →
      (s.pllState p = 1 ∨ s.pllState p = 2 ∨ s.pllState p = 6) → s.getF p R.SHADOW_STATUS_COMMIT_WAIT = 0 →
      completes (.pllLock p cycles) s (fun t =>
        t.pllState p = 3 ∧ t.getF p R.PLL_STATUS_LOCK = 1
          ∧ (s.getF p R.SHADOW_STATUS_HELD = 0 → t.getF p R.COMMIT_COMMIT = 0)
          ∧ (p = .pll 0 → (s.pll p).relock = true →
            t.hiveTime = (s.hiveTime + cycles * 8 * (s.activeDiv p).n / ((s.activeDiv p).m * (s.activeDiv p).p)) % 2 ^ 64
              ∧ ∀ q ∈ s.clockedPlls, t.pllState q = (if s.getF q R.PLL_STATUS_REF_PRESENT = 1 then 1 else 4)
                ∧ s.counted t q R.PLL_COUNTS_RELOCKS 1)
          ∧ (p ≠ .pll 0 → t.hiveTime = s.hiveTime)))
    ∧ ((s.pll p).sscWaits = true → completes (.sscChange p) s (fun t =>
      t.getF p R.PLL_STATUS_SSC_ACTIVE = (if s.getF p R.PLL_SSC_MODE = 0 then 0 else 1) ∧ (t.pll p).sscWaits = false
        ∧ t.pllState p = s.pllState p ∧ s.keepsWords [pageBase p + R.PLL_STATUS_SSC_ACTIVE.off] t
        ∧ s.onlyChanges [.registers, .plls] t))

/-- After COAST_MAX of the MPLL or of an SPLL, COAST_LIMIT is set and raised and intake of the supers that it clocks stops during a
take (R108, R109). Intake of a super resumes at the first beat after its SPLL is locked and its copy aligned (R111). -/
def Obligations.IntakeStopsAndResumes : Prop :=
  ∀ (s : State),
    (∀ p, s.has p = true → s.pllState p = 5 → s.clockedSupers p ≠ [] → isPll p = true →
      completes (.coastLimit p) s (fun t =>
        t.getF p R.PLL_FLAGS_COAST_LIMIT = 1
          ∧ t.sticky p (match p with | .spll _ _ => 1 | _ => 2) = true
          ∧ (s.taking = true → ∀ u ∈ s.clockedSupers p, t.stopped.any (fun e => e.1 == u) = true)))
    ∧ ∀ u, u < s.fuse.part.supers → s.pllState (.pll 0) = 3 → s.pllState (.spll u 0) = 3 →
      s.getF (.spll u 0) R.PLL_TIME_STATUS_ALIGNED = 1 → s.stopped.any (fun e => e.1 == u) = true →
      s.hiveTime + 32 ≤ 2 ^ 64 →
      completes (.intakeResume u) s (fun t =>
        t.stopped = s.stopped.filter (fun e => !(e.1 == u)) ∧ t.hiveTime = beatUp s.hiveTime % 2 ^ 64)

/-! ## Pod links (chapter 04) -/

/-- A link-up begins RETRY_MS after the last one failed: WAIT_LOCK with the command lane driven (R145); it is abandoned 5 ms after
OFFER (R150). BLOCK_LOCK on both lanes at the base rate sends OFFER with the versions allowed, or finds a mismatch where
none is (R147, R148), and at the full rate goes on to alignment.
Where the spec leaves it open, the model's own choices count
(log entries 45, 46). -/
def Obligations.LinkUpGoesThroughItsStates : Prop :=
  ∀ (s : State) (u f : Nat), u < s.fuse.part.supers → f < 8 →
    (∀ a, (s.pod u f).retryFrom = some a → s.enabled (.pod u f) = true → s.podState u f = 0 ∨ s.podState u f = 8 →
      completesBefore (fun t => t.afterLink u f) (.linkRetry u f) s (fun t =>
        t.podState u f = 1 ∧ t.getF (.pod u f) R.POD_LINK_STATUS_VERSION = 0 ∧ (t.pod u f).driven = true
          ∧ (t.pod u f).retryFrom = none ∧ (t.pod u f).cmd = none ∧ (t.pod u f).laneA.delivering = false
          ∧ (t.pod u f).laneB.delivering = false ∧ t.hiveTime = (s.advanceTo (a + s.podRetry u f)).hiveTime
          ∧ s.onlyChanges [.registers, .time, .pods, .sent] t))
    ∧ (∀ a, (s.pod u f).offerAt = some a → completesBefore (fun t => t.afterLink u f) (.linkUpAbandon u f) s (fun t =>
        t.podState u f = 0 ∧ (t.pod u f).offerAt = none ∧ t.hiveTime = (s.advanceTo (a + 5000 * ticksPerUs)).hiveTime
          ∧ (t.pod u f).retryFrom = (if s.enabled (.pod u f) then some t.hiveTime else none)
          ∧ s.onlyChanges [.registers, .time, .pods] t))
    ∧ ∀ lane, s.enabled (.pod u f) = true → (s.pod u f).driven = true →
      let l := s.laneOf u f lane
      let both := ((s.pod u f).lane (otherLane l)).lock
      let offer := 2 * s.getF (.pod u f) R.POD_LINK_CTRL_VERSIONS
      completesBefore (fun t => t.afterLink u f) (.blockLock u f lane) s (fun t =>
        (s.podState u f = 1 → both = false → t.podState u f = 2 ∧ ((t.pod u f).lane l).lock = true)
          ∧ (s.podState u f = 1 ∨ s.podState u f = 2 → both = true → offer ≠ 0 →
            t.podState u f = 3 ∧ (t.pod u f).cmd = some ⟨1, offer, 0, 0⟩ ∧ (t.pod u f).offerAt = some s.hiveTime
              ∧ t.out = .podCommand (unitIx u f) (frameBytes 1 offer 0) :: s.out)
          ∧ (s.podState u f = 1 ∨ s.podState u f = 2 → both = true → offer = 0 →
            t.podState u f = 8 ∧ t.getF (.pod u f) R.PAGE_STATUS_FAULT = 1 ∧ t.sticky (.pod u f) 2 = true)
          ∧ (s.podState u f = 4 → both = true → t.podState u f = 5)
          ∧ (s.podState u f = 6 → ((t.pod u f).lane l).lock = true ∧ t.podState u f = 6))

/-- A MARKER that agrees with its place gives the lane its place, its mode and its lane number; during a link-up, once both lanes
have one and their skew is in reach, the link comes up with both delivering (R131, R132, R150). On a link that is up with a skew
beyond 48 blocks the lane that arrives earlier is lost, and the link runs in ONE_LANE (R132). One that disagrees is
counted as a slip and ignored, but for its place, which the next one is held against (R131). Reserved values are a type error.
Where the spec leaves it open, the model's own choices count
(log entries 49, 51, 53). -/
def Obligations.MarkersPlaceLanesAndBringLinksUp : Prop :=
  ∀ (s : State) (u f : Nat) (lane : Lane) (slot pos laneId mode phase tick : Nat), u < s.fuse.part.supers → f < 8 →
    s.enabled (.pod u f) = true → tick ≤ s.hiveTime →
    let l := s.laneOf u f lane
    let x := (s.pod u f).lane l
    let v := s.linkVersion u f
    let c : Instr := .marker u f lane slot pos laneId mode phase tick
    (2 ≤ laneId ∨ 2 ≤ mode → completesBefore (fun t => t.afterLink u f) c s (fun t =>
      s.counted t (.pod u f) (R.POD_LANE_ERR_TYPE_ERR (laneIx lane)) 1 ∧ s.onlyChanges [.registers, .pods] t))
    ∧ (laneId < 2 → mode < 2 → v ≠ 0 → x.lock = true → placeAgrees x.expect slot pos = true →
      let y := (s.pod u f).setLane l
        (({ x with errors := (false :: x.errors).take 64 }).pass slot pos laneId mode phase tick v (4 * s.beatNow))
      (s.podState u f = 6 → (∀ k, y.skew v = some k → -48 ≤ k ∧ k ≤ 48) → completesBefore (fun t => t.afterLink u f) c s (fun t =>
        ((t.pod u f).lane l).marked = true ∧ ((t.pod u f).lane l).seen = laneId ∧ ((t.pod u f).lane l).mode = mode
          ∧ (mode = 0 → ((t.pod u f).lane l).expect.map (fun p => (p.slot, p.pos)) = some (slot, pos))
          ∧ t.podState u f = 6))
      ∧ (∀ k, s.podState u f = 6 → y.skew v = some k → (k < -48 ∨ 48 < k) → y.laneA.delivering = true →
        y.laneB.delivering = true → completesBefore (fun t => (t.catchUp u f).afterLink u f) c s (fun t =>
          t.podState u f = 7 ∧ ((t.pod u f).lane (if 48 < k then .a else .b)).delivering = false
            ∧ ((t.pod u f).lane (if 48 < k then .b else .a)).delivering = true))
      ∧ ((s.podState u f = 4 ∨ s.podState u f = 5) → ((s.pod u f).lane (otherLane l)).lock = true →
        ((s.pod u f).lane (otherLane l)).marked = true →
        y.aligned v = true →
        completesBefore (fun t => t.afterLink u f) c s (fun t =>
          t.podState u f = 6 ∧ (t.pod u f).laneA.delivering = true ∧ (t.pod u f).laneB.delivering = true
            ∧ t.getF (.pod u f) R.POD_LINK_STATUS_LANE_A_UP = 1 ∧ t.getF (.pod u f) R.POD_LINK_STATUS_LANE_B_UP = 1
            ∧ t.sticky (.pod u f) 0 = true)))
    ∧ (laneId < 2 → mode < 2 → v ≠ 0 → x.lock = true → placeAgrees x.expect slot pos = false → x.slip = none →
      completesBefore (fun t => t.afterLink u f) c s (fun t =>
        s.counted t (.pod u f) (R.POD_LANE_ERR_SLIP (laneIx lane)) 1
          ∧ ((t.pod u f).lane l).slip = some ⟨slot, pos, 0⟩ ∧ ((t.pod u f).lane l).expect = x.expect
          ∧ ((t.pod u f).lane l).delivering = x.delivering ∧ s.onlyChanges [.registers, .pods] t))

/-- The command lane: a SEND on a link that is up and not busy drives the command's frame with the next tally (R137, R139) and is
otherwise ignored; a good STATUS block that answers it ends it with the RESULT of its code (R136, R138), CODE 15 is an
unsolicited word, and one whose CRC fails is counted and raised (R134).
Without a good reply within REPLY_US the command is sent again with the same tally, at most three times (R143); then a POD
command ends with RESULT 5, a link-up fails, and any other command loses the link (R144).
Where the spec leaves it open, the model's own choices count
(log entry 47). -/
def Obligations.PodCommandsAreAnsweredOrTimeOut : Prop :=
  (∀ (s : State) (u f : Nat), u < s.fuse.part.supers → f < 8 →
        let p := Page.pod u f
        (s.getF p R.POD_CMD_CTRL_BUSY = 0 → s.podState u f = 6 ∨ s.podState u f = 7 → (s.pod u f).cmd = none →
          completesBefore (fun t => t.afterLink u f) (.podCmdSend u f) s (fun t =>
            t.getF p R.POD_CMD_CTRL_BUSY = 1 ∧ t.getF p R.POD_CMD_CTRL_RESULT = 0
              ∧ t.out = .podCommand (unitIx u f) (frameBytes 0 (s.getF p R.POD_CMD_WORD_WORD) (s.pod u f).tally) :: s.out
              ∧ (t.pod u f).tally = ((s.pod u f).tally + 1) % 4096
              ∧ (t.pod u f).cmd = some ⟨0, s.getF p R.POD_CMD_WORD_WORD, (s.pod u f).tally, 0⟩
              ∧ s.keepsWords [pageBase p + R.POD_CMD_CTRL_BUSY.off] t ∧ s.onlyChanges [.registers, .pods, .sent] t))
        ∧ (s.getF p R.POD_CMD_CTRL_BUSY = 1 ∨ ¬ (s.podState u f = 6 ∨ s.podState u f = 7) →
          completesBefore (fun t => t.afterLink u f) (.podCmdSend u f) s (fun t => t = s))
        ∧ ∀ (lane : Lane) (payload : Nat), s.enabled p = true →
          let code := bitsOf payload 51 48
          let data := bitsOf payload 47 16
          let c : Instr := .status u f lane payload
          (statusGood payload = true → code = 15 →
            completesBefore (fun t => t.afterLink u f) c s (fun t =>
              t.getF p R.POD_CMD_UNSOL_DATA = data ∧ s.keepsWords [pageBase p + R.POD_CMD_UNSOL_DATA.off] t))
          ∧ (∀ w n, statusGood payload = true → (s.pod u f).cmd = some ⟨0, w, bitsOf payload 63 52, n⟩ →
            (code = 0 ∨ code = 1 ∨ code = 3 ∨ code = 6) →
            completesBefore (fun t => t.afterLink u f) c s (fun t =>
              t.getF p R.POD_CMD_REPLY_DATA = data ∧ t.getF p R.POD_CMD_CTRL_BUSY = 0
                ∧ t.getF p R.POD_CMD_CTRL_RESULT = (if code = 0 then 1 else if code = 1 then 2 else if code = 3 then 3 else 4)
                ∧ ((s.pod u f).waiting = [] → (t.pod u f).cmd = none)))
          ∧ (statusGood payload = false → (s.pod u f).cmd = none →
            completesBefore (fun t => t.afterLink u f) c s (fun t =>
              s.counted t p R.POD_STATUS_ERR_CRC_ERR 1 ∧ t.sticky p 3 = true)))
  ∧ (∀ (s : State) (u f : Nat) (c : PodCmd), u < s.fuse.part.supers → f < 8 → (s.pod u f).cmd = some c →
        (c.resends < 3 → completesBefore (fun t => t.afterLink u f) (.replyTimeout u f) s (fun t =>
          t = (s.setPod u f { s.pod u f with cmd := some { c with resends := c.resends + 1 } }).emit
            (.podCommand (unitIx u f) (frameBytes c.kind c.word c.tally))))
        ∧ (3 ≤ c.resends → c.kind = 0 → completesBefore (fun t => t.afterLink u f) (.replyTimeout u f) s (fun t =>
          t.getF (.pod u f) R.POD_CMD_CTRL_RESULT = 5 ∧ t.getF (.pod u f) R.POD_CMD_CTRL_BUSY = 0))
        ∧ (3 ≤ c.resends → c.kind = 1 ∨ c.kind = 2 → completesBefore (fun t => t.afterLink u f) (.replyTimeout u f) s (fun t =>
          t.podState u f = 0 ∧ (t.pod u f).cmd = none))
        ∧ (3 ≤ c.resends → c.kind = 3 ∨ c.kind = 4 → s.podUp u f = true →
          completesBefore (fun t => (t.catchUp u f).afterLink u f) (.replyTimeout u f) s (fun t =>
            t.podState u f = 0 ∧ t.sticky (.pod u f) 1 = true ∧ (t.pod u f).laneA.delivering = false)))

/-- A data block of a lane that delivers in timing mode puts its base slots into the alignment buffer, from 4 times its beat on,
each with the lane's bits of its slot (R125, R166); one whose sync header is in error puts them there as unusable, and is
counted and raised (R153). A block of an unknown type is counted and discarded (R121), and an IDLE block discarded.
Where the spec leaves it open, the model's own choices count
(log entries 48, 54, 55). -/
def Obligations.BlocksDeliverTheirSlots : Prop :=
  ∀ (s : State) (u f : Nat) (lane : Lane) (beat payload : Nat) (bad : Bool), u < s.fuse.part.supers → f < 8 →
    s.enabled (.pod u f) = true →
    let l := s.laneOf u f lane
    let x := (s.pod u f).lane l
    let v := s.linkVersion u f
    let w := laneCells v
    (v = 1 ∨ v = 2 → x.delivering = true → x.mode = 0 → 32 * beat ≤ s.hiveTime → (x.errors.filter id).length < 15 →
      completesBefore (fun t => t.afterLink u f) (.dataBlock u f lane beat payload bad) s (fun t =>
        (∀ j, j < blockSlots v → (⟨4 * beat + j, bitsOf payload (w * j + w - 1) (w * j), x.phase, true, !bad⟩ : BaseSlot)
            ∈ ((t.pod u f).lane l).buffer)
          ∧ ((t.pod u f).lane l).newest = max x.newest (4 * beat + blockSlots v)
          ∧ ((t.pod u f).lane l).delivering = true
          ∧ (t.pod u f).lane (otherLane l) = (s.pod u f).lane (otherLane l)
          ∧ (if bad then s.counted t (.pod u f) (R.POD_SYNC_ERR_COUNT (laneIx lane)) 1 ∧ t.sticky (.frame u f) 5 = true
            else s.onlyChanges [.pods] t)))
    ∧ completesBefore (fun t => t.afterLink u f) (.typeError u f lane) s (fun t =>
      s.counted t (.pod u f) (R.POD_LANE_ERR_TYPE_ERR (laneIx lane)) 1
        ∧ t.pod u f = (s.pod u f).setLane l { x with errors := (false :: x.errors).take 64 }
        ∧ s.onlyChanges [.registers, .pods] t)
    ∧ completesBefore (fun t => t.afterLink u f) (.idle u f lane) s (fun t =>
      t.pod u f = (s.pod u f).setLane l { x with errors := (false :: x.errors).take 64 } ∧ s.onlyChanges [.pods] t)

/-- A lane that delivers is lost: with the other lane the link runs on as ONE_LANE, link down is raised, and with AUTO_RETRAIN the
pod is told to train it again, every RETRY_MS from then on (R155, R157); without the other lane the link is lost (R156).
Where the spec leaves it open, the model's own choices count
(log entries 48, 52). -/
def Obligations.LanesAreLostAndRetrained : Prop :=
  ∀ (s : State) (u f : Nat) (lane : Lane) (cause : LaneFault), u < s.fuse.part.supers → f < 8 →
    let l := s.laneOf u f lane
    (((s.pod u f).lane l).delivering = true → s.podUp u f = true →
      completesBefore (fun t => (t.catchUp u f).afterLink u f) (.laneLoss u f lane cause) s (fun t =>
        ((t.pod u f).lane l).delivering = false
          ∧ (((s.pod u f).lane (otherLane l)).delivering = true →
            t.podState u f = 7 ∧ t.sticky (.pod u f) 1 = true
              ∧ (s.getF (.pod u f) R.POD_LINK_CTRL_AUTO_RETRAIN = 1 → (t.pod u f).retryFrom = some s.hiveTime))
          ∧ (((s.pod u f).lane (otherLane l)).delivering = false →
            t.podState u f = 0 ∧ t.sticky (.pod u f) 1 = true)
          ∧ (cause = .lock → s.counted t (.pod u f) (R.POD_LANE_ERR_LOCK_LOSS (laneIx lane)) 1)))
    ∧ ∀ a, (s.pod u f).retryFrom = some a → s.podState u f = 7 → s.getF (.pod u f) R.POD_LINK_CTRL_AUTO_RETRAIN = 1 →
      (s.pod u f).cmd = none →
      let lanes := flag (!(s.pod u f).laneA.delivering) + 2 * flag (!(s.pod u f).laneB.delivering)
      completesBefore (fun t => t.afterLink u f) (.laneRetrainRetry u f) s (fun t =>
        t.out = .podCommand (unitIx u f) (frameBytes 4 lanes (s.pod u f).tally) :: s.out
          ∧ t.hiveTime = (s.advanceTo (a + s.podRetry u f)).hiveTime ∧ (t.pod u f).retryFrom = some t.hiveTime)

/-! ## Cells, scouts, pattern words, counters and timers (chapters 05 and 06) -/

/-- The raw result of a pattern word is that of the pseudocode of R206, in which a word that reads a cell without PRESENT is 0
(R207); edge codes choose RISE, FALL or either (R203); the range test compares the bus value with LO and HI (R205). -/
def Obligations.PatternWordsFollowTheirTerms : Prop :=
  ∀ (w : WordSet) (o : CellOut),
    let coded (c : Nat) : Bool := bitOf (edgeCodes w) (2 * c) || bitOf (edgeCodes w) (2 * c + 1)
    let hit (c : Nat) : Bool :=
      (bitOf (edgeCodes w) (2 * c) && bitOf o.rise c) || (bitOf (edgeCodes w) (2 * c + 1) && bitOf o.fall c)
    let v := gather o.value w.busMask w.busDesc
    let m : Prop := ∀ c, bitOf w.mask c = true → bitOf o.value c = bitOf w.value c
    let e : Prop := if w.joinAll then ∀ c, c < 32 → coded c = true → hit c = true else ∃ c, c < 32 ∧ hit c = true
    let r : Prop := if w.rangeOp = 1 then w.lo ≤ v ∧ v ≤ w.hi else if w.rangeOp = 2 then v < w.lo ∨ w.hi < v else v = w.lo
    let mOn : Prop := w.mask ≠ 0
    let eOn : Prop := ∃ c, c < 32 ∧ coded c = true
    let rOn : Prop := w.rangeOp ≠ 0
    w.rangeOp < 4 → w.edgeLo < 2 ^ 32 → w.edgeHi < 2 ^ 32 → w.mask < 2 ^ 32 → w.busMask < 2 ^ 32 → o.present < 2 ^ 32 →
    ((∃ c, c < 32 ∧ bitOf o.present c = false
        ∧ (bitOf w.mask c = true ∨ coded c = true ∨ (w.rangeOp ≠ 0 ∧ bitOf w.busMask c = true))) → rawResult w o = false)
    ∧ ((∀ c, c < 32 → bitOf w.mask c = true ∨ coded c = true ∨ (w.rangeOp ≠ 0 ∧ bitOf w.busMask c = true) →
        bitOf o.present c = true) →
      (rawResult w o = true ↔
        (((mOn ∨ eOn ∨ rOn) ∧ (mOn → m) ∧ (eOn → e) ∧ (rOn → r)) ↔ w.invert = false)))

/-- The duration qualifier, counters and timers update as the pseudocode of R209, R215 and R218 says: shown case by case for the
qualifier, for a counter's count, wrap, reload and operations, for a timer that
is started, runs on and hits, and for a hive timer in its mode 0 (R251).
Where the spec leaves it open, the model's own choices count
(log entry 58). -/
def Obligations.QualifiersCountersAndTimersUpdate : Prop :=
  (∀ (w : WordSet) (valid p before : Bool) (run : Nat),
    let now := if p then min (run + 1) 65535 else 0
    run ≤ 65535 →
    qualify w valid p before run =
      (if w.durN = 0 then (run, p)
       else if w.durValid = true ∧ valid = false then (run, !w.durPulse && before)
       else (now, if w.durPulse then decide (now = w.durN) else decide (w.durN ≤ now))))
  ∧ (∀ (c : CounterSet) (x : Counter) (op : Nat), x.value < 2 ^ 48 →
    let y := (counterUpdate c op true x).1
    (op ≠ 1 → op ≠ 2 → op ≠ 3 → op ≠ 4 → op ≠ 5 → x.paused = false → c.reload = false →
      y.value = (x.value + 1) % 2 ^ 48 ∧ y.flagged = decide (c.cmp ≤ y.value)
        ∧ (counterUpdate c op true x).2.1 = decide (x.value = 2 ^ 48 - 1))
    ∧ (op ≠ 1 → op ≠ 2 → op ≠ 3 → op ≠ 4 → op ≠ 5 → x.paused = false → c.reload = true →
      y.flagged = decide ((x.value + 1) % 2 ^ 48 = c.cmp)
        ∧ y.value = (if (x.value + 1) % 2 ^ 48 = c.cmp then 0 else (x.value + 1) % 2 ^ 48))
    ∧ (op = 1 → x.paused = false → c.reload = false → y.value = (x.value + 2) % 2 ^ 48)
    ∧ (op = 2 → x.paused = false → c.reload = false → y.value = 1)
    ∧ (op = 3 → x.paused = false → c.reload = false → c.init < 2 ^ 48 → y.value = (c.init + 1) % 2 ^ 48)
    ∧ (op = 4 → y.paused = true ∧ y.value = x.value) ∧ (op = 5 → y.paused = false))
  ∧ (∀ (c : TimerSet) (x : Timer) (op : Nat) (stops : Bool), x.value < 2 ^ 48 →
    (let y := timerUpdate c op stops true x;
      (0 < c.limit → y = ⟨0, true, false⟩)
        ∧ (c.limit = 0 → y.flagged = true ∧ y.value = 0 ∧ y.running = decide (c.stopKind ≠ 1)))
    ∧ (x.running = true → op = 0 → c.periodic = false →
      timerUpdate c op false false x =
        (let v := min (x.value + 1) (2 ^ 48 - 1); ⟨v, !(decide (c.stopKind = 1) && decide (c.limit ≤ v)), decide (c.limit ≤ v)⟩))
    ∧ (x.running = true → op = 0 → c.periodic = true → x.value < 2 ^ 48 - 1 →
      timerUpdate c op false false x =
        (if x.value + 1 = c.limit then ⟨0, !decide (c.stopKind = 1), true⟩ else ⟨x.value + 1, true, false⟩))
    ∧ (x.running = false → op = 0 → c.periodic = false →
      timerUpdate c op stops false x = ⟨x.value, false, decide (c.limit ≤ x.value)⟩))
  ∧ ∀ (s : State) (n : Nat), n < 4 →
    let op := bitsOf (s.seq 8).timerOps (3 * n + 2) (3 * n)
    let x := (s.seq 8).timers.getD n ⟨0, false, false⟩
    let limit := s.getPair .hseq (R.SEQ_HT_LIM_LO_LIM n) (R.SEQ_HT_LIM_HI_LIM n)
    let counted := if x.running ∧ x.value < 2 ^ 48 - 1 then x.value + 1 else x.value
    let value := if op = 3 ∨ op = 4 then 0 else counted
    let running := if op = 1 ∨ op = 3 then true else if op = 2 then false else x.running
    s.isSet .hseq (R.SEQ_HT_CTRL_MODE n) = false →
    s.hiveTimers.getD n ⟨0, false, false⟩ =
      ⟨value, running && !(s.isSet .hseq (R.SEQ_HT_CTRL_ONESHOT n) && decide (limit ≤ value)), decide (limit ≤ value)⟩

/-- A slot that some lane feeding the frame has not delivered is taken when the frame needs it: cells whose sample has not come
are counted in FRAME_CELL_LATE and raised as the cell deskew fail event (R170).
Where the spec leaves it open, the model's own choices count
(log entry 56). -/
def Obligations.LateSlotsAreTakenAndCounted : Prop :=
  ∀ (s : State) (u f : Nat), u < s.fuse.part.supers → f < 8 →
    let n := (s.frame u f).next
    s.enabled (.frame u f) = true → s.delivered u f n = false → s.intakeStopped u n = false → s.slotInTake n = false →
    s.take.begun = false ∨ n ≠ s.take.first →
    completesBefore (fun t => t.afterFrame u f) (.lateSlot u f) s (fun t =>
      (t.frame u f).next = n + 1 ∧ s.counted t (.frame u f) R.FRAME_CELL_LATE_COUNT (s.lateCells u f n)
        ∧ (0 < s.lateCells u f n → t.sticky (.frame u f) 4 = true)
        ∧ t.hiveTime = (s.advanceTo (32 * (n / 4 + 4))).hiveTime
        ∧ t.getF (.frame u f) R.FRAME_CELL_ABSENT_ABSENT = cellsWhere (s.cellsIn u f n) (· == .absent))

/-- The slot at which a frame waits because a counter wraps or reloads in it, a timer's flag rises or an operation takes effect is
worked on: counters and timers take their new values and show them, the slot's sixteen flags go to the sequencer, and
each wrap sets its WRAPPED bit and is raised (R211, R215, R216, R218, R220).
Where the spec leaves it open, the model's own choices count
(log entry 127). -/
def Obligations.EventfulSlotsAreWorkedOn : Prop :=
  ∀ (s : State) (u f : Nat) (e : EvalSlot) (rest : List EvalSlot) (kind : Nat) (c : Instr),
    u < s.fuse.part.supers → f < 8 → (s.frame u f).eval = e :: rest → s.slotInTake e.n = true →
    (kind, c) ∈ [(0, Instr.operationEffect u f), (1, .counterWrap u f), (2, .counterReload u f), (3, .timerHit u f)] →
    s.slotShows u f kind = true →
    let x := s.frame u f
    let cs := s.countersAt u f x e
    completesBefore (fun t => t.afterFrame u f) c s (fun t =>
      t.frame u f = { x with
          eval := rest, counters := cs.map Prod.fst, timers := s.timersAt u f x e
          flags := x.flags ++ [(e.n, frameFlags e (cs.map Prod.fst) (s.timersAt u f x e))]
          ops := x.ops.filter (fun o => !(o.slot == e.n)) }
        ∧ (∀ n, n < 4 → t.getPair (.frame u f) (R.FRAME_CNT_VAL_LO_VAL n) (R.FRAME_CNT_VAL_HI_VAL n)
            = ((cs.getD n (⟨0, false, false⟩, false, false)).1.value) % 2 ^ 48)
        ∧ (∀ n, n < 4 → (cs.getD n (⟨0, false, false⟩, false, false)).2.1 = true →
            bitOf (t.getF (.frame u f) R.FRAME_CNT_WRAP_WRAPPED) n = true ∧ t.sticky (.frame u f) 3 = true)
        ∧ s.onlyChanges [.registers, .frames, .events, .sent] t)

/-- A scout's transition: the new level shows, and on an enabled scout that is not settling the edge that SCOUT_TRIG.EDGE chooses
gives an edge term at its tick plus the deskew, whatever the store keeps of it (R183, R186, R187).
Settling of a scout ends at its end (R185). A scout in overrun writes a RESUME with the count of
transitions lost at the first tick at which its bucket holds SCOUT_RESUME.LEVEL tokens, spends 3 of them and records again
(R192, R197), shown where no transition waits and nothing changes what is stored meanwhile.
Where the spec leaves it open, the model's own choices count
(log entry 127). -/
def Obligations.ScoutsGiveEdgesSettleAndResume : Prop :=
  (∀ (s : State) (u k tick : Nat) (level : Bool), u < s.fuse.part.supers → k < 8 → s.fuse.part.hasScouts = true →
        s.hiveTime ≤ tick → tick < 2 ^ 64 → (s.scout u k).level ≠ level →
        let p := Page.scout u k
        let time := ((tick : Int) + signedOf 8 (s.getF p R.SCOUT_DESKEW_DESKEW)).toNat
        (s.enabled p = false → completes (.scoutTransition u k tick level) s (fun t =>
          (t.scout u k).level = level ∧ t.getF p R.SCOUT_STATUS_LEVEL = flag level ∧ t.hiveTime = tick
            ∧ (t.scout u k).edges = (s.scout u k).edges))
        ∧ (s.enabled p = true →
          completesBefore (fun t => t.afterScout u) (.scoutTransition u k tick level) s (fun t =>
            (t.scout u k).level = level ∧ t.getF p R.SCOUT_STATUS_LEVEL = flag level ∧ t.hiveTime = tick
              ∧ (edgeChosen (s.getF p R.SCOUT_TRIG_EDGE) level = true → s.getF p R.SCOUT_STATUS_SETTLING = 0 →
                time ∈ (t.scout u k).edges)
              ∧ ((s.stream (.scout u)).present = true → 8 * s.take.first ≤ time → (time, level) ∈ (t.scout u k).raw))))
  ∧ (∀ (s : State) (u k : Nat), u < s.fuse.part.supers → k < 8 → s.fuse.part.hasScouts = true →
        let p := Page.scout u k
        let x := s.scout u k
        let m := s.stream (.scout u)
        (s.getF p R.SCOUT_STATUS_SETTLING = 1 → m.present = false → completes (.settlingEnd u k) s (fun t =>
          t.getF p R.SCOUT_STATUS_SETTLING = 0 ∧ (t.scout u k).suspend = .none
            ∧ t.hiveTime = (s.advanceTo x.settleEnd).hiveTime))
        ∧ (s.getF p R.SCOUT_STATUS_SETTLING = 1 → m.present = true →
          completesBefore (fun t => t.afterScout u) (.settlingEnd u k) s (fun t =>
            t.getF p R.SCOUT_STATUS_SETTLING = 0
              ∧ t.hiveTime = ((s.advanceTo x.settleEnd).advanceTo (32 * (x.settleEnd / 32 + 32))).hiveTime))
        ∧ ∀ r, s.resumeTick u k m.formed = some r → x.suspend = .overrun → m.present = true → x.raw = [] → m.gates = [] →
          s.take.scoutPauses = [] → s.take.closing = [] → m.hole = none → m.first ≤ r → s.enabled p = true →
          s.stopped.all (fun e => e.1 != u) = true → s.hiveTime < 2 ^ 63 → r < 2 ^ 63 →
          completesBefore (fun t => t.settleSeqs.settleHolds) (.resume u k) s (fun t =>
            (t.scout u k).suspend = .none ∧ (t.scout u k).lost = 0 ∧ t.getF p R.SCOUT_STATUS_IN_OVERRUN = 0
              ∧ (t.scout u k).bucketAt = r ∧ (t.scout u k).bucket = s.bucketAt u k r - 3 * tokenUnits
              ∧ (⟨r, k, .resume x.recLevel x.lost, s.coasting u⟩ : ScoutRec) ∈ (t.stream (.scout u)).recs))
/-! ## Sequencers, balls of the trigger path and the waggle network (chapters 01 and 07) -/

/-- A super sequencer takes the lowest-numbered enabled and true exit of its level for the slot at which it stands, once the slot
is ready (R231, R232), records it, and issues its actions: level, operations for slot n + 24, waggle flag, store gate, mark
and event (R240, R245, R249). -/
def Obligations.SuperExitsIssueTheirActions : Prop :=
  ∀ (s : State) (u e o : Nat), s.has (.sseq u) = true → (s.seq u).running = true →
    let t := (s.advanceTo (32 * ((s.seq u).next / 4 + 9))).settleSeqs
    let n := (t.seq u).next
    let p := Page.sseq u
    let l := (t.seq u).level
    let x := 4 * l + e
    let wf := t.getF p (R.SEQ_ACT_WF_SEL x)
    t.superReady u n = true → t.superExitAt u n = some (e, o) → l < 16 →
    completesBefore (fun v => v.settleSeqs.settleHolds) (.superExit u) s (fun v =>
      (v.seq u).level = t.getF p (R.SEQ_COND_NEXT x) ∧ (v.seq u).next = n + 1 ∧ (v.seq u).entered = true
        ∧ (v.seq u).first = false
        ∧ v.getF p R.SEQ_STATUS_LEVEL = t.getF p (R.SEQ_COND_NEXT x) ∧ v.getF p R.SEQ_LAST_FROM = l
        ∧ v.getF p R.SEQ_LAST_EXIT = e ∧ v.getF p R.SEQ_LAST_TO = t.getF p (R.SEQ_COND_NEXT x)
        ∧ v.getPair p R.SEQ_LAST_ORIGIN_LO_ORIGIN R.SEQ_LAST_ORIGIN_HI_ORIGIN = o % 2 ^ 64
        ∧ t.counted v p R.SEQ_EXIT_COUNT_COUNT 1
        ∧ (t.isSet p (R.SEQ_ACT_OPSET_EN x) = true → ∀ f, f < 8 → t.enabled (.frame u f) = true →
          let w := bitsOf (t.word (pageBase p + 0x200 + 0x20 * t.getF p (R.SEQ_ACT_OPSET x) + 4 * f)).toNat 23 0
          w ≠ 0 → (⟨n + 24, w⟩ : FrameOps) ∈ (v.frame u f).ops)
        ∧ (v.seq u).flagState =
          (match t.getF p (R.SEQ_ACT_WF_OP x) with
            | 2 => withBit (t.seq u).flagState wf true
            | 3 => withBit (t.seq u).flagState wf false
            | _ => (t.seq u).flagState)
        ∧ (t.getF p (R.SEQ_ACT_WF_OP x) = 1 ∨ t.getF p (R.SEQ_ACT_WF_OP x) = 2 → n % 4 ≠ 3 →
          bitOf (v.seq u).beat.value wf = true)
        ∧ (t.getF p (R.SEQ_ACT_WF_OP x) = 1 ∨ t.getF p (R.SEQ_ACT_WF_OP x) = 2 → n % 4 = 3 → t.enabled (.waggle u) = true →
          ∃ b more, (v.seq u).sent = b :: more ∧ bitOf b.value wf = true)
        ∧ (t.getF p (R.SEQ_ACT_GATE_OP x) = 1 ∨ t.getF p (R.SEQ_ACT_GATE_OP x) = 2 →
          let on := decide (t.getF p (R.SEQ_ACT_GATE_OP x) = 2)
          (∀ f, f < 8 → bitOf (t.getF p (R.SEQ_GATE_FRAMES x)) f = true →
              (8 * (o / 8), on) ∈ (v.stream (.frame u f)).gates)
            ∧ (t.isSet p (R.SEQ_GATE_SCOUT x) = true → (8 * (o / 8), on) ∈ (v.stream (.scout u)).gates))
        ∧ ((t.seq u).marks.length < 64 → (v.seq u).marks =
          (if t.isSet p (R.SEQ_ACT_MARK_EN x) then
            (t.seq u).marks ++ [⟨o, 5, u, l <<< 12 ||| e <<< 10 ||| t.getF p (R.SEQ_ACT_MARK x), 0, 0, 0, t.segment⟩]
           else (t.seq u).marks))
        ∧ (t.isSet p (R.SEQ_ACT_MARK_EN x) = true → 64 ≤ (t.seq u).marks.length →
          t.counted v p R.SEQ_MARKS_LOST 1 ∧ v.sticky p 8 = true)
        ∧ (t.isSet p (R.SEQ_ACT_EVENT_EN x) = true → v.sticky p (t.getF p (R.SEQ_ACT_EVENT x)) = true)
        ∧ t.onlyChanges [.registers, .frames, .scouts, .sequencers, .streams, .events, .sent] v)

/-- The hive sequencer takes an exit for a sample beat (R235) and issues its actions (R246): the level, the trigger (R250), window
control (R280), TRIG_OUT at its tick (R253), the apiary flag for the launch in beat h + 23, the inbound flags presented with
beat h + 20 (R242), hive timer operations, mark and event. A beat in which a hive timer's flag rises passes with the timers
updated (R251).
Where the spec leaves it open, the model's own choices count
(log entry 63). -/
def Obligations.HiveBeatsPassWithTheirActions : Prop :=
  ∀ (s : State), (s.seq 8).running = true →
    let t := (s.advanceTo (32 * ((s.seq 8).next + 19))).settleSeqs
    let h := (t.seq 8).next
    let p := Page.hseq
    let l := (t.seq 8).level
    t.hiveReady h = true →
    (∀ e o, t.hiveExitAt h = some (e, o) → l < 16 →
      let x := 4 * l + e
      let wi := t.getF p (R.SEQ_HACT_WI_SEL x)
      let pin := t.getF p (R.SEQ_HACT_TO_SEL x)
      let at' := max o (32 * h) + 736
      let trig := t.isSet p (R.SEQ_HACT_TRIG x) || t.take.forced
      completesBefore (fun v => v.settleSeqs.settleHolds) .hiveExit s (fun v =>
        (v.seq 8).level = t.getF p (R.SEQ_COND_NEXT x) ∧ (v.seq 8).next = h + 1 ∧ (v.seq 8).entered = true
          ∧ v.getF p R.SEQ_STATUS_LEVEL = t.getF p (R.SEQ_COND_NEXT x) ∧ v.getF p R.SEQ_LAST_FROM = l
          ∧ v.getF p R.SEQ_LAST_EXIT = e ∧ v.getF p R.SEQ_LAST_TO = t.getF p (R.SEQ_COND_NEXT x)
          ∧ v.getPair p R.SEQ_LAST_ORIGIN_LO_ORIGIN R.SEQ_LAST_ORIGIN_HI_ORIGIN = o % 2 ^ 64
          ∧ t.counted v p R.SEQ_EXIT_COUNT_COUNT 1
          ∧ t.counted v p R.SEQ_TRIG_COUNT_COUNT (flag trig)
          ∧ (t.isSet p (R.SEQ_HACT_TRIG x) = true → t.take.firstTrigger = none →
            v.take.firstTrigger = some o ∧ v.sticky p 9 = true
              ∧ v.getPair p R.SEQ_TRIG_TIME_LO_TIME R.SEQ_TRIG_TIME_HI_TIME = o % 2 ^ 64)
          ∧ (t.getF p (R.SEQ_HACT_WINDOW x) = 1 → (8 * (o / 8), true) ∈ v.take.pauses
            ∧ (max (8 * (o / 8)) (32 * (h - 5)), true) ∈ v.take.scoutPauses)
          ∧ (t.getF p (R.SEQ_HACT_WINDOW x) = 2 → (8 * (o / 8), false) ∈ v.take.pauses
            ∧ (max (8 * (o / 8)) (32 * (h - 5)), false) ∈ v.take.scoutPauses)
          ∧ (t.getF p (R.SEQ_HACT_TO_OP x) ≠ 0 →
            let level := decide (t.getF p (R.SEQ_HACT_TO_OP x) ≠ 3)
            (sget (fun _ => (false, none)) v.trigOut pin).1 = level
              ∧ bitOf (v.getF p R.SEQ_STATUS_TOUT) pin = level
              ∧ ((sget (fun _ => (false, none)) t.trigOut pin).1 ≠ level →
                (∀ b, (sget (fun _ => (false, none)) t.trigOut pin).2 = some b → at' ≤ b) →
                Out.trigOut pin at' (Bool.xor level (t.isSet p (R.SEQ_TOUT_INVERT pin))) ∈ v.out)
              ∧ ∀ b, sget (fun _ => (false, none)) t.trigOut pin = (true, some b) → b < at' →
                Out.trigOut pin b (Bool.xor false (t.isSet p (R.SEQ_TOUT_INVERT pin))) ∈ v.out
                  ∧ (level = true → Out.trigOut pin at' (Bool.xor level (t.isSet p (R.SEQ_TOUT_INVERT pin))) ∈ v.out))
          ∧ (t.getF p (R.SEQ_HACT_AF_OP x) ≠ 0 → t.ringUp = true → t.afQueue.length < 16 →
            v.afQueue = t.afQueue ++ [⟨h + 23 + t.getF .ring R.RING_STATUS_AF_DELAY, t.getF p (R.SEQ_HACT_AF_SEL x),
              t.getF .ring R.RING_STATUS_POSITION, t.getF p (R.SEQ_HACT_AF_OP x), o⟩])
          ∧ (t.getF p (R.SEQ_HACT_WI_OP x) = 1 ∨ t.getF p (R.SEQ_HACT_WI_OP x) = 2 →
            ∃ b more, (v.seq 8).sent = b :: more ∧ b.beat = h + 20 ∧ bitOf b.value wi = true)
          ∧ (v.seq 8).flagState =
            (match t.getF p (R.SEQ_HACT_WI_OP x) with
              | 2 => withBit (t.seq 8).flagState wi true
              | 3 => withBit (t.seq 8).flagState wi false
              | _ => (t.seq 8).flagState)
          ∧ (t.take.forced = false → (t.seq 8).marks.length < 64 → (v.seq 8).marks =
            (if t.isSet p (R.SEQ_HACT_MARK_EN x) then
              (t.seq 8).marks ++ [⟨o, 5, 0xF, l <<< 12 ||| e <<< 10 ||| t.getF p (R.SEQ_HACT_MARK x), 0, 0, 0, t.segment⟩]
             else (t.seq 8).marks))
          ∧ (v.seq 8).timers =
            (t.setSeq 8 { t.seq 8 with timerOps := bitsOf (t.word (pageBase p + 0x40C + 0x10 * x)).toNat 11 0 }).hiveTimers
          ∧ (t.isSet p (R.SEQ_HACT_EVENT_EN x) = true → v.sticky p (t.getF p (R.SEQ_HACT_EVENT x)) = true)
          ∧ v.take.forced = false))
    ∧ (t.hiveExitAt h = none → t.hiveTimerRises = true →
      completesBefore (fun v => v.settleSeqs.settleHolds) .hiveTimerHit s (fun v =>
        (v.seq 8).level = l ∧ (v.seq 8).next = h + 1 ∧ (v.seq 8).entered = false
          ∧ (v.seq 8).timers = t.hiveTimers ∧ (v.seq 8).timerOps = 0
          ∧ (∀ n, n < 4 → (t.hiveTimers.getD n ⟨0, false, false⟩).value < 2 ^ 48 →
            v.getPair p (R.SEQ_HT_VAL_LO_VAL n) (R.SEQ_HT_VAL_HI_VAL n) = (t.hiveTimers.getD n ⟨0, false, false⟩).value
              ∧ v.getF p (R.SEQ_HT_STATUS_RUNNING n) = flag (t.hiveTimers.getD n ⟨0, false, false⟩).running)
          ∧ t.counted v p R.SEQ_TRIG_COUNT_COUNT (flag t.take.forced)))

/-- One mark is forwarded to the mark stream while no system record waits: the oldest of the sequencer whose turn it is, which then
waits 16 beats (R249, R298). SEQ_FORCE.TRIG waits for the next sample beat during a take and does nothing outside one
(R258). A level sampled at a TRIG_IN ball is kept with its tick (R252); a TRIG_OUT pulse falls at its end (R253). -/
def Obligations.MarksAndBallsOfTheTriggerPath : Prop :=
  (∀ (s : State) (u : Nat) (r : MarkRec) (rest : List MarkRec), s.take.system = [] → s.take.waiting = [] →
    (s.stream .mark).present = true → s.toMark.markTurn = some u → (s.seq u).marks = r :: rest → (s.seq u).dropped = none →
    s.takeState ≠ 4 → (s.stream .mark).marks.length < 126 →
    completes .markForward s (fun t =>
      (t.seq u).marks = rest ∧ (t.seq u).forwardAt = s.toMark.hiveTime + 512 ∧ t.take.turn = (u + 1) % 9
        ∧ t.getF (seqPage u) R.SEQ_MARKS_DEPTH = rest.length % 128
        ∧ (t.stream .mark).marks.length = (s.stream .mark).marks.length + 1
        ∧ t.hiveTime = s.toMark.hiveTime ∧ s.onlyChanges [.registers, .time, .sequencers, .take, .streams, .stores] t))
  ∧ (∀ s : State, completes .trig s (fun t =>
    t = (if s.taking then { s with take := { s.take with forced := true } } else s)))
  ∧ (∀ (s : State) (pin tick : Nat) (level : Bool), pin < 4 → s.pinLevel pin tick ≠ level →
    completes (.trigIn pin tick level) s (fun t =>
      t.pinLevel pin tick = level ∧ t.hiveTime = (s.advanceTo tick).hiveTime
        ∧ (∀ n, n ≠ pin → n < 4 → s.trigIn.length < 256 → t.pinLevel n tick = s.pinLevel n tick)
        ∧ s.onlyChanges [.time, .triggers] t))
  ∧ ∀ (s : State) (n a : Nat), n < 4 → (sget (fun _ => (false, none)) s.trigOut n).2 = some a →
    (sget (fun _ => (false, none)) s.trigOut n).1 = true → (s.hiveTime ≤ a ∧ a < 2 ^ 64) →
    completes (.trigOutPulseEnd n) s (fun t =>
      sget (fun _ => (false, none)) t.trigOut n = (false, none) ∧ bitOf (t.getF .hseq R.SEQ_STATUS_TOUT) n = false
        ∧ t.out = .trigOut n a (s.isSet .hseq (R.SEQ_TOUT_INVERT n)) :: s.out ∧ t.hiveTime = a
        ∧ s.onlyChanges [.registers, .time, .triggers, .sent] t)

/-- A lost sample beat of a super's sideband is counted in its direction and raised (R243), its flags count as 0, outbound HOLD
bits as 1, and the 1,024th in a row stops the take (R622); a run of lost beats has its WAGGLE_LOST record when flags are
received again (R297). A failed wire or clock pair leaves the link on the other, shown and raised (R32, R33).
Where the spec leaves it open, the model's own choices count
(log entry 126). -/
def Obligations.WaggleLossesAreCountedAndRecorded : Prop :=
  (∀ (s : State) (u beat : Nat) (outbound : Bool), s.has (.waggle u) = true → u ≠ 0 →
    let run := (s.side u).run outbound
    (∀ b n, run = some (b, n) → b + n = beat ∧ n < 1023) →
    completes (.waggleLost u outbound beat) s (fun t =>
      s.counted t (.waggle u) (if outbound then R.WAGGLE_LOST_OUT else R.WAGGLE_LOST_IN) 1
        ∧ t.sticky (.waggle u) (flag (!outbound)) = true
        ∧ (t.side u).run outbound = some (match run with | none => (beat, 1) | some (b, n) => (b, n + 1))
        ∧ (outbound = true → beat ∈ (t.side u).lostOut ∧ (t.side u).holdLost = true
          ∧ (t.sentBy u beat).value = 0)
        ∧ (outbound = false → beat ∈ (t.side u).lostIn ∧ t.inbound u beat = 0)
        ∧ s.onlyChanges [.registers, .events, .sidebands, .sent] t))
  ∧ (∀ (s : State) (u beat b : Nat) (outbound : Bool), s.has (.waggle u) = true → u ≠ 0 → s.taking = true →
    (s.side u).run outbound = some (b, 1023) → b + 1023 = beat →
    completes (.waggleLost u outbound beat) s (fun t =>
      t.getF .hive R.HIVE_BOOT_FAULT_STOP = 5 ∧ s.counted t .hive R.HIVE_RESET_COUNT_FAULT_STOPS 1
        ∧ (s.take.last = none → t.take.last = some (s.stopSlot, 5))))
  ∧ (∀ (s : State) (u tick b n : Nat) (outbound : Bool), s.has (.waggle u) = true →
    (s.side u).run outbound = some (b, n) →
    completes (.waggleFlagsReceivedAgain u outbound tick) s (fun t =>
      (t.side u).run outbound = none ∧ (outbound = true → (t.side u).holdLost = false)
        ∧ ((s.stream .mark).present = true → s.take.waiting = [] → s.take.system.length < 64 →
          t.take.system = s.take.system ++ [⟨32 * b, 0x0A, u, flag (!outbound), n, tick, 0, s.segment⟩])
        ∧ s.onlyChanges [.registers, .take, .sidebands] t))
  ∧ ∀ (s : State) (link : Nat), linkPresent s.fuse.part link = true →
    (completes (.waggleWireFail link) s (fun t =>
      t.getF .hive (R.HIVE_LINK_WSB_ONE link) = 1 ∧ bitOf (t.word 0x4244).toNat (3 * link + 2) = true
        ∧ s.keepsWordsRaising .events [pageBase .hive + (R.HIVE_LINK_WSB_ONE link).off] t
        ∧ s.onlyChanges [.registers, .events, .sent] t))
    ∧ (clockHop link = true → s.isSet .hive (R.HIVE_LINK_CLK_ONE link) = false →
      completes (.clockPairFail link) s (fun t =>
        t.getF .hive (R.HIVE_LINK_CLK_ONE link) = 1 ∧ bitOf (t.word 0x4244).toNat (3 * link + 2) = true
          ∧ s.keepsWordsRaising .events [pageBase .hive + (R.HIVE_LINK_CLK_ONE link).off] t
          ∧ s.onlyChanges [.registers, .events, .sent] t))

/-! ## Takes, the store and the Press (chapters 08 and 09) -/

/-- ARM (R264 to R267): with a check failed, or the plan refused by the Reeve, it is answered REFUSED and the take stays in its state,
the code and super shown in HIVE_TAKE_REFUSE; otherwise the take is ARMED, with PRE, POST and SEGS of the shadows, its ID, its
first slot by R265, and no stream or block of an earlier take.
STOP (R268, R270, R476, R477): it takes an ARMED take to STOPPED with reason HOST; in a take under way it fixes the last slot at
slot 3 of beat b + 16; otherwise it is answered NO_TAKE and has no effect.
Where the spec leaves it open, the model's own choices count
(log entries 29, 64, 65, 66, 67, 68, 70, 109). -/
def Obligations.ArmAndStopAreAnswered : Prop :=
  (∀ (s : State) (c : HostCmd) (rest : List HostCmd), s.commandReady 1 c rest →
        let id := ofLeBytes ((c.bytes.drop 0x10).take 4)
        let refused (code u : Nat) (t : State) : Prop :=
          t.getF .hive R.HIVE_TAKE_REFUSE_CODE = code % 256 ∧ t.getF .hive R.HIVE_TAKE_REFUSE_SUPER = u % 256
            ∧ t.sticky .hive 1 = true ∧ t.takeState = s.takeState ∧ s.answers t c rest 1 (code + 256 * u) []
            ∧ s.onlyChanges [.registers, .events, .host, .sent] t
        (∀ code u, s.armChecks = some (code, u) → completes .arm s (refused code u))
        ∧ (s.armChecks = none → s.powerAllows = false → completes .arm s (refused 12 15))
        ∧ (s.armChecks = none → s.powerAllows = true → completes .arm s (fun t =>
          t.takeState = 1 ∧ t.getF .hive R.HIVE_TAKE_ID_ID = id % 2 ^ 32 ∧ t.getF .hive R.HIVE_TAKE_TRIGS_COUNT = 0 ∧ t.segment = 0
            ∧ t.getPair .hive R.HIVE_TAKE_FIRST_LO_TIME R.HIVE_TAKE_FIRST_HI_TIME = 8 * s.firstSlot % 2 ^ 64
            ∧ s.firstSlot % 4 = 0 ∧ s.hiveTime + 51200 ≤ 8 * s.firstSlot ∧ s.startBound ≤ 8 * s.firstSlot
            ∧ t.pre = s.shadowPre ∧ t.post = s.shadowPair R.HIVE_TAKE_POST_LO_POST R.HIVE_TAKE_POST_HI_POST
            ∧ t.segments = s.getShadowF .hive R.HIVE_TAKE_SEGS_SEGS_M1 + 1
            ∧ t.take = { TakeSt.reset with
                begun := true, accepted := s.hiveTime, first := s.firstSlot, start := s.firstSlot, reader := s.reduced }
            ∧ (∀ i ∈ s.allStreams, t.stream i = .reset)
            ∧ (∀ u, u < s.fuse.part.supers → (t.store u).parts = [] ∧ (t.store u).owed = [] ∧ (t.store u).cut = [])
            ∧ t.sticky .hive 0 = true ∧ t.stopped = [] ∧ t.hiveTime = s.hiveTime
            ∧ s.answers t c rest 0 id (leBytes 8 s.hiveTime ++ leBytes 8 (8 * s.firstSlot)))))
  ∧ (∀ (s : State) (c : HostCmd) (rest : List HostCmd), s.commandReady 2 c rest →
        (s.takeState = 1 → completes .stop s (fun t =>
          t.takeState = 4 ∧ t.getF .hive R.HIVE_TAKE_STATE_REASON = 2 ∧ t.take.begun = false ∧ t.sticky .hive 3 = true
            ∧ s.answers t c rest 0 t.takeWord (leBytes 8 s.hiveTime ++ leBytes 8 0)))
        ∧ (s.taking = true → s.take.last = none → completes .stop s (fun t =>
          t.take = { s.take with last := some (4 * (s.hiveTime / 32 + 16) + 3, 2) }
            ∧ s.answers t c rest 0 s.takeWord (leBytes 8 s.hiveTime ++ leBytes 8 (32 * (s.hiveTime / 32 + 17)))
            ∧ s.onlyChanges [.registers, .take, .events, .host, .sent] t))
        ∧ (s.inTake = false → completes .stop s (fun t =>
          s.answers t c rest 2 0 [] ∧ s.onlyChanges [.registers, .events, .host, .sent] t)))

/-- The take's first slot (R255, R263, R285, R297): the take is RUNNING, every stream that the settings call for opens at its tick,
sequencers start at their START_LEVEL, TRIG counts are 0, and TAKE_START is the first record. Its segment's and its own last
slot (R263, R268, R276): SEGMENT records become due for every super, and the next segment begins in RUNNING, or the take
is STOPPED with its reason and its end shown.
Where the spec leaves it open, the model's own choices count
(log entries 44, 69, 71, 72, 73, 74). -/
def Obligations.TakesBeginAndEnd : Prop :=
  ∀ (s : State),
    (s.takeState = 1 → s.hiveTime ≤ 8 * s.take.first → 8 * s.take.first < 2 ^ 64 → s.take.system = [] → s.take.waiting = [] →
      (∀ u, u < s.fuse.part.supers → (s.advanceTo (8 * s.take.first)).intakeOff u = false ∧ s.storeDisabled u = false) →
      completes .takeFirstSlot s (fun t =>
        t.takeState = 2 ∧ t.hiveTime = 8 * s.take.first
          ∧ t.getF .hseq R.SEQ_TRIG_COUNT_COUNT = 0
          ∧ t.getPair .hseq R.SEQ_TRIG_TIME_LO_TIME R.SEQ_TRIG_TIME_HI_TIME = 0
          ∧ (∀ i ∈ s.allStreams, (t.stream i).present = s.streamWanted i ∧ (t.stream i).first = 8 * s.take.first
            ∧ (t.stream i).seq = 0 ∧ (t.stream i).hole = none)
          ∧ (∀ u, u = 8 ∨ u < s.fuse.part.supers →
            (t.seq u).running = true ∧ (t.seq u).level = s.getF (seqPage u) R.SEQ_CTRL_START_LEVEL
              ∧ (t.seq u).next = (if u = 8 then s.take.first / 4 else s.take.first) ∧ (t.seq u).marks = []
              ∧ (t.seq u).flagState = 0)
          ∧ ∃ r, t.take.system = [r] ∧ r.type = 1 ∧ r.time = 8 * s.take.first ∧ r.a32 = s.getF .hive R.HIVE_TAKE_ID_ID
            ∧ r.t2 = s.take.accepted ∧ r.a64 = s.pre))
    ∧ (∀ n e, s.segmentEnding = some (n, e) → s.taking = true → completes .segmentEnd s (fun t =>
      t.takeState = 2 ∧ t.segment = (s.segment + 1) % 2 ^ 16 ∧ t.take.start = n + 1 ∧ t.take.kept = none
        ∧ t.take.segLast = none ∧ t.sticky .hive 2 = true
        ∧ ∀ u, u < s.fuse.part.supers →
          (⟨s.segment, 8 * (n + 1), e, s.take.kept⟩ : OwedSegment) ∈ (t.store u).owed))
    ∧ (∀ n r, s.segmentEnding = none → s.take.last = some (n, r) → s.taking = true → completes .takeLastSlot s (fun t =>
      t.takeState = 4 ∧ t.getF .hive R.HIVE_TAKE_STATE_REASON = r % 16
        ∧ t.getPair .hive R.HIVE_TAKE_END_LO_TIME R.HIVE_TAKE_END_HI_TIME = 8 * (n + 1) % 2 ^ 64
        ∧ t.sticky .hive 2 = true ∧ t.sticky .hive 3 = true
        ∧ t.getF .reeve R.REEVE_STATUS_POWER_STOP = (if r = 4 then 1 else 0)))

/-- Records, cuts, holes and losses of the streams: a SEGMENT record is written once its blocks have reached DRAM (R297); a block
whose data does not fit is cut and handed on, and the next begins where it ends (R288, R289); a lost hole ends at slot 0 of
a beat with its length in the next block (R293); the store's loss ends with a STORE_LOSS record (R295); the open M block is
cut when its oldest record has waited AGE_US (R298).
Where the spec leaves it open, the model's own choices count
(log entries 75, 76, 77, 78). -/
def Obligations.StreamsKeepTheirRecords : Prop :=
  ∀ (s : State),
    (∀ u o rest, u < s.fuse.part.supers → (s.store u).owed = o :: rest → s.pendingBlocks u o.segment = false →
      (s.stream .mark).present = true → s.take.waiting = [] → s.take.system.length < 64 →
      completes (.segmentRecord u) s (fun t =>
        let p := (s.store u).part o.segment
        (t.store u) = { s.store u with owed := rest }
          ∧ t.take.system = s.take.system ++ [⟨o.time, 4, u, o.ending, o.segment, oldestKept o.kept p, p.next, s.segment⟩]
          ∧ s.onlyChanges [.registers, .take, .stores] t))
    ∧ (∀ u f tick fit, s.has (.frame u f) = true → (s.stream (.frame u f)).present = true →
      (s.stream (.frame u f)).hole = none → s.storeLost u = false →
      let i := StreamId.frame u f
      let t := s.catchUp u f
      let r := t.cutFrame u f (max 8 fit) (max (t.stream i).first (min (tick / 8 * 8) (8 * (t.frame u f).next))) false
      r.1 = false → (r.2.stream i).first ≠ (t.stream i).first →
      completes (.blockCut i tick fit) s (fun v =>
        (v.stream i).gap = 0
          ∧ (v.stream i).slots = (t.stream i).slots.filter (fun x => decide ((v.stream i).first ≤ 8 * x.n))
          ∧ (s.codingOf i = 0 → ∃ b, (v.store u).out = (t.store u).out ++ [b] ∧ b.first = (t.stream i).first
            ∧ b.stop = (v.stream i).first ∧ b.stream = streamNumber i ∧ b.segment = (t.stream i).segment)
          ∧ (s.codingOf i ≠ 0 → ∃ b, (v.store u).cut = (t.store u).cut ++ [b] ∧ b.first = (t.stream i).first
            ∧ b.stop = (v.stream i).first ∧ b.stream = i ∧ b.segment = (t.stream i).segment)))
    ∧ (∀ i h tick, (s.stream i).hole = some (h, false) → (s.stream i).present = true → tick % 32 = 0 → h ≤ tick →
      s.builderAt i ≤ tick → s.stopped.any (fun e => e.1 == streamSuper i) = false →
      completes (.holeEnd i tick) s (fun t =>
        (t.stream i).hole = none ∧ (t.stream i).first = tick ∧ (t.stream i).gap = tick - h ∧ (t.stream i).chosen = false
          ∧ (∀ u f, i = .frame u f → s.counted t (.frame u f) R.FRAME_STORE_LOST_COUNT ((tick - h) / 8))
          ∧ s.onlyChanges [.registers, .streams] t))
    ∧ (∀ u a cause tick, (s.store u).lossFrom = some (a, cause) → s.taking = true → a < tick → s.storeDisabled u = false →
      completes (.storeLoss u tick) s (fun t =>
        (t.store u).lossFrom = none
          ∧ ((s.stream .mark).present = true → u ≠ 0 → s.take.waiting = [] → s.take.system.length < 60 →
            ∃ r, t.take.system.getLast? = some r ∧ r.type = 0x0B ∧ r.super = u ∧ r.time = a ∧ r.a16 = cause ∧ r.t2 = tick)))
    ∧ ((s.stream .mark).present = true → (s.stream .mark).marks ≠ [] → s.storeLost 0 = false →
      let at' := (s.stream .mark).markSince + max 1 (s.getF .hive R.HIVE_TAKE_MARK_AGE_US) * 12800
      s.hiveTime ≤ at' → at' < 2 ^ 64 → at' ≤ (s.stream .mark).first + 2 ^ 31 - 1 →
      completes .mBlockAge s (fun t =>
        (t.stream .mark).marks = [] ∧ (t.stream .mark).first = at' ∧ t.hiveTime = at'
          ∧ ∃ b, (t.store 0).out = (s.store 0).out ++ [b] ∧ b.stream = 0x3000 ∧ b.first = (s.stream .mark).first
            ∧ b.stop = at' ∧ b.bytes.drop 64 = (s.stream .mark).marks.flatMap markBytes))

/-- PRESS_BLOCK (R306, R312 to R314, R327, R335): the oldest block of the lane leaves the wait, and is stored coded at the level
wanted or the slip limit when the decoder gives the raw words back and coding gains more than 64 bytes; it is stored raw
and counted RAWN when it does not gain, and RAWV, with the mismatch raised, when the decoder does not give it back.
Where the spec leaves it open, the model's own choices count
(log entries 60, 61, 62, 79, 80, 81). -/
def Obligations.PressCodesVerifiesAndStores : Prop :=
  ∀ (s : State) (u : Nat) (sLane : Bool) (lengths : List Nat) (coded : Option (List Nat)) (b : CutBlock) (rest : List CutBlock),
    s.has (.press u) = true → takeCut (!sLane) (s.store u).cut = some (b, rest) → streamSuper b.stream = u →
    s.codingOf b.stream = 1 → s.lossySettings b.stream = (0, 0) →
    let p := Page.press u
    let isF := isFrameStream b.stream
    let raw := b.rawPayload
    let wanted := s.pressWanted u isF
    let level := if isF then min wanted (s.slipLimit u (s.backlogBytes u)) else wanted
    let payload := coded.getD (encodePress isF level b.base raw.1 raw.2 [])
    let good : Prop := decodePayload isF false level b.base raw.1 raw.2.length payload = some (raw.2, [])
    let gains : Prop := 4 * payload.length + 64 < 4 * raw.2.length ∧ payload.length ≤ 1008
    let all (t : State) : Prop := (t.store u).cut = rest
      ∧ (isF = true → t.getF p R.PRESS_STATUS_LAST_LEVEL = level % 16)
      ∧ (isF = true → s.counted t p R.PRESS_SLIPPED_COUNT (if level < wanted then 1 else 0))
    let storedRaw (t : State) : Prop := ∃ l : List OutBlock, (t.store u).out = (s.store u).out ++ l
      ∧ l.map (fun o => (o.first, o.stop)) = (rawPieces 1008 b).map (fun o => (o.first, o.stop))
    (good → gains → completes (.pressBlock u sLane lengths coded []) s (fun t => all t
      ∧ s.counted t p R.PRESS_CODED_COUNT 1
      ∧ ∃ h, (t.store u).out = (s.store u).out
          ++ [⟨b.segment, b.first, b.stop, streamNumber b.stream, headerBytes h (wordBytes payload) ++ wordBytes payload,
            b.poison.map (8 + ·)⟩]
        ∧ h.coding = 1 ∧ h.level = level ∧ h.rawLen = 4 * raw.2.length ∧ h.first = b.first ∧ h.span = b.stop - b.first
        ∧ h.seq = (s.stream b.stream).seq ∧ h.takeId = s.getF .hive R.HIVE_TAKE_ID_ID))
    ∧ (good → ¬ gains → completes (.pressBlock u sLane lengths coded []) s (fun t => all t
      ∧ s.counted t p R.PRESS_RAWN_COUNT 1 ∧ storedRaw t))
    ∧ (¬ good → completes (.pressBlock u sLane lengths coded []) s (fun t => all t
      ∧ s.counted t p R.PRESS_RAWV_COUNT 1 ∧ t.sticky p 0 = true
      ∧ t.getF p R.PRESS_RAWV_AT_STREAM_ID = streamNumber b.stream % 2 ^ 16
      ∧ t.getF p R.PRESS_RAWV_SEQ_SEQ = (s.stream b.stream).seq % 2 ^ 32 ∧ storedRaw t))

/-- A block coded with the static table decodes to its words (R325 to R329, R335): the decoder gives back every raw payload whose
bitstream has the length that the container word can state.
Where the spec leaves it open, the model's own choices count
(log entry 62). -/
def Obligations.StaticTableBlocksDecodeToTheirWords : Prop :=
  ∀ (isF : Bool) (level base firstRun : Nat) (raw : List Nat), (∀ w ∈ raw, w < 2 ^ 32) →
    ((wordBytes raw).flatMap (tableBits (canonicalCodes staticLengths))).length < 2 ^ 16 →
    decodePayload isF true level base firstRun raw.length (encodeTable none raw) = some (raw, [])

/-! ## Queues and DRAM (chapters 10 to 12) -/

/-- A push joins the end of a queue that has room and stores its words in on-chip memory, changing no other byte (R339, R342); a
full queue refuses it, keeps what it holds, and counts the run once (R348). The blocks of a super enter its super queue
entry by entry (R339).
A pop takes the oldest entry, with its uncorrectable words delivered poisoned and counted (R339, R341); from an empty queue it
is counted as an underflow. The DRAM writer takes a whole block from the super queue to the next block slot of its
segment's part, its pieces joining the write queues of the four subchannels (R278, R299, R366).
Where the spec leaves it open, the model's own choices count
(log entries 67, 84). -/
def Obligations.QueuesTakeAndGiveInOrder : Prop :=
  (∀ (s : State) (q : QueueId) (words : List DWord) (left beat : Nat), s.hasQueue q = true →
        let x := s.queue q
        let e := (x.head + x.entries.length) % nominalEntries q
        let enters (v : List Nat) (last : Bool) (t : State) : Prop :=
          (t.queue q).entries = x.entries ++ [⟨v, last⟩] ∧ (t.queue q).head = x.head
            ∧ t.getF (queuePage q) R.QUEUE_DEPTH_DEPTH = (x.depth + v.length) % 2 ^ 18
            ∧ (∀ u off, u ≠ queueSuper q ∨ (∀ w, w < v.length → off < queueWordAt q e w ∨ queueWordAt q e w + 8 ≤ off) →
              off < 0x800000 → t.sramByte u off = s.sramByte u off)
        let refused (t : State) : Prop :=
          (t.queue q).entries = x.entries ∧ (t.queue q).refusing = true
            ∧ s.counted t (queuePage q) R.QUEUE_FULL_HITS_COUNT (flag (!x.refusing))
        ((∀ u, q ≠ .super u 0) → q ≠ .hive 1 → words.length = entryWords q →
          (queueStream q = none ∨ x.atStart = false ∨ x.depth + words.length + left ≤ usableWords q) →
          (s.queueFull q = false → completes (.queuePush q words left beat) s (enters (words.map BitVec.toNat) (left == 0)))
          ∧ (s.queueFull q = true → completes (.queuePush q words left beat) s refused))
        ∧ ∀ u b rest, q = .super u 0 → (s.store u).out = b :: rest → (s.store u).pushed < 64 →
          (s.queueFull q = false → completes (.queuePush q words left beat) s (fun t =>
            enters ((List.range 8).map (fun i => b.word (8 * (s.store u).pushed + i))) ((s.store u).pushed == 63) t
              ∧ (t.store u).out = (if (s.store u).pushed = 63 then rest else b :: rest)
              ∧ (t.store u).pushed = (if (s.store u).pushed = 63 then 0 else (s.store u).pushed + 1)
              ∧ (t.store u).queued = (s.store u).queued ++ (if (s.store u).pushed = 63 then [b] else [])))
          ∧ (s.queueFull q = true → completes (.queuePush q words left beat) s (fun t =>
            refused t ∧ (t.store u).out = b :: rest ∧ (t.store u).pushed = (s.store u).pushed)))
  ∧ ((∀ (s : State) (q : QueueId) (bad : Nat), s.hasQueue q = true →
        let x := s.queue q
        (∀ e rest, x.entries = e :: rest → (∀ u, q ≠ .super u 0) → q ≠ .hive 1 → bad < 2 ^ e.words.length →
          completes (.queuePop q 0 bad) s (fun t =>
            (t.queue q).entries = rest ∧ (t.queue q).head = (x.head + 1) % nominalEntries q
              ∧ s.counted t (queuePage q) R.QUEUE_ECC_UNCORR (bitsSet e.words.length bad).length
              ∧ s.counted t (.sram (queueSuper q)) R.SRAM_ECC_UE (bitsSet e.words.length bad).length
              ∧ s.onlyChanges [.registers, .queues, .events, .sent] t))
        ∧ (x.entries = [] → completes (.queuePop q 0 bad) s (fun t =>
          (t.queue q).entries = [] ∧ s.counted t (queuePage q) R.QUEUE_UNDERFLOW_COUNT 1)))
      ∧ ∀ (s : State) (u : Nat) (b : OutBlock) (rest : List OutBlock), u < s.fuse.part.supers → s.writerReady u = true →
        (s.store u).queued = b :: rest → b.givenUp = false → b.poison = [] → (s.store u).popped = 0 → (s.store u).popBad = [] →
        64 ≤ (s.queue (.super u 0)).entries.length → s.layout u = 3 →
        let p := (s.store u).part b.segment
        completes (.dramWriterPop u 0 0) s (fun t =>
          (t.store u).queued = rest ∧ (t.queue (.super u 0)).entries = (s.queue (.super u 0)).entries.drop 64
            ∧ ((t.store u).part b.segment).written = p.written.filter (fun r => !(r.slot == p.next)) ++ [⟨p.next, b.first, b.stop⟩]
            ∧ ((t.store u).part b.segment).next =
              (if p.next + 1 < b.segment * (s.store u).partSize + (s.store u).partSize then p.next + 1
               else b.segment * (s.store u).partSize)
            ∧ (∀ k sub, k < 2 → sub < 2 → ((t.chan u k).sub sub).wq.length = ((s.chan u k).sub sub).wq.length + 4)
            ∧ ∀ i, i < 4096 →
              let a := pieceAt 3 p.next (i / 256)
              t.dramByte u a.1 a.2.1 a.2.2 (i % 256) = (blockBytes b).getD i 0))

/-- DRAM_ACCESS (R369, R375, R386, R388): in WRITE mode a queued write of whole words goes to the DRAM, which then reads as the
bytes written and is otherwise unchanged; in READ mode a read is issued and served, and changes no byte. SCRUB_READ goes
through the pieces in turn (R377). A port that has reached MAX in a bank is held, counted once a window (R386); the window
ends at a multiple of WIN_US with every count 0; a row at THRESH has its neighbours refreshed, its count 0, and the tables
are cleared each refresh window (R388, R389).
Where the spec leaves it open, the model's own choices count
(log entry 85). -/
def Obligations.DramAccessesAreScheduledAndCounted : Prop :=
  ∀ (s : State) (u k sub port piece : Nat), s.has (.dram u k) = true → sub < 2 →
    let p := Page.dram u k
    let x := s.chan u k
    let bank := (bankOf (s.rankBits u k) piece).index
    (∀ q, s.chanIssues u k = true → (x.sub sub).wq.find? (fun q => q.piece == piece) = some q →
      (∀ port' bank', s.portHeld u k sub port' bank' = false) → s.dueRows u k sub bank = [] →
      (((s.settleMode u k sub true).chan u k).sub sub).writing = true → q.start % 8 = 0 → q.bytes.length % 8 = 0 →
      q.start + q.bytes.length ≤ 256 → q.poison = [] →
      completes (.dramAccess u k sub true port piece [] 0) s (fun t =>
        ((t.chan u k).sub sub).wq = (x.sub sub).wq.erase q
          ∧ (∀ i, i < q.bytes.length → t.dramStored u k sub (256 * piece + q.start + i) = q.bytes.getD i 0)
          ∧ (∀ off, off < 256 * piece + q.start ∨ 256 * piece + q.start + q.bytes.length ≤ off → off < 2 ^ 37 →
            t.dramStored u k sub off = s.dramStored u k sub off)
          ∧ s.onlyChanges [.registers, .channels, .dram] t))
    ∧ (s.chanIssues u k = true → 1 ≤ port → port ≤ 4 → (x.sub sub).wq = [] → (x.sub sub).rq = [] → x.flaws = [] →
      (∀ port' bank', s.portHeld u k sub port' bank' = false) → s.dueRows u k sub bank = [] →
      (s.isSet p R.DRAM_PANIC_STAT_PANIC = false) → s.getF p R.DRAM_SCHED_WR_HI ≠ 0 →
      completes (.dramAccess u k sub false port piece [] 0) s (fun t =>
        ((t.chan u k).sub sub).rq = [] ∧ ((t.chan u k).sub sub).writing = false
          ∧ (t.actsOf u k sub port bank = s.actsOf u k sub port bank + 1) ∧ t.dram = s.dram
          ∧ s.onlyChanges [.registers, .channels, .host] t)
      ∧ (s.isSet p R.DRAM_SCRUB_EN = true → s.isSet p R.DRAM_SCRUB_PACE = true → s.isSet p R.DRAM_KNOBS_SCRUB_PAUSED = false →
        let at' := (x.sub sub).scrubAt
        s.dueRows u k sub (bankOf (s.rankBits u k) at').index = [] →
        completes (.scrubRead u k sub []) s (fun t =>
          ((t.chan u k).sub sub).scrubAt = (if at' + 1 < s.subPieces u k then at' + 1 else 0) ∧ t.dram = s.dram
            ∧ s.onlyChanges [.registers, .channels, .host] t)))
    ∧ (∀ b, s.portHeld u k sub port b = true → bitOf x.heldNow port = false →
      completes (.portHeld u k sub port b) s (fun t =>
        s.counted t p (heldField port) 1 ∧ bitOf (t.chan u k).heldNow port = true
          ∧ (x.heldNow = 0 → x.heldBefore = 0 → t.sticky p 2 = true) ∧ s.onlyChanges [.registers, .channels, .events, .sent] t))
    ∧ completes (.actWindow u k) s (fun t =>
      (t.chan u k).subA.acts = [] ∧ (t.chan u k).subB.acts = [] ∧ (t.chan u k).heldBefore = x.heldNow
        ∧ (t.chan u k).heldNow = 0 ∧ (s.hiveTime < 2 ^ 63 → t.hiveTime % s.actWindow u k = 0)
        ∧ s.onlyChanges [.registers, .time, .channels] t)
    ∧ completes (.rhTableClear u k) s (fun t =>
      t.chan u k = { x with subA := { x.subA with rows := [] }, subB := { x.subB with rows := [] } }
        ∧ s.onlyChanges [.registers, .channels] t)
    ∧ ∀ b row n, s.chanState u k = 4 → (sget (fun _ => []) (x.sub sub).rows b).find? (fun e => e.1 == row) = some (row, n) →
      s.rhThresh u k ≤ n →
      let directed := s.isSet p R.DRAM_RH_CTRL_USE_DRFM && s.isSet p R.DRAM_CFG_DRFM
      completes (.neighbourRefresh u k sub b row) s (fun t =>
        s.counted t p (if directed then R.DRAM_RH_COUNT_DRFM else R.DRAM_RH_COUNT_RFM) 1
          ∧ (∀ c, (row, c) ∈ sget (fun _ => []) ((t.chan u k).sub sub).rows b → c = 0)
          ∧ t.out = .dramCommand u k (if directed then 3 else 2) [sub, b, if directed then row else 0] :: s.out
          ∧ s.onlyChanges [.registers, .channels, .sent] t)

/-- Refresh, MR4, power and command errors: a refresh interval is issued, or postponed in panic up to 4 owed and then forced
(R378, R382); MR4 shows its code and asks for HOT above 85 °C (R380); a rank goes to power-down and a channel to self-refresh
where nothing blocks it, and leaves it with MR4 due (R383 to R385); ALERT_n stops the channel, its release begins a replay,
and acknowledged commands leave the retry buffer (R410 to R412).
Where the spec leaves it open, the model's own choices count
(log entries 86, 87, 88, 99). -/
def Obligations.RefreshPowerAndReplay : Prop :=
  ∀ (s : State) (u k : Nat), s.has (.dram u k) = true →
    let p := Page.dram u k
    let x := s.chan u k
    let owed := s.getF p R.DRAM_REF_STATUS_OWED
    (s.chanState u k = 4 → s.inSelfRefresh u k = false →
      (s.isSet p R.DRAM_PANIC_STAT_PANIC = false → completes (.refresh u k) s (fun t =>
        t.getF p R.DRAM_REF_STATUS_HOT = flag x.hotNext ∧ t.getF p R.DRAM_REF_STATUS_OWED = owed
          ∧ t.out.length = s.out.length + (if s.rankBits u k = 1 then 16 else 8)))
      ∧ (s.isSet p R.DRAM_PANIC_STAT_PANIC = true → owed < 4 → completes (.refresh u k) s (fun t =>
        t.getF p R.DRAM_REF_STATUS_OWED = owed + 1 ∧ s.counted t p R.DRAM_REF_COUNT_POSTPONED 1 ∧ t.out = s.out))
      ∧ (s.isSet p R.DRAM_PANIC_STAT_PANIC = true → 4 ≤ owed → completes (.refresh u k) s (fun t =>
        t.getF p R.DRAM_REF_STATUS_OWED = owed ∧ s.counted t p R.DRAM_REF_COUNT_FORCED 1 ∧ t.sticky p 3 = true))
      ∧ (∀ code above, completes (.mr4Read u k code above) s (fun t =>
        t.getF p R.DRAM_REF_STATUS_MR4 = code % 8 ∧ t.getF p R.DRAM_REF_STATUS_ASSUMED = 0
          ∧ (t.chan u k).mr4Due = false
          ∧ (above = true → (t.chan u k).hotNext = true ∧ (x.hotNext = false → t.sticky p 1 = true))
          ∧ (above = false → x.coolReads = 0 → (t.chan u k).hotNext = x.hotNext)
          ∧ (above = false → 1 ≤ x.coolReads → (t.chan u k).hotNext = false)
          ∧ (s.getF p R.DRAM_REF_STATUS_MR4 ≠ code % 8 → (t.chan u k).slotWanted = true)))
      ∧ (∀ sub rank, sub < 2 → s.isSet p R.DRAM_PD_PD_EN = true → rank ≤ s.rankBits u k → rank ∉ (x.sub sub).down →
        completes (.powerDown u k sub rank) s (fun t =>
          rank ∈ ((t.chan u k).sub sub).down ∧ t.out = .dramCommand u k 6 [sub, rank] :: s.out
            ∧ s.onlyChanges [.registers, .channels, .sent] t))
      ∧ (s.inTake = false → 2 ≤ s.tolerance u k → (s.advanceTo (s.idleAt u k)).blockOther u k = false →
        completes (.selfRefreshEntry u k) s (fun t =>
          t.getF p R.DRAM_LTR_STATUS_SR = 1 ∧ t.out = .dramCommand u k 4 [] :: s.out
            ∧ t.hiveTime = (s.advanceTo (s.idleAt u k)).hiveTime ∧ s.onlyChanges [.registers, .time, .sent] t)))
    ∧ (s.inSelfRefresh u k = true → completes (.selfRefreshExit u k) s (fun t =>
      t.getF p R.DRAM_LTR_STATUS_SR = 0 ∧ t.chan u k = { x with mr4Due := true }
        ∧ t.out = .dramCommand u k 5 [] :: s.out ∧ s.onlyChanges [.registers, .channels, .sent] t))
    ∧ (s.chanState u k = 4 → x.alert = false → x.periodic = 0 →
      (x.replaying = false → completes (.alertN u k) s (fun t =>
        t.chan u k = { x with alert := true } ∧ s.onlyChanges [.registers, .channels] t))
      ∧ (x.replaying = true → x.failedRun < 2 → completes (.alertN u k) s (fun t =>
        t.chan u k = { x with alert := true, failedRun := x.failedRun + 1 } ∧ s.counted t p R.DRAM_CA_FAILED_REPLAYS 1))
      ∧ (x.replaying = true → 2 ≤ x.failedRun → completes (.alertN u k) s (fun t =>
        t.chanState u k = 5 ∧ t.getF p R.DRAM_FAIL_CAUSE = 2 ∧ t.sticky p 7 = true)))
    ∧ (x.alert = true → completes (.alertNRelease u k) s (fun t =>
      (¬ (x.subA.retry = [] ∧ x.subB.retry = []) → t.chan u k = { x with alert := false, replaying := true })
        ∧ (x.subA.retry = [] → x.subB.retry = [] →
          t.chan u k = { x with alert := false, replaying := false, failedRun := 0 })
        ∧ s.counted t p R.DRAM_CA_REPLAYS 1 ∧ t.sticky p 6 = true
        ∧ t.out.length = s.out.length + 2 + x.subA.retry.length + x.subB.retry.length
        ∧ s.onlyChanges [.registers, .channels, .events, .sent] t))
    ∧ ∀ sub, sub < 2 → x.alert = false → completes (.commandAcknowledged u k sub) s (fun t =>
      ((t.chan u k).sub sub).retry = (x.sub sub).retry.drop 1
        ∧ (x.replaying = true → (x.setSub sub { x.sub sub with retry := (x.sub sub).retry.drop 1 }).subA.retry = [] →
          (x.setSub sub { x.sub sub with retry := (x.sub sub).retry.drop 1 }).subB.retry = [] →
          (t.chan u k).replaying = false ∧ (t.chan u k).failedRun = 0)
        ∧ s.onlyChanges [.registers, .channels] t)

/-- Training (R393 to R403, R578): RETRAIN begins at step 1 with its queues empty, or is refused in a take or while one runs; an
identified module, and each step with a window of 8 or more, leads to the next step, and step 7 to CLEARING; a step without
a setting is tried again; a cleared channel is READY with every byte zero. Periodic retraining waits for a slot, runs in
it, and may be abandoned; a frequency change that it holds is released.
A super with a failed channel goes over to the layout of the channels that it has left (R415 to R418): every queued request is
thrown away, and during a take the loss is recorded and every segment's part begins anew.
Where the spec leaves it open, the model's own choices count
(log entries 12, 89, 112). -/
def Obligations.TrainingGoesStepByStep : Prop :=
  (∀ (s : State) (u k : Nat), s.has (.dram u k) = true →
        let p := Page.dram u k
        let x := s.chan u k
        let step := s.getF p R.DRAM_TRAIN_STATUS_STEP
        let busy : Prop := s.chanState u k = 1 ∨ s.chanState u k = 2 ∨ s.chanState u k = 3
        (s.inTake = true ∨ busy → completes (.retrain u k) s (fun t =>
            t.getF p R.DRAM_TRAIN_CTRL_RETRAIN_REFUSED = 1 ∧ s.keepsWords [pageBase p + R.DRAM_TRAIN_CTRL_RETRAIN_REFUSED.off] t
              ∧ s.onlyChanges [.registers] t))
        ∧ (s.inTake = false → ¬ busy → completes (.retrain u k) s (fun t =>
          t.chanState u k = 1 ∧ t.getF p R.DRAM_TRAIN_STATUS_STEP = 1 ∧ t.getF p R.PAGE_STATUS_READY = 0
            ∧ (t.chan u k).subA.wq = [] ∧ (t.chan u k).subB.rq = [] ∧ (t.chan u k).startup = false ∧ (t.chan u k).flaws = []))
        ∧ (s.bootOver → x.periodic = 0 → s.chanState u k = 2 → x.restart = false → s.isSet p R.DRAM_CFG_GRADE = true →
          (∀ r, step = 2 → completes (.trainingStepDone u k r) s (fun t =>
            t.chanState u k = 2 ∧ t.getF p R.DRAM_TRAIN_STATUS_STEP = 3))
          ∧ (∀ w, 3 ≤ step → step ≤ 7 → 8 ≤ w → w < 256 → completes (.trainingStepDone u k (.found w)) s (fun t =>
            t.chanState u k = (if step = 7 then 3 else 2) ∧ t.getF p R.DRAM_TRAIN_STATUS_STEP = step + 1
              ∧ t.getF p R.DRAM_TRAIN_STATUS_TRIES = 0 ∧ (step = 6 → t.getF p R.DRAM_EYE_READ_MIN = w)
              ∧ (step = 7 → t.getF p R.DRAM_EYE_WRITE_MIN = w)))
          ∧ (∀ r, windowOf r = none → (∀ d, r ≠ .identified d) → 3 ≤ step → step ≤ 7 → s.getF p R.DRAM_TRAIN_STATUS_TRIES < 2 →
            completes (.trainingStepDone u k r) s (fun t =>
              t.getF p R.DRAM_TRAIN_STATUS_TRIES = s.getF p R.DRAM_TRAIN_STATUS_TRIES + 1
                ∧ t.getF p R.DRAM_TRAIN_STATUS_STEP = step ∧ s.counted t p R.DRAM_TRAIN_COUNT_NO_SETTING 1)))
        ∧ (∀ d, s.bootOver → x.periodic = 0 → s.chanState u k = 1 → step = 1 → dimmFits d = true → s.chanState u (1 - k) = 1 →
          completes (.trainingStepDone u k (.identified (some d))) s (fun t =>
            t.chanState u k = 2 ∧ t.getF p R.DRAM_TRAIN_STATUS_STEP = 2 ∧ (t.chan u k).dimm = some d
              ∧ t.getF p R.DRAM_CFG_CAP_GIB = dimmGib d % 256 ∧ t.getF p R.DRAM_CFG_DENSITY = d.density
              ∧ t.getF p R.DRAM_CFG_RANKS = d.ranks))
        ∧ (s.bootOver → s.chanState u k = 3 → x.restart = false → completes (.clearingDone u k) s (fun t =>
          t.chanState u k = 4 ∧ t.getF p R.DRAM_TRAIN_STATUS_STEP = 0 ∧ t.getF p R.PAGE_STATUS_READY = 1
            ∧ (∀ sub off, sub < 2 → off < 2 ^ 37 → t.dramStored u k sub off = 0) ∧ (t.chan u k).flaws = []
            ∧ (x.startup = false → t.sticky p 7 = true)))
        ∧ (s.chanState u k = 4 → s.isSet p R.DRAM_TRAIN_PERIOD_PERIOD_MS = true → x.slotWanted = false →
          completes (.periodicRetrain u k) s (fun t =>
            t.chan u k = { x with slotWanted := true }
              ∧ s.counted t .reeve R.REEVE_TRAIN_WAITED (flag (!s.slotFree u)) ∧ s.onlyChanges [.registers, .channels] t))
        ∧ (x.slotWanted = true → s.chanState u k = 4 → s.slotFree u = true → completes (.trainingSlotGrant u k) s (fun t =>
          t.chan u k = { x with slot := true, slotWanted := false, periodic := 1 }
            ∧ t.getF p R.DRAM_TRAIN_STATUS_PERIODIC = 1 ∧ s.counted t .reeve R.REEVE_TRAIN_GRANTED 1))
        ∧ completes (.trainingSlotEnd u k) s (fun t =>
          t.chan u k = { x with slot := false } ∧ s.onlyChanges [.registers, .channels] t)
        ∧ (x.periodic ≠ 0 → completes (.periodicStepAbandon u k) s (fun t =>
          t.chan u k = { x with periodic := 0 } ∧ t.getF p R.DRAM_TRAIN_STATUS_PERIODIC = 0
            ∧ s.counted t p R.DRAM_TRAIN_COUNT_ABANDONED 1 ∧ s.onlyChanges [.registers, .channels] t))
        ∧ (let q := Page.spll u 2
          s.gatherHold q = true → s.isSet q R.COMMIT_COMMIT = true → s.isSet q R.SHADOW_STATUS_COMMIT_WAIT = true →
          s.isSet q R.SHADOW_STATUS_HELD = false → (s.pll q).relock = false →
          completes (.frequencyChangeRelease q) s (fun t =>
            t.getF q R.SHADOW_STATUS_COMMIT_WAIT = 0
              ∧ (∀ j, j < 2 → s.chanState u j = 4 → (t.chan u j).periodic = 0)
              ∧ (s.chanState u 0 = 2 → (t.chan u 0).restart = true) ∧ (s.chanState u 1 = 2 → (t.chan u 1).restart = true))))
  ∧ (∀ (s : State) (u : Nat), u < s.fuse.part.supers → (s.store u).switchOwed = true → s.layoutWanted u ≠ s.layout u →
        completes (.layoutSwitch u) s (fun t =>
          t.layout u = s.layoutWanted u ∧ (t.store u).switchOwed = false
            ∧ (∀ k sub, k < 2 → sub < 2 → ((t.chan u k).sub sub).wq = [] ∧ ((t.chan u k).sub sub).rq = [])
            ∧ (s.inTake = false → s.onlyChanges [.registers, .stores, .events, .dram, .channels, .board, .sent] t)
            ∧ (s.inTake = true → (t.store u).parts = [] ∧
              (∀ e, (s.store u).held = some e → (s.stream .mark).present = true → s.take.waiting = [] → s.take.system.length < 64 →
                t.take.system = s.take.system ++ [⟨e.1, 0x0B, u, 1, 0, e.2, 0, s.segment⟩]))))
/-! ## The host port and events (chapters 14 and 15) -/

/-- The ring registers and what they let in: a version is taken while no ring is enabled (R461); an enable is granted or refused,
and a disable discards (R462, R465, R469); a POSTED too far ahead halts its ring (R467); entries are fetched in tally
order, a mismatch or a failed fetch halting the ring with its reason (R467, R482); a completion is written when the ring has
room (R478, R480).
Where the spec leaves it open, the model's own choices count
(log entries 27, 96). -/
def Obligations.RingsAreEnabledPostedAndFetched : Prop :=
  ∀ (s : State),
    let g (f : Fld) : Nat := s.getF .host f
    let noBad : Prop := s.host.fence = none ∧ ∀ c ∈ s.host.accepted, c.badTally = false
    (∀ v, completes (.reqMajor v) s (fun t =>
      t.getF .host R.HOST_HIF_REQ_MAJOR = v % 16
        ∧ (t.getF .host R.HOST_HIF_ACTIVE_MAJOR, t.getF .host R.HOST_HIF_ACTIVE_MINOR) =
          (if s.isSet .host R.HOST_RING_CTRL_CMD_EN || s.isSet .host R.HOST_RING_CTRL_DRN_EN
              || s.isSet .host R.HOST_RING_CTRL_CPL_EN then (g R.HOST_HIF_ACTIVE_MAJOR, g R.HOST_HIF_ACTIVE_MINOR)
           else if v % 16 = 3 then (3, 1) else if v % 16 = 2 then (2, 4) else (0, 0))
        ∧ s.keepsWords [0x3108] t ∧ s.onlyChanges [.registers] t))
    ∧ (∀ e ∈ [(Instr.cmdEnSet, R.HOST_CMD_SIZE_LOG2), (Instr.drnEnSet, R.HOST_DRN_SIZE_LOG2),
        (Instr.cplEnSet, R.HOST_CPL_SIZE_LOG2)], s.ringAllowed (g e.2) = false → completes e.1 s (fun t =>
      t.getF .host R.HOST_RING_CTRL_EN_REFUSED = 1 ∧ s.keepsWords [0x3114] t ∧ s.onlyChanges [.registers] t))
    ∧ (s.ringAllowed (g R.HOST_CMD_SIZE_LOG2) = true → completes .cmdEnSet s (fun t =>
      t.getF .host R.HOST_RING_CTRL_CMD_EN = 1 ∧ t.getF .host R.HOST_RING_CTRL_CMD_HALT = 0
        ∧ t.getF .host R.HOST_HALT_CMD_REASON = 0
        ∧ t.getF .host R.HOST_CMD_ACCEPTED_TALLY =
          g (if s.isSet .host R.HOST_RING_CTRL_CMD_HALT then R.HOST_CMD_DONE_TALLY else R.HOST_CMD_ACCEPTED_TALLY)
        ∧ s.onlyChanges [.registers, .host] t))
    ∧ (s.ringAllowed (g R.HOST_DRN_SIZE_LOG2) = true → completes .drnEnSet s (fun t =>
      t.getF .host R.HOST_RING_CTRL_DRN_EN = 1 ∧ t.getF .host R.HOST_RING_CTRL_DRN_HALT = 0
        ∧ t.getF .host R.HOST_HALT_DRN_REASON = 0 ∧ t.getF .host R.HOST_DRN_POSTED_TALLY = g R.HOST_DRN_POSTED_TALLY
        ∧ (s.isSet .host R.HOST_RING_CTRL_DRN_HALT = true → t.host.drains = [])
        ∧ t.getF .host R.HOST_DRN_ACCEPTED_TALLY =
          g (if s.isSet .host R.HOST_RING_CTRL_DRN_HALT then R.HOST_DRN_DONE_TALLY else R.HOST_DRN_ACCEPTED_TALLY)))
    ∧ (s.ringAllowed (g R.HOST_CPL_SIZE_LOG2) = true → completes .cplEnSet s (fun t =>
      t.getF .host R.HOST_RING_CTRL_CPL_EN = 1 ∧ s.onlyChanges [.registers] t))
    ∧ completes .cmdEnClear s (fun t =>
      t.getF .host R.HOST_RING_CTRL_CMD_EN = 0 ∧ t.getF .host R.HOST_CMD_ACCEPTED_TALLY = g R.HOST_CMD_DONE_TALLY
        ∧ t.getF .host R.HOST_CMD_POSTED_TALLY = g R.HOST_CMD_DONE_TALLY
        ∧ t.host.accepted = s.host.accepted.filter (·.badTally) ∧ t.host.fence = s.host.fence
        ∧ s.onlyChanges [.registers, .host] t)
    ∧ completes .drnEnClear s (fun t =>
      t.getF .host R.HOST_RING_CTRL_DRN_EN = 0 ∧ t.getF .host R.HOST_DRN_ACCEPTED_TALLY = g R.HOST_DRN_DONE_TALLY
        ∧ t.getF .host R.HOST_DRN_POSTED_TALLY = g R.HOST_DRN_DONE_TALLY ∧ t.host.drains = []
        ∧ t.getF .host R.HOST_DRN_BUSY_SUPERS = 0
        ∧ (noBad → t.getF .host R.HOST_CPL_PRODUCED_SEQ = g R.HOST_CPL_PRODUCED_SEQ))
    ∧ completes .cplEnClear s (fun t =>
      t.getF .host R.HOST_RING_CTRL_CPL_EN = 0 ∧ t.host.waiting = []
        ∧ t.getF .host R.HOST_CPL_PRODUCED_SEQ = g R.HOST_CPL_PRODUCED_SEQ ∧ s.onlyChanges [.registers, .host] t)
    ∧ (∀ (drain : Bool) v,
      let en := if drain then R.HOST_RING_CTRL_DRN_EN else R.HOST_RING_CTRL_CMD_EN
      let halt := if drain then R.HOST_RING_CTRL_DRN_HALT else R.HOST_RING_CTRL_CMD_HALT
      let reason := if drain then R.HOST_HALT_DRN_REASON else R.HOST_HALT_CMD_REASON
      let posted := if drain then R.HOST_DRN_POSTED_TALLY else R.HOST_CMD_POSTED_TALLY
      let accepted := g (if drain then R.HOST_DRN_ACCEPTED_TALLY else R.HOST_CMD_ACCEPTED_TALLY)
      let size := 2 ^ g (if drain then R.HOST_DRN_SIZE_LOG2 else R.HOST_CMD_SIZE_LOG2)
      let far : Prop := s.isSet .host en = true ∧ s.isSet .host halt = false ∧ size < tallySub v accepted
      completes (if drain then .hostDrnPosted v else .hostCmdPosted v) s (fun t =>
        t.getF .host posted = v % 2 ^ 32 ∧ (far → t.getF .host halt = 1 ∧ t.getF .host reason = 2 ∧ t.sticky .host 1 = true)
          ∧ (¬ far → s.keepsWords [0x3150, 0x3160] t ∧ s.onlyChanges [.registers] t))
      ∧ (s.fetches drain = true → completes (.fetchTimeout drain) s (fun t =>
        t.getF .host halt = 1 ∧ t.getF .host reason = 3 ∧ t.sticky .host 1 = true
          ∧ s.onlyChanges [.registers, .events, .sent] t)))
    ∧ (∀ v, completes (.hostCplFreed v) s (fun t =>
      t.getF .host R.HOST_CPL_FREED_SEQ = v % 2 ^ 32 ∧ s.keepsWords [0x3174] t ∧ s.onlyChanges [.registers] t))
    ∧ (∀ bytes, s.fetches false = true →
      let n := tallyNext (g R.HOST_CMD_ACCEPTED_TALLY)
      (ofLeBytes (bytes.take 4) = n → completes (.commandFetch bytes) s (fun t =>
        t.getF .host R.HOST_CMD_ACCEPTED_TALLY = n ∧ t.host.accepted = s.host.accepted ++ [⟨n, bytes, false⟩]
          ∧ s.keepsWords [0x3154] t ∧ s.onlyChanges [.registers, .host] t))
      ∧ (ofLeBytes (bytes.take 4) ≠ n → s.host.accepted = [] → s.host.fence = none →
        completes (.commandFetch bytes) s (fun t =>
          t.getF .host R.HOST_RING_CTRL_CMD_HALT = 1 ∧ t.getF .host R.HOST_HALT_CMD_REASON = 1 ∧ t.sticky .host 1 = true
            ∧ t.getF .host R.HOST_CMD_ACCEPTED_TALLY = g R.HOST_CMD_ACCEPTED_TALLY ∧ t.host.accepted = []
            ∧ s.produced t n 1 5 (bytes.getD 4 0).toNat 0 [] (bitOf (bytes.getD 5 0).toNat 0))))
    ∧ (∀ bytes, s.fetches true = true →
      let n := tallyNext (g R.HOST_DRN_ACCEPTED_TALLY)
      let d := parseDrain bytes
      (ofLeBytes (bytes.take 4) = n → s.drainStatus bytes = 0 → completes (.drainDescriptorFetch bytes) s (fun t =>
        t.getF .host R.HOST_DRN_ACCEPTED_TALLY = n ∧ t.host.drains = s.host.drains ++ [d]
          ∧ bitOf (t.getF .host R.HOST_DRN_BUSY_SUPERS) d.super = true
          ∧ s.onlyChanges [.registers, .host, .channels, .sent] t))
      ∧ (ofLeBytes (bytes.take 4) = n → s.drainStatus bytes ≠ 0 → noBad → (∀ e ∈ s.host.drains, e.tally ≠ n) →
        completes (.drainDescriptorFetch bytes) s (fun t =>
          t.getF .host R.HOST_DRN_ACCEPTED_TALLY = n ∧ t.getF .host R.HOST_DRN_LAST_TALLY = n ∧ t.host.drains = s.host.drains
            ∧ s.produced t n 2 (s.drainStatus bytes) d.super 0 (leBytes 8 0 ++ leBytes 8 0) d.irq))
      ∧ (ofLeBytes (bytes.take 4) ≠ n → completes (.drainDescriptorFetch bytes) s (fun t =>
        t.getF .host R.HOST_RING_CTRL_DRN_HALT = 1 ∧ t.getF .host R.HOST_HALT_DRN_REASON = 1 ∧ t.sticky .host 1 = true
          ∧ s.onlyChanges [.registers, .events, .sent] t)))
    ∧ ∀ c rest, s.host.waiting = c :: rest → s.isSet .host R.HOST_RING_CTRL_CPL_EN = true → s.busMaster = true →
      tallySub c.cseq (g R.HOST_CPL_FREED_SEQ) ≤ 2 ^ g R.HOST_CPL_SIZE_LOG2 → completes .completionWrite s (fun t =>
        let base := s.getPair .host R.HOST_CPL_BASE_LO_BASE R.HOST_CPL_BASE_HI_BASE / 4096 * 4096
        t.host = { s.host with waiting := rest }
          ∧ Out.hostWrite (base + 32 * (c.cseq % 2 ^ g R.HOST_CPL_SIZE_LOG2)) c.bytes false ∈ t.out
          ∧ (c.irq = true ∨ s.reduced = true → t.sticky .host 0 = true)
          ∧ (c.irq = false → s.reduced = false → s.onlyChanges [.host, .sent] t))

/-- The commands of the command ring other than ARM and STOP, each ending with its completion (R471 to R477): NOP; STATUS, with the
take's state, ID, trigger count and hive time; FENCE, at once or once the descriptors accepted before it are done;
DRAIN_ABORT of descriptors not begun; REG_WRITE, whose values are written in order, or none; an entry with a reserved bit
set, and one with an opcode that the active version does not have.
Where the spec leaves it open, the model's own choices count
(log entries 96, 97, 98). -/
def Obligations.RingCommandsAreAnswered : Prop :=
  ∀ (s : State) (c : HostCmd) (rest : List HostCmd),
    let only (t : State) : Prop := s.onlyChanges [.registers, .host] t
    (s.commandReady 0 c rest → completes .nop s (fun t => s.answers t c rest 0 0 [] ∧ only t))
    ∧ (s.commandReady 3 c rest → completes .statusCommand s (fun t =>
      s.answers t c rest 0 s.takeWord (leBytes 4 (s.getF .hive R.HIVE_TAKE_ID_ID)
        ++ leBytes 4 (s.getF .hive R.HIVE_TAKE_TRIGS_COUNT) ++ leBytes 8 s.hiveTime) ∧ only t))
    ∧ (s.commandReady 4 c rest →
      (s.host.drains = [] → completes .fence s (fun t =>
        s.answers t c rest 0 (s.getF .host R.HOST_DRN_DONE_TALLY) [] ∧ only t))
      ∧ (s.host.drains ≠ [] → completes .fence s (fun t =>
        t.host = { s.host with fence := some (c, s.host.drains.map DrainDesc.tally), accepted := rest }
          ∧ s.onlyChanges [.host] t)))
    ∧ (s.commandReady 5 c rest →
      let l := s.abortable (c.bytes.getD 0x10 0).toNat
      (l = [] → completes .drainAbort s (fun t => s.answers t c rest 0 0 [] ∧ only t))
      ∧ (∀ d, l = [d] → (∀ e ∈ s.host.drains, e.tally = d.tally → e = d) → completes .drainAbort s (fun t =>
        ∃ v, s.produced v d.tally 2 6 d.super d.delivered (leBytes 8 d.poison ++ leBytes 8 d.torn) d.irq
          ∧ v.host.drains = s.host.drains.filter (fun e => decide (e ≠ d)) ∧ v.answers t c rest 0 1 [] ∧ only t)))
    ∧ (s.commandReady 6 c rest →
      let n := (c.bytes.getD 0x10 0).toNat
      let allowed : Prop := 1 ≤ n ∧ n ≤ 5 ∧ ∀ e ∈ regPairs c, e.1 % 4 = 0 ∧ e.1 ≤ 0x027FFFFF ∧ ¬ (0x3000 ≤ e.1 ∧ e.1 ≤ 0x3FFF)
      let v := (regPairs c).foldl (fun t e => t.writeAt e.1 (BitVec.ofNat 32 e.2)) s
      (allowed → v.host = s.host → completes .regWrite s (fun t =>
        v.answers t c rest 0 n [] ∧ v.onlyChanges [.registers, .host] t ∧ v.keepsShadows [] t))
      ∧ (¬ allowed → completes .regWrite s (fun t => s.answers t c rest 4 0 [] ∧ only t ∧ s.keepsShadows [] t)))
    ∧ (s.host.accepted = c :: rest → s.host.waiting = [] → s.host.fence = none → c.badTally = false → c.tally < 2 ^ 32 →
      (∀ d ∈ rest, d.badTally = false) →
      (∀ e ∈ [(0, Instr.nop), (1, .arm), (2, .stop), (3, .statusCommand), (4, .fence), (5, .drainAbort), (6, .regWrite)],
        c.opcode = e.1 → s.opcodeKnown e.1 = true → c.clean = false → completes e.2 s (fun t =>
          s.answers t c rest 4 0 [] ∧ only t))
      ∧ (s.opcodeKnown c.opcode = false → completes .badOpcode s (fun t => s.answers t c rest 3 0 [] ∧ only t)))

/-- What the host's link brings: DRAIN_BLOCK delivers the next block as DRAM holds it, poisoned and torn blocks marked, and the last
one completes the descriptor (R477, R483 to R485); a function-level reset and a loss of the host link reset the ring
registers and leave the take alone (R487, R509); the link state and Bus Master Enable follow the link (R454, R488); BAR2
shows block slots, reads as zeros elsewhere, and takes writes where no take holds the slot (R456 to R459).
Where the spec leaves it open, the model's own choices count
(log entries 86, 94, 95, 97, 98). -/
def Obligations.HostRequestsAreServed : Prop :=
  ∀ (s : State),
    (∀ u d, s.has (.dram u 0) = true → s.host.drains = [d] → d.super = u → s.reader u = .reset → s.busMaster = true →
      s.host.waiting = [] → s.host.fence = none → (∀ c ∈ s.host.accepted, c.badTally = false) → s.layout u ≠ 0 →
      let places := (List.range (if d.hdrOnly then 1 else 16)).map (pieceAt (s.layout u) d.slot)
      let bytes := places.flatMap (fun a => s.dramPiece u a.1 a.2.1 a.2.2)
      let bad := places.any (fun a => s.dramPieceBad u a.1 a.2.1 a.2.2) || s.staleSlot u d.slot
      let e : DrainDesc := { d with
        delivered := d.delivered + 1, poison := d.poison ||| (if bad then 2 ^ d.delivered else 0) }
      completes (.drainBlock u) s (fun t =>
        Out.hostWrite (d.addr + (if d.hdrOnly then 64 else 4096) * d.delivered)
            (if d.hdrOnly then bytes.take 64 else bytes) false ∈ t.out
          ∧ t.dram = s.dram ∧ s.onlyChanges [.registers, .events, .host, .channels, .sent] t
          ∧ (d.delivered + 1 < d.count → t.host.drains = [e])
          ∧ (d.count ≤ d.delivered + 1 → t.host.drains = []
            ∧ s.produced t d.tally 2 (if e.poison = 0 ∧ d.torn = 0 then 0 else 8) u (d.delivered + 1)
              (leBytes 8 e.poison ++ leBytes 8 d.torn) d.irq)))
    ∧ (∀ c ∈ [Instr.functionLevelReset, .hostLinkLoss], s.host.fence = none →
      (∀ e ∈ s.host.accepted, e.badTally = false) → completes c s (fun t =>
      t.busMaster = false ∧ t.host.bme = false ∧ t.host.d3 = false ∧ t.host.accepted = [] ∧ t.host.drains = []
        ∧ t.host.waiting = [] ∧ t.word 0x3114 = resetWord s.fuse 0x3114 ∧ t.word 0x3108 = resetWord s.fuse 0x3108
        ∧ t.word 0x310C = resetWord s.fuse 0x310C ∧ t.word 0x3110 = resetWord s.fuse 0x3110
        ∧ (∀ f ∈ [R.HOST_CMD_DONE_TALLY, R.HOST_DRN_DONE_TALLY, R.HOST_CPL_PRODUCED_SEQ, R.HOST_EVT_PRODUCED_SEQ],
          t.getF .host f = s.getF .host f)
        ∧ t.getF .host R.HOST_CMD_ACCEPTED_TALLY = s.getF .host R.HOST_CMD_DONE_TALLY
        ∧ t.getF .host R.HOST_CMD_POSTED_TALLY = s.getF .host R.HOST_CMD_DONE_TALLY
        ∧ t.getF .host R.HOST_DRN_ACCEPTED_TALLY = s.getF .host R.HOST_DRN_DONE_TALLY
        ∧ t.getF .host R.HOST_DRN_POSTED_TALLY = s.getF .host R.HOST_DRN_DONE_TALLY
        ∧ t.getF .events R.EVENTS_RING_CTRL_EN = 0 ∧ t.getF .events R.EVENTS_FREED_TALLY = 0
        ∧ t.getF .events R.EVENTS_WRITTEN_TALLY = s.getF .events R.EVENTS_WRITTEN_TALLY
        ∧ s.onlyChanges [.registers, .events, .host, .sent] t
        ∧ (c = .functionLevelReset → s.counted t .host R.HOST_RESETS_FLR 1 ∧ t.getF .hive R.HIVE_BOOT_LAST_RESET = 4)
        ∧ (c = .hostLinkLoss → s.counted t .host R.HOST_RESETS_LINK 1 ∧ s.counted t .host R.HOST_LINK_COUNT_DOWNS 1
          ∧ t.getF .host R.HOST_LINK_UP = 0 ∧ t.host.linkNews = true)))
    ∧ (∀ speed width flit reversed, completes (.linkChanged speed width flit reversed) s (fun t =>
      let lower := s.isSet .host R.HOST_LINK_SPEED
        && (decide (speed % 8 < s.getF .host R.HOST_LINK_SPEED) || decide (width % 32 < s.getF .host R.HOST_LINK_WIDTH))
      t.getF .host R.HOST_LINK_SPEED = speed % 8 ∧ t.getF .host R.HOST_LINK_WIDTH = width % 32
        ∧ t.getF .host R.HOST_LINK_FLIT = flag flit ∧ t.getF .host R.HOST_LINK_REVERSED = flag reversed
        ∧ (s.counted t .host R.HOST_LINK_COUNT_RETRAINS (flag lower))
        ∧ (s.busMaster = true → lower = true → t.sticky .host 4 = true)
        ∧ t.host.linkNews = ((s.host.linkNews || lower) && !s.busMaster)))
    ∧ (∀ bme d3, completes (.busMasterEnable bme d3) s (fun t =>
      t.busMaster = (bme && !d3) ∧ t.host.bme = bme ∧ t.host.d3 = d3 ∧ t.host.accepted = s.host.accepted
        ∧ t.host.drains = s.host.drains ∧ t.host.waiting = s.host.waiting
        ∧ (t.getF .host R.HOST_LINK_UP = flag (s.isSet .host R.HOST_LINK_SPEED && !d3))
        ∧ (bme = true → d3 = false → s.host.linkNews = true → t.sticky .host 4 = true ∧ t.host.linkNews = false)
        ∧ s.onlyChanges [.registers, .events, .host, .sent] t))
    ∧ (∀ off len, off + len ≤ s.bar2Size → completes (.bar2Read off len) s (fun t =>
      let l := (List.range len).map (fun i => s.viewByte (s.viewAddress off + i))
      let bad := l.any (·.2)
      t.out.head? = some (.readData (l.map (·.1)) bad) ∧ t.dram = s.dram
        ∧ s.counted t .host R.HOST_BAD_BAR2 (flag bad) ∧ (bad = true → t.sticky .host 2 = true)
        ∧ (∀ i, i < len → s.viewAt (s.viewAddress off + i) = none → (l.map (·.1)).getD i 0 = 0)
        ∧ s.onlyChanges [.registers, .events, .channels, .sent] t))
    ∧ ∀ off bytes poisoned, off + bytes.length ≤ s.bar2Size →
      let v := s.viewAddress off
      let locked : Prop := ∃ i u slot b, i < bytes.length ∧ s.viewAt (v + i) = some (u, slot, b) ∧ s.slotLocked u slot = true
      (poisoned = true ∨ locked → completes (.bar2Write off bytes poisoned) s (fun t =>
        s.counted t .host R.HOST_BAD_BAR2 1 ∧ t.sticky .host 2 = true ∧ t.chans = s.chans ∧ t.dram = s.dram))
      ∧ (poisoned = false → ¬ locked → completes (.bar2Write off bytes poisoned) s (fun t =>
        (∀ i, i < bytes.length → s.viewAt (v + i) ≠ none → (t.viewByte (v + i)).1 = bytes.getD i 0)
          ∧ (∀ a, a < v ∨ v + bytes.length ≤ a → (t.viewByte a).1 = (s.viewByte a).1)
          ∧ t.dram = s.dram ∧ s.onlyChanges [.registers, .stores, .channels, .board, .sent] t))

/-- Events on their way to the host (R501, R504, R506 to R509, R512, R513): a record enters the queue with the next tally, or is
dropped and counted, the loss being reported once an entry is free; a record is written to its place in the ring and its cause
made ready; a hold-off ends with one record for the raises that it held; a vector sends one message for its ready causes.
Where the spec leaves it open, the model's own choices count
(log entries 100, 101). -/
def Obligations.EventsReachTheHost : Prop :=
  ∀ (s : State),
    (∀ o r, s.ev.flight.find? (fun e => sourceOrigin e.source == o) = some r → s.enabled .events = true →
      (2 ≤ s.eventRoom → s.queueFull (.hive 1) = false → completes (.eventEnqueue o) s (fun t =>
        let n := (s.getF .host R.HOST_EVT_PRODUCED_SEQ + 1) % 2 ^ 32
        t.getF .host R.HOST_EVT_PRODUCED_SEQ = n
          ∧ (t.queue (.hive 1)).entries = (s.queue (.hive 1)).entries ++ [⟨eventWords r n, true⟩]
          ∧ t.getF .events R.EVENTS_LOST_COUNT = s.getF .events R.EVENTS_LOST_COUNT))
      ∧ (s.eventRoom < 2 → completes (.eventEnqueue o) s (fun t =>
        t.ev = { s.ev with
          flight := s.ev.flight.erase r
          dropped := some (match s.ev.dropped with | none => (1, r.time) | some e => (e.1 + 1, e.2)) }
          ∧ s.counted t .events R.EVENTS_LOST_COUNT 1 ∧ t.queues = s.queues)))
    ∧ (∀ n time, s.ev.dropped = some (n, time) → s.eventRoom ≠ 0 → s.enabled .events = true → s.queueFull (.hive 1) = false →
      bitOf (s.getF .events R.EV_ENABLE) 1 = true → s.isSet .events (R.EVENTS_GROUP_RECORD 1) = true →
      completes .recordsLost s (fun t =>
        t.ev.dropped = none ∧ t.sticky .events 1 = true
          ∧ (t.queue (.hive 1)).entries = (s.queue (.hive 1)).entries
            ++ [⟨eventWords ⟨time, 46, false, false, min n 0xFFFF⟩ ((s.getF .host R.HOST_EVT_PRODUCED_SEQ + 1) % 2 ^ 32), true⟩]))
    ∧ (∀ e rest, (s.queue (.hive 1)).entries = e :: rest → s.isSet .events R.EVENTS_RING_CTRL_EN = true →
      s.busMaster = true → tallySub (entryTally e) (s.getF .events R.EVENTS_FREED_TALLY) ≤ s.eventRing →
      (∀ g, g < 64 → s.isSet .host (R.MSIX_MASK g) = false) → completes (.eventRingWrite 0 0) s (fun t =>
        let base := s.getPair .events R.EVENTS_RING_BASE_LO_BASE R.EVENTS_RING_BASE_HI_BASE / 4096 * 4096
        Out.hostWrite (base + 16 * (entryTally e % s.eventRing)) (e.words.flatMap (leBytes 8)) false ∈ t.out
          ∧ t.getF .events R.EVENTS_WRITTEN_TALLY = entryTally e ∧ (t.queue (.hive 1)).entries = rest
          ∧ ∀ g, groupOf (bitsOf (e.words.getD 1 0) 42 32) = some g → s.vectorFree (s.vectorOf g) = true →
            ∃ addr data, Out.msix (s.vectorOf g) addr data ∈ t.out))
    ∧ (∀ v, s.ev.ready.any (fun g => s.vectorOf g == v) = true → s.busMaster = true → s.isSet .host (R.MSIX_MASK v) = false →
      let m := s.getF .events R.EVENTS_IRQ_MOD_MIN_US * 12800
      (∀ e ∈ s.ev.lastMsg, e.1 = v → e.2 + m < 2 ^ 64) → sorted s.ev.lastMsg = true →
      completes (.irqModExpire v) s (fun t =>
        t.out = .msix v (s.getF .host (R.MSIX_ADDR_LO v) + 2 ^ 32 * s.getF .host (R.MSIX_ADDR_HI v))
            (s.getF .host (R.MSIX_DATA v)) :: s.out
          ∧ t.ev.ready = s.ev.ready.filter (fun g => !(s.vectorOf g == v))
          ∧ (∀ e ∈ s.ev.lastMsg, e.1 = v → e.2 + m ≤ t.hiveTime) ∧ s.onlyChanges [.registers, .time, .events, .sent] t))
    ∧ (∀ n first count, s.ev.unrec.find? (fun e => e.1 == n) = some (n, (first, count)) →
      completes (.holdoffEnd n) s (fun t =>
        t.ev.flight = s.ev.flight ++ [⟨first, n, false, true, count⟩]
          ∧ (∀ e, s.ev.lastRec.find? (fun e => e.1 == n) = some e → e.2 + s.holdoff < 2 ^ 64 →
            e.2 + s.holdoff ≤ t.hiveTime)
          ∧ s.onlyChanges [.time, .events] t))
    ∧ (let n := s.getF .events R.EVENTS_RING_SIZE_LOG2
      let allowed : Prop := 6 ≤ n ∧ n ≤ 16 ∧ s.getF .host R.HOST_HIF_ACTIVE_MAJOR ≠ 0
      completes .eventsEnSet s (fun t =>
        (allowed → t.getF .events R.EVENTS_RING_CTRL_EN = 1)
          ∧ (¬ allowed → t.getF .events R.EVENTS_RING_CTRL_EN_REFUSED = 1 ∧ s.keepsWords [0x410C] t
            ∧ s.onlyChanges [.registers] t)))
    ∧ completes .eventsEnClear s (fun t =>
      t.getF .events R.EVENTS_RING_CTRL_EN = 0 ∧ t.queues = s.queues ∧ s.keepsWords [0x410C] t ∧ s.onlyChanges [.registers] t)
    ∧ ∀ v, completes (.eventsFreed v) s (fun t =>
      t.getF .events R.EVENTS_FREED_TALLY = v % 2 ^ 32
        ∧ (t.isSet .events R.EVENTS_RING_CTRL_EN = true → (s.queue (.hive 1)).entries ≠ [] → t.eventFits = false →
          s.ev.waitTold = false → t.sticky .events 0 = true)
        ∧ s.onlyChanges [.registers, .events, .sent] t)

/-! ## The apiary ring (chapter 16) -/

/-- Forming, measuring and common time (R525 to R536): a probe is echoed with its holding time; versions bring a hop up or leave it
down; a claim that has stood makes the leader, which sends FORM; FORM gives positions, and at the leader H, K and AF_DELAY; SETUP,
PATH and REPORT are acted on; a hop is measured by a probe; TIME gives a member its offset, and EPOCH loads it outside a take;
a hive whose leader is lost forms anew.
Where the spec leaves it open, the model's own choices count
(log entries 16, 17, 103, 105). -/
def Obligations.RingFormsAndKeepsTime : Prop :=
  ∀ (s : State) (r tick : Nat) (c : Copy), s.ringActive = true → r < 2 → c.quality = .good →
    let only (t : State) : Prop := s.onlyChanges [.registers, .time, .events, .ring, .sent] t
    (∀ data, completes (.hello r 7 data tick) s (fun t =>
      ∃ h, h < 2 ^ 24 ∧ t.out = .ringWord (1 - r) 0 [0xA000 + h / 4096] :: .ringWord (1 - r) 0 [0x9000 + h % 4096]
        :: .ringWord (1 - r) 0 [0x8000 + data] :: s.out ∧ t.ring = s.ring ∧ only t))
    ∧ (∀ data, s.ringState = 2 ∨ s.ringState = 3 → completes (.hello r 1 data tick) s (fun t =>
      let common := data % 4 &&& s.ring.versions
      (common = 0 → t.getF .ring (R.RING_HOP_UP r) = 0 ∧ t.getF .ring (R.RING_HOP_CAUSE r) = 4)
        ∧ (common ≠ 0 → t.getF .ring (R.RING_HOP_UP r) = 1
          ∧ t.getF .ring (R.RING_HOP_VERSION r) = (if bitOf common 1 then 2 else 1)) ∧ only t))
    ∧ (∀ data a b, s.ringState = 2 → s.ring.own = some a → (s.ringIn (1 - r)).claim = some b →
      let d : Claim := ⟨(s.ringIn r).pri, (s.ringIn r).uid + data * 2 ^ 36⟩
      d ≠ ⟨0, 0xFFFFFFFFFFFF⟩ → completes (.hello r 6 data tick) s (fun t =>
        (t.ringIn r).claim = some d ∧ t.ring.best ∈ [some a, some b, some d]
          ∧ (∀ e, t.ring.best = some e → ∀ x ∈ [a, b, d], x.beats e = false)
          ∧ (t.ring.standing.isSome = true ↔ a = b ∧ a = d) ∧ only t))
    ∧ (∀ a, s.ringState = 2 → s.ring.standing = some a → a + 12800000 < 2 ^ 64 → s.hiveTime < 2 ^ 64 →
      completes .leaderElected s (fun t =>
        t.ringState = 3 ∧ t.isLeader = true ∧ t.hiveTime = max s.hiveTime (a + 12800000)
          ∧ t.out = .ringWord 0 0 [0xB001] :: s.out ∧ s.onlyChanges [.registers, .time, .sent] t))
    ∧ (∀ n loopNs, n < 32 → loopNs ≤ 40000 →
      (s.ringState = 2 → completes (.form n loopNs) s (fun t =>
        t.ringState = 3 ∧ t.position = n ∧ t.out = .ringWord 0 0 [0xB000 + (n + 1) % 32] :: s.out
          ∧ s.onlyChanges [.registers, .sent] t))
      ∧ (s.ringState = 3 → s.isLeader = true → completes (.form n loopNs) s (fun t =>
        let h := if n = 0 then 32 else n
        let k := max h ((loopNs + 79) / 80)
        t.ringState = 4 ∧ t.hives = h ∧ t.getF .ring R.RING_LOOP_K = k ∧ t.getF .ring R.RING_LOOP_LOOP_NS = 80 * k
          ∧ (s.ring.leastDelay < 2 ^ 16 → t.getF .ring R.RING_STATUS_AF_DELAY
            = min 30000 (max s.ring.leastDelay (192 * k + 16)))
          ∧ t.sticky .ring 0 = true ∧ (∀ l, l < 2 → Out.ringWord l 5 [k] ∈ t.out)
          ∧ t.getF .ring R.RING_EPOCH_COUNT = (s.getF .ring R.RING_EPOCH_COUNT + flag (!s.inTake)) % 2 ^ 16)))
    ∧ (∀ tally arg, s.isLeader = false → (0, 3, tally) ∉ s.ring.acted →
      let body := ctrlBody 0 0x1F 1 tally arg
      completes (.setup c tally arg) s (fun t =>
        t.ringState = (if bitOf arg 6 then 5 else 4) ∧ t.hives = bitsOf arg 5 0
          ∧ t.getF .ring R.RING_LOOP_K = bitsOf arg 15 7 ∧ t.getF .ring R.RING_LOOP_LOOP_NS = bitsOf arg 31 16
          ∧ t.getF .ring R.RING_STATUS_AF_DELAY = bitsOf arg 47 32 ∧ Out.ringWord c.ring 3 body ∈ t.out
          ∧ (s.ringState = 3 → bitOf arg 6 = false → t.sticky .ring 0 = true)
          ∧ (s.ringState ≠ 5 → bitOf arg 6 = true → t.sticky .ring 4 = true)
          ∧ (s.ringState = 5 → bitOf arg 6 = false → t.sticky .ring 5 = true)
          ∧ s.onlyChanges [.registers, .events, .ring, .sent] t))
    ∧ (∀ tally arg, s.isLeader = false → (0, 3, tally) ∉ s.ring.acted →
      completes (.path c s.position tally arg) s (fun t =>
        t.ring.path = some (arg % 2 ^ 24, arg / 2 ^ 24 % 2 ^ 24) ∧ s.onlyChanges [.ring, .sent] t))
    ∧ (∀ source tally arg, s.isLeader = true → s.position = 0 → (source, 3, tally) ∉ s.ring.acted →
      let a := bitsOf arg 19 0
      let b := bitsOf arg 39 20
      completes (.report c source tally arg) s (fun t =>
        (source, (a, b)) ∈ t.ring.reports
          ∧ (∀ x y, s.ring.reports.find? (fun e => e.1 == source) = some (source, (x, y)) → a ≤ x + 4 → x ≤ a + 4 → b ≤ y + 4 →
            y ≤ b + 4 → t.out = .ringWord c.ring 3 (ctrlBody source 0 3 tally arg) :: s.out)
          ∧ (∀ x y, s.ring.reports.find? (fun e => e.1 == source) = some (source, (x, y)) →
            (x + 4 < a ∨ a + 4 < x ∨ y + 4 < b ∨ b + 4 < y) → s.ringUp = true → s.ring.loopNs ≤ 20000 → s.hives ≤ 32 →
            Out.ringWord 0 5 [t.getF .ring R.RING_LOOP_K] ∈ t.out)
          ∧ s.onlyChanges [.registers, .events, .ring, .sent] t))
    ∧ completes (.hopMeasure r) s (fun t =>
      let n := ((s.ringIn r).probe + 1) % 4096
      t.out = .ringWord (1 - r) 0 [0x7000 + n] :: s.out
        ∧ t.ringIn r = { s.ringIn r with probe := n, sentAt := some s.hiveTime, echoAt := none }
        ∧ s.onlyChanges [.ring, .sent] t)
    ∧ (s.isLeader = false → 3 ≤ s.ringState → s.ring.lastTime + 2560000 < 2 ^ 64 → s.hiveTime < 2 ^ 64 →
      completes .leaderLost s (fun t =>
        t.ringState = 2 ∧ t.isLeader = false ∧ t.hiveTime = max s.hiveTime (s.ring.lastTime + 2560000)
          ∧ t.getF .ring R.RING_AF_STATE_VALUE = 0 ∧ t.getF .ring R.RING_AF_STATE_OWN = 0 ∧ t.afQueue = [] ∧ t.afLog = []
          ∧ t.ring.noted = [] ∧ s.onlyChanges [.registers, .time, .ring] t))
    ∧ (s.isLeader = true → s.ringState = 4 → s.ring.ctrl = [] → s.ring.onLoop = [] → s.ring.timeTally < 2 ^ 11 →
      completes .timeLaunch s (fun t =>
        ∃ head, bitsOf head 15 11 = s.position ∧ bitsOf head 10 0 = s.ring.timeTally
          ∧ t.out = .ringWord 1 2 (head :: (timeBody 0 s.hiveTime).tail)
            :: .ringWord 0 2 (head :: (timeBody 0 s.hiveTime).tail) :: s.out
          ∧ t.ring.timeTally = (s.ring.timeTally + 1) % 2 ^ 11 ∧ s.onlyChanges [.ring, .sent] t))
    ∧ (∀ tally time p q, s.isLeader = false → s.ring.path = some (p, q) →
      (c.ring = 0 ∨ s.isSet .ring (R.RING_HOP_UP 0) = false) → s.hiveTime ≤ tick → tick < 2 ^ 64 →
      let off : Int := ((time + (if c.ring = 0 then p else q) : Nat) : Int) - (tick : Int)
      completes (.time c tally time tick) s (fun t =>
        t.getF .ring R.RING_TIME_OFFSET_OFFSET = saturatedSigned 24 off ∧ t.ring.offset = some off
          ∧ t.ring.lastTime = tick ∧ t.ring.offSteps = (if 4 < off.natAbs then s.ring.offSteps + 1 else 0)
          ∧ (3 ≤ s.ring.offSteps → 4 < off.natAbs → t.getF .ring R.RING_TIME_OFFSET_OUT_OF_STEP = 1)
          ∧ (3 ≤ s.ring.offSteps → 4 < off.natAbs → s.getF .ring R.RING_TIME_OFFSET_OUT_OF_STEP = 0 → t.sticky .ring 9 = true)
          ∧ only t))
    ∧ (s.isLeader = true →
      (s.inTake = true → completes .epochGo s (fun t =>
        t.getF .ring R.RING_EPOCH_REFUSED = 1 ∧ s.keepsWords [0x5138] t ∧ s.onlyChanges [.registers] t))
      ∧ (s.inTake = false → s.ringUp = true → completes .epochGo s (fun t =>
        t.getF .ring R.RING_EPOCH_COUNT = (s.getF .ring R.RING_EPOCH_COUNT + 1) % 2 ^ 16
          ∧ t.ring.ctrlTally = (s.ring.ctrlTally + 1) % 2 ^ 16 ∧ s.onlyChanges [.registers, .ring, .sent] t)))
    ∧ ∀ tally count p off, s.isLeader = false → (0, 3, tally) ∉ s.ring.acted → s.ring.path = some p → s.ring.offset = some off →
      (s.inTake = true → completes (.epoch c tally count) s (fun t =>
        t.hiveTime = s.hiveTime ∧ s.onlyChanges [.ring, .sent] t))
      ∧ (s.inTake = false → s.hiveTime + 32 < 2 ^ 64 → completes (.epoch c tally count) s (fun t =>
        (t.hiveTime : Int) = (((s.hiveTime + 31) / 32 * 32 : Nat) + off) % (2 ^ 64 : Nat)
          ∧ (∀ u, u < s.fuse.part.supers → t.timeOf u = t.hiveTime)
          ∧ t.getF .ring R.RING_TIME_OFFSET_OUT_OF_STEP = 0
          ∧ s.onlyChanges [.registers, .time, .pods, .frames, .events, .ring, .sent] t))

/-- Apiary flags, containers, breaks, bypass and mail (R522 to R524, R537 to R549): the oldest flag action is launched on a free loop;
a flag received is noted for its delivery beat, gaps and lateness counted, and applied there; an own container that has come
back is removed; a hop down is answered by BREAK and wraps the apiary; a bypassed hive leaves; mail is sent unless one is out,
and stored unless one is held; a container with a bad word is counted and passed on discarded.
Where the spec leaves it open, the model's own choices count
(log entries 103, 104, 105). -/
def Obligations.RingCarriesFlagsAndMail : Prop :=
  ∀ (s : State) (r : Nat) (c : Copy), s.ringActive = true → r < 2 →
    let only (t : State) : Prop := s.onlyChanges [.registers, .events, .ring, .sent] t
    (∀ a rest, s.ringState = 4 → s.ring.onLoop = [] → s.ring.ctrl = [] → s.ring.flag = none → s.afQueue = a :: rest →
      32 * s.beatNow - a.origin ≤ 2 ^ 47 → completes (.flagLaunch r) s (fun t =>
        t.out = .ringWord r 1 (flagBody a s.ring.flagTally) :: s.out ∧ t.afQueue = rest
          ∧ t.ring.flag = some ⟨1, 0, flagBody a s.ring.flagTally, [1 - r]⟩
          ∧ t.ring.flagTally = (s.ring.flagTally + 1) % 32 ∧ t.ring.onLoop = [(r, ⟨1, 0, flagBody a s.ring.flagTally, []⟩)]
          ∧ s.onlyChanges [.ring, .sent] t))
    ∧ (∀ body, c.quality = .good →
      let source := bitsOf (body.getD 0 0) 9 5
      let tally := bitsOf (body.getD 0 0) 4 0
      let d := nearBeat s.beatNow (body.getD 1 0)
      let late := decide (d + 13 < s.beatNow)
      (source, 1, tally) ∉ s.ring.acted → completes (.flag c body) s (fun t =>
        t.ring.noted = s.ring.noted ++ [⟨if late then s.beatNow - 12 else d, bitsOf (body.getD 0 0) 15 12, source,
            bitsOf (body.getD 0 0) 11 10,
            nearOrigin (32 * d) (body.getD 2 0 + 2 ^ 16 * body.getD 3 0 + 2 ^ 32 * body.getD 4 0)⟩]
          ∧ Out.ringWord c.ring 1 body ∈ t.out ∧ s.counted t .ring R.RING_FLAG_COUNTS_LATE (flag late)
          ∧ (late = true → t.sticky .ring 7 = true)
          ∧ (∀ k, s.ring.lastFlag.find? (fun e => e.1 == source) = some (source, k) → k < 32 →
            let n := (tally + 32 - k) % 32
            s.counted t .ring R.RING_FLAG_COUNTS_GAP (if n = 0 ∨ 16 ≤ n then 0 else n - 1)
              ∧ (2 ≤ n → n < 16 → t.sticky .ring 8 = true))
          ∧ only t))
    ∧ (∀ a, s.ring.noted = [a] → (s.seq 8).running = false → s.hiveTime < 2 ^ 64 → 32 * (a.beat + 13) < 2 ^ 64 → a.af < 16 →
      a.member < 32 → s.ringUp = true → s.afLog = [] → completes .flagDelivery s (fun t =>
        t.ring.noted = [] ∧ t.afLog = [a] ∧ t.hiveTime = max s.hiveTime (32 * (a.beat + 13))
          ∧ t.getF .ring R.RING_AF_STATE_VALUE = (if a.op = 1 ∨ a.op = 2 then 2 ^ a.af else 0)
          ∧ t.getF .ring R.RING_AF_STATE_OWN = (if (a.op = 1 ∨ a.op = 2) ∧ a.member = s.position then 2 ^ a.af else 0)
          ∧ s.onlyChanges [.registers, .time, .pods, .frames, .scouts, .sequencers, .take, .streams, .stores, .events,
            .triggers, .ring, .sent] t))
    ∧ (∀ l e, s.ring.onLoop.find? (fun e => e.1 == l) = some e → s.isLeader = false →
      completes (.containerReturn l r) s (fun t =>
        (s.ring.ctrl = [] → t.ring.onLoop = s.ring.onLoop.erase e)
          ∧ (s.ring.ctrl = [] → t.out = .ringWord r 5 [] :: s.out)
          ∧ (e.2.kind = 3 → e.2.type = 6 → s.ring.ctrl = [] → s.ring.onLoop = [e] →
            t.getF .ring R.RING_MAIL_OUT_BUSY = 0)
          ∧ only t))
    ∧ (∀ cause, completes (.hopDown r cause) s (fun t =>
      t.getF .ring (R.RING_HOP_UP r) = 0 ∧ t.getF .ring (R.RING_HOP_CAUSE r) = cause % 8
        ∧ t.sticky .ring (2 + r) = true ∧ Out.ringWord (1 - r) 0 [0xC000 + r] ∈ t.out
        ∧ (s.ringState = 4 → s.isLeader = false → t.ringState = 4)
        ∧ (s.ringState = 4 → s.isLeader = true → t.ringState = 5 ∧ t.sticky .ring 4 = true)
        ∧ (s.ringState ≠ 4 → t.ringState = 2) ∧ only t))
    ∧ completes (.brk r) s (fun t =>
      t.getF .ring (R.RING_HOP_UP r) = 0 ∧ t.getF .ring (R.RING_HOP_CAUSE r) = 5 ∧ t.sticky .ring (2 + r) = true ∧ only t)
    ∧ completes (.unwrap r) s (fun t =>
      t.getF .ring (R.RING_HOP_UP r) = 1 ∧ (s.ringState = 5 → t.ringState = 4 ∧ t.sticky .ring 5 = true)
        ∧ (s.ringState ≠ 5 → t.ringState = s.ringState) ∧ only t)
    ∧ (s.ring.leaving = none → completes .bypass s (fun t =>
      t.getF .ring R.RING_CTRL_BYPASS = 1 ∧ t.ring.leaving = some s.hiveTime
        ∧ t.ring.ctrlTally = (s.ring.ctrlTally + 1) % 2 ^ 16 ∧ t.ringState = s.ringState
        ∧ (s.ringState = 4 → s.ring.ctrl = [] → s.ring.onLoop = [] → s.afQueue = [] → s.ring.flag = none →
          s.ring.ctrlTally < 2 ^ 16 →
          t.out = .ringWord 1 3 (ctrlBody s.position 0x1F 5 s.ring.ctrlTally 0)
            :: .ringWord 0 3 (ctrlBody s.position 0x1F 5 s.ring.ctrlTally 0) :: s.out)
        ∧ s.onlyChanges [.registers, .ring, .sent] t))
    ∧ (∀ a, s.ring.leaving = some a → s.isSet .ring R.RING_CTRL_BYPASS = true → a + 1280000 < 2 ^ 64 → s.hiveTime < 2 ^ 64 →
      completes .bypassClose s (fun t =>
        t.ringState = 1 ∧ t.ring.leaving = none ∧ t.hiveTime = max s.hiveTime (a + 1280000) ∧ t.afQueue = [] ∧ t.afLog = []
          ∧ s.onlyChanges [.registers, .time, .ring] t))
    ∧ (∀ source tally, c.quality = .good → s.isLeader = true → s.ringUp = true → (source, 3, tally) ∉ s.ring.acted → 2 ≤ s.hives →
      s.ring.loopNs ≤ 20000 → completes (.leave c source tally) s (fun t => t.hives = s.hives - 1 ∧ only t))
    ∧ (∀ dest hi, let arg := s.getF .ring R.RING_MAIL_OUT_ARG_ARG + 2 ^ 32 * (hi % 2 ^ 16)
      (s.getF .ring R.RING_MAIL_OUT_BUSY = 1 → completes (.mailSend dest hi) s (fun t =>
        t.ring = s.ring ∧ t.out = s.out ∧ t.getF .ring R.RING_MAIL_OUT_BUSY = 1))
      ∧ (s.getF .ring R.RING_MAIL_OUT_BUSY = 0 → completes (.mailSend dest hi) s (fun t =>
        t.getF .ring R.RING_MAIL_OUT_BUSY = 1 ∧ t.getF .ring R.RING_MAIL_OUT_TO = dest % 32
          ∧ t.ring.ctrlTally = (s.ring.ctrlTally + 1) % 2 ^ 16
          ∧ (s.ringState = 4 → s.ring.ctrl = [] → s.ring.onLoop = [] → s.ring.ctrlTally < 2 ^ 16 →
            let body := ctrlBody s.position (dest % 32) 6 s.ring.ctrlTally arg
            t.out = .ringWord 1 3 body :: .ringWord 0 3 body :: s.out)
          ∧ s.onlyChanges [.registers, .ring, .sent] t)))
    ∧ (∀ source dest tally arg, c.quality = .good → dest = 0x1F ∨ dest = s.position → (source, 3, tally) ∉ s.ring.acted →
      (s.getF .ring R.RING_MAIL_IN_VALID = 0 → completes (.mail c source dest tally arg) s (fun t =>
        t.getF .ring R.RING_MAIL_IN_VALID = 1 ∧ t.getF .ring R.RING_MAIL_IN_FROM = source % 32
          ∧ t.getF .ring R.RING_MAIL_IN_ARG_ARG + 2 ^ 32 * t.getF .ring R.RING_MAIL_IN_ARG_HI = arg % 2 ^ 48
          ∧ t.sticky .ring 10 = true ∧ Out.ringWord c.ring 3 (ctrlBody source dest 6 tally arg) ∈ t.out ∧ only t))
      ∧ (s.getF .ring R.RING_MAIL_IN_VALID = 1 → completes (.mail c source dest tally arg) s (fun t =>
        t.sticky .ring 11 = true ∧ s.keepsWordsRaising .ring [] t ∧ only t)))
    ∧ (∀ source tally arg, c.quality = .bad → s.isLeader = false →
      ∀ i ∈ [Instr.setup c tally arg, .path c 0 tally arg, .report c source tally arg, .epoch c tally arg,
        .flag c [], .leave c source tally, .mail c source 0 tally arg], completes i s (fun t =>
        s.counted t .ring (if c.ring = 0 then R.RING_LOST_A else R.RING_LOST_B) 1 ∧ t.sticky .ring 6 = true
          ∧ t.out.head? = some (.ringWord c.ring 6 []) ∧ t.ring = s.ring ∧ s.onlyChanges [.registers, .events, .sent] t))

/-! ## The Reeve and power (chapter 17) -/

/-- The end of a 100 µs period (R558, R559, R569, R575, R577): the reservoir takes in the allowance and gives up the energy used, between
empty and full; the throttle begins at its point and ends 3 °C below; ten pressed periods in a row lead to each next shedding
step, and a hundred quiet ones lift a step; the new settings act from then on. The wear account goes on by the hour and may
be loaded (R571, R572).
Where the spec leaves it open, the model's own choices count
(log entries 107, 108, 109, 114). -/
def Obligations.PeriodsSettleTheEnergyAccount : Prop :=
  ∀ (s : State),
    (∀ vin iin energy supers shared tj hottest, s.powerOk = true → s.reeve.reserve ≤ 10000 →
      completes (.periodEnd vin iin energy supers shared tj hottest) s (fun t =>
        let used := 40 * energy
        let held := 40 * s.reeve.energy + 1024 * s.reeve.sustain
        let point : Int := if t.isSet .reeve R.REEVE_WEAR_SPENT then 400 else 420
        let heat := signedOf 16 tj
        let hot := t.isSet .reeve R.REEVE_STATUS_THROTTLED
        let near := decide (95 * s.reeve.ilim < iin)
        let phase := s.supers.any (fun u => s.reeve.phases.any (fun x => x / 4 == u) && decide (3072 < supers.getD u 0))
        let pressed : Prop := held < used ∨ hot = true ∨ near = true ∨ phase = true
        let step := s.getF .reeve R.REEVE_STATUS_STEP
        let calm : Prop := s.getF .reeve R.REEVE_RECOVER_RECOVER_J * 1024000 ≤ t.reeve.energy ∧ hot = false
        t.reeve.energy = min (s.reeve.reserve * 1024000) (if held < used then 0 else (held - used) / 40)
          ∧ t.getF .reeve R.REEVE_RES_NOW_E_MJ = t.reeve.energy / 1024
          ∧ hot = (decide (point ≤ heat) || (s.isSet .reeve R.REEVE_STATUS_THROTTLED && decide (point - 12 ≤ heat)))
          ∧ (s.isSet .reeve R.REEVE_STATUS_THROTTLED = false → hot = true → t.sticky .reeve 4 = true)
          ∧ (t.getF .reeve R.REEVE_STATUS_PRESSED = 1 ↔ pressed)
          ∧ t.getF .reeve R.REEVE_STATUS_NEAR_LIMIT = flag near ∧ (near = true → t.sticky .ivr 2 = true)
          ∧ t.getF .ivr R.IVR_VIN_VALUE = vin % 2 ^ 16 ∧ t.getF .ivr R.IVR_IIN_VALUE = iin % 2 ^ 16
          ∧ (pressed → step = 0 → t.shedStep = 1 ∧ t.reeve.run = 0 ∧ t.sticky .reeve 1 = true)
          ∧ (pressed → 1 ≤ step → step < 4 → s.reeve.run = 9 →
            t.shedStep = step + 1 ∧ t.reeve.run = 0 ∧ t.sticky .reeve 1 = true)
          ∧ (pressed → 1 ≤ step → (4 ≤ step ∨ s.reeve.run ≠ 9) → t.shedStep = step ∧ t.reeve.run = s.reeve.run + 1)
          ∧ (pressed → t.reeve.quiet = 0)
          ∧ (pressed → step = 4 → s.reeve.run = 19 → s.taking = true → s.take.last = none → heat < 460 →
            t.take.last = some (s.stopSlot, 4) ∧ t.sticky .reeve 3 = true)
          ∧ (¬ pressed → 1 ≤ step → calm → s.reeve.quiet = 99 →
            t.shedStep = step - 1 ∧ t.reeve.quiet = 0 ∧ t.sticky .reeve 2 = true)
          ∧ (¬ pressed → 1 ≤ step → calm → s.reeve.quiet ≠ 99 → t.shedStep = step ∧ t.reeve.quiet = s.reeve.quiet + 1)
          ∧ (¬ pressed → step = 0 ∨ ¬ calm → t.shedStep = step ∧ t.reeve.quiet = 0)
          ∧ (460 ≤ heat → s.reeve.shutdown = false → t.reeve.shutdown = true ∧ t.sticky .reeve 5 = true
            ∧ t.getF .hive R.HIVE_BOOT_FAULT_STOP = 4
            ∧ t.boot.railsOffAt = some (s.boot.railsOffAt.getD (s.hiveTime + 1280000)))
          ∧ t.reeve.alertLow = (t.shedStep != 0 || hot)
          ∧ t.reeve.sustain = t.getF .reeve R.REEVE_SUSTAIN_QW ∧ t.reeve.reserve = t.getF .reeve R.REEVE_RESERVE_RESERVE_J
          ∧ t.reeve.ilim = t.getF .ivr R.IVR_ILIM_AMPS ∧ t.reeve.periods = min 10000 (s.reeve.periods + 1)
          ∧ t.getF .reeve R.REEVE_STATUS_HISTORY_OK = flag (decide (10000 ≤ s.reeve.periods + 1))))
    ∧ completes .wearHour s (fun t =>
      t.reeve = { s.reeve with wear := 0 :: s.reeve.wear.take 167 }
        ∧ t.getF .reeve R.REEVE_WEAR_SECONDS = wearSum t.reeve.wear / 10000 % 2 ^ 20
        ∧ t.getF .reeve R.REEVE_WEAR_SPENT =
          flag (decide (10000 * max 1 (s.getF .reeve R.REEVE_WEAR_CFG_BUDGET_S) ≤ wearSum t.reeve.wear))
        ∧ s.onlyChanges [.registers, .events, .reeve, .sent] t)
    ∧ ∀ n, completes (.reeveWearLoad n) s (fun t =>
      t.reeve = { s.reeve with wear := 10000 * (n % 2 ^ 20) :: s.reeve.wear.drop 1 } ∧ t.getF .reeve R.REEVE_WEAR_LOST = 0
        ∧ t.getF .reeve R.REEVE_WEAR_SECONDS = wearSum t.reeve.wear / 10000 % 2 ^ 20
        ∧ s.keepsWords [0x1130] t ∧ s.onlyChanges [.registers, .reeve] t)

/-- Supplies and their faults (R552, R554, R555, R570, R581, R610): over-voltage, over-current and a rail out of regulation stop the
take with reason FAULT and turn the rails off 100 µs later; a high or low VIN, a dropped phase and a lost VSTBY are raised;
once the rails are off nothing is left but the always-on domain.
Where the spec leaves it open, the model's own choices count
(log entries 111, 115). -/
def Obligations.SupplyFaultsStopTheHive : Prop :=
  ∀ (s : State),
    let stops (cause source : Nat) (t : State) : Prop :=
      t.getF .hive R.HIVE_BOOT_FAULT_STOP = cause ∧ s.counted t .hive R.HIVE_RESET_COUNT_FAULT_STOPS 1 ∧ t.sticky .ivr source = true
        ∧ t.boot.railsOffAt = some (s.boot.railsOffAt.getD (s.hiveTime + 1280000))
        ∧ (s.takeState = 1 → t.takeState = 4 ∧ t.getF .hive R.HIVE_TAKE_STATE_REASON = 5)
        ∧ (s.taking = true → s.take.last = none → t.take.last = some (s.stopSlot, 5) ∧ t.takeState = s.takeState)
        ∧ s.onlyChanges [.registers, .plls, .take, .events, .ring, .boot, .sent] t
    let dark (t : State) : Prop :=
      t.powerOk = false ∧ t.booted = false ∧ t.takeState = 0 ∧ t.take = .reset ∧ t.hiveTime = 0 ∧ t.timeRuns = false
        ∧ (∀ u f, t.pod u f = .reset ∧ t.frame u f = .reset) ∧ (∀ i, t.stream i = .reset) ∧ (∀ q, t.queue q = .reset)
        ∧ t.reeve.energy = s.reeve.energy ∧ t.reeve.wear = s.reeve.wear ∧ t.reeve.periods = s.reeve.periods
        ∧ (∀ f ∈ [R.HIVE_BOOT_LAST_RESET, R.HIVE_BOOT_FAULT_STOP, R.HIVE_RESET_COUNT_RESET_N, R.HIVE_RESET_COUNT_FAULT_STOPS],
          t.getF .hive f = s.getF .hive f)
        ∧ t.getF .reeve R.REEVE_LEARN_LEARN = s.getF .reeve R.REEVE_LEARN_LEARN ∧ t.pending = s.pending ∧ t.fuse = s.fuse
    (s.powerOk = true → completes .overVoltage s (stops 1 3) ∧ completes .overCurrent s (stops 2 4))
    ∧ (∀ rail, railPresent s.fuse.part rail = true → s.isSet .ivr (railField rail) = true → completes (.railFault rail) s (fun t =>
      stops 3 5 t ∧ t.isSet .ivr (railField rail) = false ∧ t.powerOk = false))
    ∧ (s.boot.vin = true → completes .vinHigh s (fun t =>
      t.sticky .ivr 1 = true ∧ s.keepsWordsRaising .ivr [] t ∧ s.onlyChanges [.registers, .events, .sent] t))
    ∧ (s.powerOk = true → completes .vinLow s (fun t =>
      t.sticky .ivr 0 = true ∧ s.keepsWordsRaising .ivr [] t ∧ s.onlyChanges [.registers, .events, .sent] t))
    ∧ (∀ u phase, u < s.fuse.part.supers → phase < 4 → s.powerOk = true → 4 * u + phase ∉ s.reeve.phases →
      completes (.phaseDropped u phase) s (fun t =>
        t.reeve = { s.reeve with phases := s.reeve.phases ++ [4 * u + phase] }
          ∧ bitOf (t.getF .ivr R.IVR_PHASE_DROPPED) (4 * u + phase) = true ∧ t.sticky .ivr 6 = true
          ∧ s.keepsWordsRaising .ivr [0x2118] t ∧ s.onlyChanges [.registers, .events, .reeve, .sent] t))
    ∧ (∀ at', s.boot.railsOffAt = some at' → completes .railsOff s (fun t => dark t ∧ t.boot.railsOff = true))
    ∧ (s.boot.vin = true → completes .uvlo s (fun t =>
      dark t ∧ t.boot.vin = false ∧ t.getF .ivr R.IVR_RAILS_VAON = (if s.boot.vstby then s.getF .ivr R.IVR_RAILS_VAON else 0)))
    ∧ (s.boot.vstby = true →
      (s.boot.vin = true → completes .vstbyLost s (fun t =>
        t.getF .ivr R.IVR_RAILS_VAON_VSTBY = 0 ∧ t.sticky .ivr 7 = true ∧ t.boot = { s.boot with vstby := false }
          ∧ s.keepsWordsRaising .ivr [0x2110] t ∧ s.onlyChanges [.registers, .events, .boot, .sent] t))
      ∧ (s.boot.vin = false → completes .vstbyLost s (fun t =>
        dark t ∧ t.boot.vstby = false ∧ t.getF .ivr R.IVR_RAILS_VAON = 0)))
    ∧ (s.boot.vin = true → s.boot.vstby = false → completes .vstbyReturn s (fun t =>
      t.getF .ivr R.IVR_RAILS_VAON_VSTBY = 1 ∧ t.boot = { s.boot with vstby := true } ∧ s.keepsWords [0x2110] t
        ∧ s.onlyChanges [.registers, .boot] t))

/-! ## The Noticeboard (chapter 18) -/

/-- Frames of the Noticeboard (R594 to R604): a commit applies at the apply instant, or at once while the generator is stopped, or is
refused; line 0 begins when the blanking is over and the TE edge has come; the frame's CRCs are shown and compared; unchanged
frames are lowered; TE edges are taken, and a missing one counted.
Where the spec leaves it open, the model's own choices count
(log entries 20, 128, 129, 132). -/
def Obligations.BoardFramesFollowTheirTiming : Prop :=
  ∀ (s : State), s.has .board = true →
    let g (f : Fld) : Nat := s.getF .board f
    let mode := [R.BOARD_HTIM_TOTAL, R.BOARD_HTIM_ACTIVE, R.BOARD_VTIM_TOTAL, R.BOARD_VTIM_ACTIVE, R.BOARD_HSYNC_START,
      R.BOARD_HSYNC_WIDTH, R.BOARD_VSYNC_START, R.BOARD_VSYNC_WIDTH, R.BOARD_FB_SLOT_SLOT, R.BOARD_FB_FMT_STRIDE,
      R.BOARD_FB_FMT_FORMAT, R.BOARD_BG_RGB, R.BOARD_OUT_A_EN, R.BOARD_OUT_B_EN]
    let applied (t : State) : Prop := (∀ f ∈ mode, t.getF .board f = s.getShadowF .board f) ∧ t.getF .board R.COMMIT_COMMIT = 0
    let runs : Prop := s.boardRuns = true ∧ s.relockHolds = false
    let now := s.board.frameAt + s.pixelTicks (s.vActive * s.hTotal)
    let kinds : List StateKind := [.registers, .time, .plls, .events, .board, .sent]
    (s.boardRuns = false → s.isSet .board R.COMMIT_COMMIT = true →
      (s.boardRefused = false → completes .boardApply s applied)
      ∧ (s.boardRefused = true → completes .boardApply s (fun t =>
        t.getF .board R.COMMIT_COMMIT = 0 ∧ t.getF .board R.BOARD_FLAGS_SET_REFUSED = 1 ∧ t.sticky .board 7 = true
          ∧ (∀ f ∈ mode, t.getF .board f = g f) ∧ s.onlyChanges kinds t)))
    ∧ (runs → s.board.blankAt = none → s.hiveTime ≤ now → now < 2 ^ 64 →
      (s.isSet .board R.COMMIT_COMMIT = false → completes .boardApply s (fun t =>
        t.hiveTime = now ∧ t.board.blankAt = some now
          ∧ (s.board.mixed = false → s.board.painted = false → t.board.sent = some (crc32c s.picture))
          ∧ (∀ f ∈ mode, t.getF .board f = g f) ∧ s.onlyChanges kinds t))
      ∧ (s.isSet .board R.COMMIT_COMMIT = true → s.boardRefused = false → s.board.commitAt ≤ now →
        (64 ≤ s.pixelsIn (now - s.board.commitAt) → completes .boardApply s (fun t => applied t ∧ t.hiveTime = now))
        ∧ (s.pixelsIn (now - s.board.commitAt) < 64 → completes .boardApply s (fun t =>
          t.getF .board R.COMMIT_COMMIT = 1 ∧ (∀ f ∈ mode, t.getF .board f = g f) ∧ t.hiveTime = now))))
    ∧ (∀ b, runs → s.board.blankAt = some b → s.board.sent = none → s.hiveTime ≤ s.stretchedEnd b → s.stretchedEnd b < 2 ^ 64 →
      (s.teUsed = false ∨ s.board.teCame = true) → completes .frameStart s (fun t =>
        t.hiveTime = s.stretchedEnd b ∧ t.getF .board R.BOARD_FRAME_VALUE = (g R.BOARD_FRAME_VALUE + 1) % 2 ^ 32
          ∧ t.board.frameAt = s.stretchedEnd b ∧ t.board.blankAt = none ∧ t.board.background = false
          ∧ (s.board.appliedOwed = true → t.getF .board R.BOARD_APPLIED_VALUE = t.getF .board R.BOARD_FRAME_VALUE
            ∧ t.sticky .board 0 = true)
          ∧ (s.board.appliedOwed = false → t.getF .board R.BOARD_APPLIED_VALUE = g R.BOARD_APPLIED_VALUE)
          ∧ s.onlyChanges kinds t))
    ∧ (∀ b c a a', s.board.blankAt = some b → s.board.sent = some c → c < 2 ^ 32 → completes (.frameCrc a a') s (fun t =>
      let upA := s.isSet .board R.BOARD_STATUS_A_UP
      let upB := s.isSet .board R.BOARD_STATUS_B_UP
      let bad := (upA && a % 2 ^ 32 != c) || (upB && a' % 2 ^ 32 != c)
      let wrong := s.isSet .board R.BOARD_CRC_CTRL_EXPECT_EN && g R.BOARD_CRC_EXPECT_CRC != c
      t.getF .board R.BOARD_CRC_PRE_VALUE = c ∧ (upA = true → t.getF .board R.BOARD_CRC_A_VALUE = a % 2 ^ 32)
        ∧ (upB = true → t.getF .board R.BOARD_CRC_B_VALUE = a' % 2 ^ 32)
        ∧ s.counted t .board R.BOARD_ERR_CRC_BAD (flag bad) ∧ (bad = true → t.sticky .board 2 = true)
        ∧ s.counted t .board R.BOARD_ERR2_EXPECT_BAD (flag wrong) ∧ (wrong = true → t.sticky .board 3 = true)
        ∧ t.board = { s.board with
          sent := none, lastCrc := some c, same := (if s.board.lastCrc = some c then s.board.same + 1 else 0) }
        ∧ s.onlyChanges kinds t))
    ∧ (s.boardRuns = true → s.isSet .board R.BOARD_REFRESH_LOWER_EN = true → max 1 (g R.BOARD_REFRESH_N_FRAMES) ≤ s.board.same →
      completes .lowered s (fun t =>
        t.getF .board R.BOARD_STATUS_LOWERED = 1 ∧ t.board = s.board ∧ s.onlyChanges [.registers, .board] t))
    ∧ (∀ b input rising tick, s.boardRuns = true → s.board.blankAt = some b → input < 2 → g R.BOARD_TE_SEL = input + 1 →
      s.hiveTime ≤ tick → tick < 2 ^ 64 → completes (.te input rising tick) s (fun t =>
        t.hiveTime = tick ∧ t.board = { s.board with
          teCame := s.board.teCame || (s.isSet .board R.BOARD_TE_EDGE != rising && decide (s.blankEnd b ≤ tick)) }
          ∧ s.onlyChanges [.registers, .time, .board] t))
    ∧ (∀ b, s.boardRuns = true → s.board.blankAt = some b → s.teUsed = true → s.board.teCame = false →
      let at' := s.stretchedEnd b + max 1 (g R.BOARD_TE_TIMEOUT_MS) * 12800000
      s.hiveTime ≤ at' → at' < 2 ^ 64 → completes .teMiss s (fun t =>
        t.hiveTime = at' ∧ t.board = { s.board with teCame := true } ∧ s.counted t .board R.BOARD_ERR_TE_MISS 1
          ∧ t.sticky .board 5 = true ∧ s.onlyChanges kinds t))

/-- The line buffer, the outputs, AUX and the painter (R583 to R591, R605): a fetch fills the line buffer in raster order; a pixel
without data underruns its line; an output trains, tries again and fails, and retrains on a loss; an AUX transaction is
started and answered; every strip takes its column.
Where the spec leaves it open, the model's own choices count
(log entries 128, 130, 131, 132). -/
def Obligations.BoardShowsItsPicture : Prop :=
  ∀ (s : State), s.has .board = true →
    let g (f : Fld) : Nat := s.getF .board f
    let kinds : List StateKind := [.registers, .time, .events, .board, .sent]
    (s.boardRuns = true → s.relockHolds = false → s.chanUsable 0 0 = true → s.board.fetching = false → (s.chan 0 0).flaws = [] →
      let n := s.piecesAhead.length
      let f := max s.board.fetchAt s.usedPieces
      let place (i : Nat) : Nat × Nat :=
        let a := s.fbPiece (s.rasterPiece (f + i))
        (a.2.2.1, (bankOf (s.rankBits 0 0) a.2.2.2).index)
      n ≤ 4 * g R.BOARD_LB_LOW_KIB → (s.chan 0 0).subA.acts = [] → (s.chan 0 0).subB.acts = [] →
      (∀ i, i < 1024 - n → ((List.range i).filter (fun j => place j == place i)).length < s.actMax 0 0) →
      completes .lineBufferFetch s (fun t =>
        t.board.fetchAt = f + (1024 - n) ∧ t.board.fetching = false ∧ t.board.pieces.length = s.board.pieces.length + (1024 - n)
          ∧ ∀ i, i < 1024 - n → ∃ x ∈ t.board.pieces, x.index = f + i ∧
            let a := s.fbPiece (s.rasterPiece (f + i))
            x.bytes = s.dramPiece 0 0 a.2.2.1 a.2.2.2))
    ∧ (∀ line pixel, s.boardRuns = true → s.relockHolds = false → s.board.background = false →
      g R.BOARD_STATUS_NO_FB = 0 → s.board.blankAt = none → line < s.vActive → pixel < s.hActive →
      let i := line * s.linePieces + pixel * s.pixelBytes / 256
      (∀ p ∈ s.board.pieces, p.index ≠ i) → (∀ e ∈ s.board.underruns, e.1 ≠ line) →
      completes (.underrun line pixel) s (fun t =>
        s.counted t .board R.BOARD_ERR_UNDERRUN 1 ∧ t.sticky .board 1 = true
          ∧ t.board.underruns = s.board.underruns ++ [(line, pixel)]
          ∧ (∀ x, pixel ≤ x → t.pixelShown x line = g R.BOARD_BG_RGB) ∧ s.onlyChanges kinds t))
    ∧ (∀ port, port < 2 →
      let x := s.outOf port
      (x.stage = .training →
        completes (.edpTrainingDone port true) s (fun t =>
          (t.outOf port).stage = .up ∧ t.getF .board (outUp port) = 1 ∧ s.onlyChanges kinds t)
        ∧ (x.tries < 2 → completes (.edpTrainingDone port false) s (fun t =>
          t.outOf port = ⟨.waiting, x.tries + 1, s.hiveTime + 1280000000⟩ ∧ s.onlyChanges kinds t))
        ∧ (2 ≤ x.tries → completes (.edpTrainingDone port false) s (fun t =>
          (t.outOf port).stage = .failed ∧ t.getF .board (outFailed port) = 1 ∧ t.getF .board (outUp port) = 0
            ∧ t.sticky .board 4 = true ∧ s.onlyChanges kinds t)))
      ∧ (x.stage = .waiting → s.hiveTime ≤ x.due → x.due < 2 ^ 64 → completes (.edpTrainRetry port) s (fun t =>
        t.outOf port = { x with stage := .training } ∧ t.hiveTime = x.due ∧ s.onlyChanges kinds t))
      ∧ (x.stage = .up → s.hiveTime ≤ x.due → x.due < 2 ^ 64 →
        completes (.laneStatusPoll port false) s (fun t =>
          t.outOf port = { x with due := x.due + 1280000000 } ∧ t.hiveTime = x.due ∧ s.onlyChanges kinds t)
        ∧ completes (.laneStatusPoll port true) s (fun t =>
          (t.outOf port).stage = .training ∧ t.getF .board (outUp port) = 0 ∧ s.counted t .board R.BOARD_ERR2_RETRAIN 1
            ∧ t.sticky .board 4 = true ∧ s.onlyChanges kinds t)))
    ∧ (∀ port kind lenM1 addr, port < 2 → kind < 4 → lenM1 < 16 → addr < 2 ^ 20 →
      (g R.BOARD_AUX_CTRL_BUSY = 0 → completes (.auxGo port kind lenM1 addr) s (fun t =>
        t.getF .board R.BOARD_AUX_CTRL_BUSY = 1
          ∧ t.out = .aux port kind addr (if kind % 2 = 0 then s.auxBytes.take (lenM1 + 1) else []) :: s.out
          ∧ s.onlyChanges [.registers, .board, .sent] t))
      ∧ (g R.BOARD_AUX_CTRL_BUSY = 1 → completes (.auxGo port kind lenM1 addr) s (fun t =>
        t.out = s.out ∧ t.getF .board R.BOARD_AUX_CTRL_BUSY = 1)))
    ∧ (∀ result bytes, g R.BOARD_AUX_CTRL_BUSY = 1 → 1 ≤ result → result ≤ 3 → completes (.auxDone result bytes) s (fun t =>
      let n := g R.BOARD_AUX_CTRL_LEN_M1 + 1
      t.getF .board R.BOARD_AUX_CTRL_BUSY = 0 ∧ t.getF .board R.BOARD_AUX_CTRL_RESULT = result
        ∧ (result = 1 → g R.BOARD_AUX_CTRL_KIND % 2 = 1 → bytes.length = n → t.auxBytes.take n = bytes)
        ∧ (result ≠ 1 ∨ g R.BOARD_AUX_CTRL_KIND % 2 = 0 → t.auxBytes = s.auxBytes)
        ∧ s.onlyChanges [.registers, .board] t))
    ∧ ∀ k j, s.painting = true → s.bgPaused = false → j < 64 → s.isSet .board (R.BOARD_STRIP_POS_EN j) = true →
      (∀ i, i < 64 → i ≠ j → s.isSet .board (R.BOARD_STRIP_POS_EN i) = false) →
      (∀ u f, (s.frame u f).eval = [] ∧ s.enabled (.frame u f) = false) → s.seqsIdle → s.taking = false →
      completes (.painterColumn k) s (fun t =>
        t.stripCode j (k % s.stripLen j) = 3 ∧ (∀ i col, i < 64 → col < 2048 → (i, col) ≠ (j, k % s.stripLen j) →
          t.stripCode i col = s.stripCode i col))

/-! ## Bring-up, resets, faults and service ports (chapters 01, 19 and 20) -/

/-- Start-up (R552, R609, R613, R615, R616, R637): a cold start leaves a full reservoir, an empty wear account that is marked lost and
every register at its reset value; PWR_OK brings the rails up and shows the references; the patch check reports its copies
and marks the hive booted; RESET_N stops everything at once, and its release, like the return of VIN, samples the straps.
Where the spec leaves it open, the model's own choices count
(log entries 5, 113, 116, 117, 118, 119). -/
def Obligations.StartUpGoesInSteps : Prop :=
  ∀ (s : State),
    let gone (t : State) : Prop :=
      t.powerOk = false ∧ t.booted = false ∧ t.takeState = 0 ∧ t.take = .reset ∧ t.hiveTime = 0 ∧ t.timeRuns = false
        ∧ t.boot.clocks = false ∧ t.boot.marching = false ∧ t.busMaster = false ∧ t.host.accepted = []
        ∧ (∀ u f, t.pod u f = .reset) ∧ (∀ q, t.queue q = .reset) ∧ t.ringState = 1 ∧ t.pending = s.pending ∧ t.fuse = s.fuse
    (∀ byVin straps, completes (.coldStart byVin straps) s (fun t =>
      gone t ∧ t.reeve.energy = 2048000000 ∧ t.reeve.wear.all (· == 0) = true ∧ t.reeve.periods = 0
        ∧ t.getF .reeve R.REEVE_WEAR_LOST = 1 ∧ t.sticky .reeve 7 = true ∧ t.boot.vin = byVin ∧ t.boot.vstby = !byVin
        ∧ t.boot.straps = majority straps ∧ t.getF .hive R.HIVE_BOOT_LAST_RESET = 1
        ∧ t.getF .hive R.HIVE_RESET_COUNT_RESET_N = 0 ∧ t.getF .ivr R.IVR_RAILS_VAON = 1))
    ∧ (s.boot.vin = true → s.boot.resetN = false → s.boot.railsOff = false → s.powerOk = false → s.getF .hive R.HIVE_BOOT_STAGE < 4 →
      completes .pwrOk s (fun t =>
        t.powerOk = true ∧ t.getF .hive R.HIVE_BOOT_STAGE = 4 ∧ t.getF .ivr R.PAGE_STATUS_READY = 1
          ∧ (∀ rail, railPresent s.fuse.part rail = true → t.isSet .ivr (railField rail) = true)
          ∧ (∀ p ∈ s.allPlls, t.getF p R.PLL_STATUS_REF_PRESENT = 1) ∧ t.host.configured = !s.boot.perst
          ∧ s.onlyChanges [.registers, .host] t))
    ∧ (∀ a p b q, s.powerOk = true → s.booted = false → a < 16 → b < 16 → p < 2 ^ 16 → q < 2 ^ 16 → s.boot.clocks = false →
      s.boot.marching = false → s.clocksUp = false → completes (.patchCheck a p b q) s (fun t =>
        let ca := if bitOf s.boot.straps 0 then a else 0
        let cb := if bitOf s.boot.straps 0 then b else 0
        t.booted = true ∧ t.getF .hive R.HIVE_PATCH_COPY_A = ca ∧ t.getF .hive R.HIVE_PATCH_COPY_B = cb
          ∧ t.getF .hive R.HIVE_PATCH_PATCHED = flag (ca == 1 || cb == 1)
          ∧ t.getF .hive R.HIVE_PATCH_USED_B = flag (cb == 1 && (ca != 1 || decide (p < q)))
          ∧ t.getF .hive R.HIVE_PATCH_PSEQ = (if cb = 1 ∧ (ca ≠ 1 ∨ p < q) then q else if ca = 1 then p else 0)
          ∧ t.getF .hive R.PAGE_STATUS_READY = 1 ∧ t.getF .reeve R.PAGE_STATUS_READY = 1))
    ∧ (s.boot.resetN = false → completes .resetNAssert s (fun t =>
      gone t ∧ t.boot.resetN = true ∧ t.getF .hive R.HIVE_BOOT_LAST_RESET = 2 ∧ t.reeve.energy = s.reeve.energy
        ∧ t.reeve.wear = s.reeve.wear
        ∧ t.getF .hive R.HIVE_RESET_COUNT_RESET_N = s.getF .hive R.HIVE_RESET_COUNT_RESET_N))
    ∧ (∀ straps, s.boot.resetN = true → completes (.resetNRelease straps) s (fun t =>
      t.boot = { s.boot with resetN := false, railsOff := false, straps := majority straps }
        ∧ t.reeve.shutdown = false ∧ t.getF .hive R.HIVE_BOOT_LAST_RESET = 2
        ∧ s.counted t .hive R.HIVE_RESET_COUNT_RESET_N 1 ∧ s.keepsWords [0x264, 0x26C] t
        ∧ s.onlyChanges [.registers, .reeve, .boot] t))
    ∧ ∀ straps, s.boot.vstby = true → s.boot.vin = false →
      (s.boot.resetN = true → completes (.vinReturn straps) s (fun t =>
        t.boot = { s.boot with vin := true } ∧ s.onlyChanges [.registers, .boot] t))
      ∧ (s.boot.resetN = false → completes (.vinReturn straps) s (fun t =>
        t.boot = { s.boot with vin := true, resetN := false, railsOff := false, straps := majority straps }
          ∧ t.getF .hive R.HIVE_BOOT_LAST_RESET = 6 ∧ s.onlyChanges [.registers, .reeve, .boot] t))

/-- PERST_N and the soft reset (R611, R616 to R618): asserted, PERST_N stops the take with reason HOST; its page reset comes when every
block is stored, leaves the take IDLE and keeps clocks, time and memories; released, configuration space answers. A soft reset
is refused in a take or without its key, and otherwise resets the data plane and keeps the host's pages.
Where the spec leaves it open, the model's own choices count
(log entries 30, 36, 120). -/
def Obligations.PerstAndSoftResetKeepWhatTheyMust : Prop :=
  ∀ (s : State),
    (s.boot.perst = false → completes .perstNAssert s (fun t =>
      t.boot = { s.boot with perst := true, perstDue := true } ∧ t.getF .hive R.HIVE_BOOT_LAST_RESET = 3
        ∧ s.counted t .hive R.HIVE_RESET_COUNT_PERST_N 1
        ∧ (s.takeState = 1 → t.takeState = 4 ∧ t.getF .hive R.HIVE_TAKE_STATE_REASON = 2)
        ∧ (s.taking = true → s.take.last = none → t.take.last = some (s.stopSlot, 2))
        ∧ (s.inTake = false → t.take = s.take) ∧ s.onlyChanges [.registers, .plls, .take, .events, .ring, .boot, .sent] t))
    ∧ (s.boot.perstDue = true → s.inTake = false → s.allStored = true → completes .perstNPageReset s (fun t =>
      t.takeState = 0 ∧ t.take = .reset ∧ t.boot.perstDue = false ∧ t.hiveTime = s.hiveTime ∧ t.timeRuns = s.timeRuns
        ∧ t.reeve = s.reeve ∧ t.dies = s.dies ∧ t.busMaster = false ∧ t.host.accepted = [] ∧ t.host.drains = []
        ∧ (t.queue (.hive 1)).entries = [] ∧ t.getF .host R.HOST_EVT_PRODUCED_SEQ = 0 ∧ t.ev.flight = []
        ∧ (∀ u f, s.has (.frame u f) = true → t.enabled (.frame u f) = false)
        ∧ (∀ u k, s.has (.dram u k) = true → t.chanState u k = s.chanState u k)
        ∧ t.getF .hive R.HIVE_BOOT_LAST_RESET = s.getF .hive R.HIVE_BOOT_LAST_RESET
        ∧ s.onlyChanges [.registers, .time, .intake, .pods, .frames, .scouts, .sequencers, .take, .streams, .stores, .events, .host,
          .triggers, .sidebands, .ring, .queues, .sram, .plls, .march, .dram, .channels, .board, .boot, .sent] t))
    ∧ (s.boot.perst = true → s.boot.perstDue = false → completes .perstNRelease s (fun t =>
      t.boot = { s.boot with perst := false } ∧ t.host = { s.host with configured := s.powerOk }
        ∧ t.getF .host R.PAGE_STATUS_READY = flag s.powerOk ∧ s.onlyChanges [.registers, .host, .boot] t))
    ∧ ∀ key,
      (s.inTake = true ∨ key ≠ 0xA5 → completes (.soft key) s (fun t =>
        t.getF .hive R.HIVE_RESET_CTRL_SOFT_REFUSED = 1 ∧ s.keepsWords [0x260] t ∧ s.onlyChanges [.registers] t))
      ∧ (s.inTake = false → key = 0xA5 → completes (.soft key) s (fun t =>
        t.takeState = 0 ∧ t.take = .reset ∧ t.getF .hive R.HIVE_BOOT_LAST_RESET = 5
          ∧ s.counted t .hive R.HIVE_RESET_COUNT_SOFT 1 ∧ t.host = s.host ∧ t.ring = s.ring ∧ t.reeve = s.reeve
          ∧ t.hiveTime = s.hiveTime
          ∧ (∀ u i, u < s.fuse.part.supers → i < 10 → (t.queue (.super u i)).entries = [])
          ∧ (∀ u f, s.has (.frame u f) = true → t.enabled (.frame u f) = false)
          ∧ (∀ u k, s.has (.dram u k) = true → t.chanState u k = s.chanState u k)
          ∧ (∀ f ∈ [R.HIVE_BOOT_FAULT_STOP, R.HIVE_RESET_COUNT_RESET_N, R.HIVE_PATCH_PSEQ], t.getF .hive f = s.getF .hive f)))

/-- Single faults of links (R34, R35, R622 to R624) and the service ports (R637, R638, R640, R641): a super that has lost its sideband
closes its streams and is no longer aligned; a failing die-to-die lane takes the spare, then half width, then stops the hive;
the SMBus target answers at its strapped address; a test instruction is loaded, and TRST_N holds the test logic.
Where the spec leaves it open, the model's own choices count
(log entries 121, 122, 123, 124, 125). -/
def Obligations.LinkFaultsAndServicePorts : Prop :=
  ∀ (s : State),
    (∀ u beat, s.has (.waggle u) = true → u ≠ 0 → u ∉ s.boot.cutOff → completes (.sidebandLoss u beat) s (fun t =>
      t.getF (.spll u 0) R.PLL_TIME_STATUS_ALIGNED = 0 ∧ t.boot = { s.boot with cutOff := s.boot.cutOff ++ [u] }
        ∧ (s.hiveTime < 2 ^ 64 → 32 * (beat + 1024) < 2 ^ 64 → t.hiveTime = max s.hiveTime (32 * (beat + 1024)))
        ∧ (s.taking = true → ∀ i ∈ sampleStreams u, (t.stream i).present = false)
        ∧ (s.taking = false → s.onlyChanges [.registers, .time, .boot] t)))
    ∧ (∀ link back, linkPresent s.fuse.part link = true →
      let n := (s.die link back).failed
      let spare := if back then R.HIVE_LINK_SPARE_HL link else R.HIVE_LINK_SPARE_LH link
      let half := if back then R.HIVE_LINK_HALF_HL link else R.HIVE_LINK_HALF_LH link
      let raised (j : Nat) (t : State) : Prop := bitOf (t.getF .events R.EVENTS_LINK_STICKY_BITS) (3 * link + j) = true
      (n ≤ 2 → completes (.dieLaneFail link back) s (fun t =>
        t.die link back = ⟨n + 1, true⟩
          ∧ (n = 0 → t.getF .hive spare = 1 ∧ raised 0 t ∧ s.onlyChanges [.registers, .dies, .events, .sent] t)
          ∧ (n = 1 → t.getF .hive half = 1 ∧ raised 1 t ∧ s.onlyChanges [.registers, .dies, .events, .sent] t)
          ∧ (n = 2 → t.getF .hive (R.HIVE_LINK_UP link) = 0 ∧ t.getF .hive R.HIVE_BOOT_FAULT_STOP = 5
            ∧ (s.taking = true → s.take.last = none → t.take.last = some (s.stopSlot, 5)))))
      ∧ (n ≤ 2 → completes (.laneRepairDone link back) s (fun t =>
        t.die link back = ⟨n, false⟩ ∧ s.onlyChanges [.dies] t)))
    ∧ (∀ addr pointer good, completes (.smbusPointerWrite addr pointer good) s (fun t =>
      t.ports.pointer = (if s.vaonUp = true ∧ addr = (if bitOf s.boot.straps 1 then 0x59 else 0x58) ∧ good = true then pointer % 2 ^ 16
        else s.ports.pointer) ∧ s.onlyChanges [.ports] t))
    ∧ (s.vaonUp = true → completes (.smbusBlockRead (if bitOf s.boot.straps 1 then 0x59 else 0x58)) s (fun t =>
      ∃ w, t.out = .smbusData w :: s.out ∧ t.ports = { s.ports with pointer := (s.ports.pointer + 4) % 2 ^ 16 }
        ∧ (0x3000 ≤ s.ports.pointer → w = 0)
        ∧ (∀ p o, s.powerOk = true → pageAt s.ports.pointer = some p → s.ports.pointer < 0x3000 → s.ports.pointer = pageBase p + o →
          o < 0x1000 → o % 4 = 0 → heldRegister p o = true → s.readsAs p o w)
        ∧ s.onlyChanges [.ports, .sent] t))
    ∧ (∀ addr, s.vaonUp = false ∨ addr ≠ (if bitOf s.boot.straps 1 then 0x59 else 0x58) →
      completes (.smbusBlockRead addr) s (fun t => t = s))
    ∧ (∀ i, s.ports.trst = false → completes (.tapInstruction i) s (fun t =>
      t.ports = { s.ports with instruction := i }
        ∧ t.out = (if i = .idcode then [.tapData (s.fuse.stepping.toNat / 16 * 2 ^ 28 + deviceId s.fuse.part * 2 ^ 12
          + Config.jedecCode.toNat * 2 + 1)] else []) ++ s.out
        ∧ (s.inTake = true → i ∈ [TapInstr.extest, .extestPulse, .extestTrain, .clamp, .highz] → t.tapActs = .bypass)
        ∧ (s.inTake = false ∨ i ∉ [TapInstr.extest, .extestPulse, .extestTrain, .clamp, .highz] → t.tapActs = i)
        ∧ s.onlyChanges [.ports, .sent] t))
    ∧ (∀ i, s.ports.trst = true → completes (.tapInstruction i) s (fun t => t = s))
    ∧ ∀ low, completes (.trstN low) s (fun t =>
      t.ports.trst = low ∧ (low = true → t.tapActs = .idcode) ∧ (low = false → t.ports.instruction = s.ports.instruction)
        ∧ s.onlyChanges [.ports] t)
end

