-- ==== Sys2Proof/Laws/Closed.lean ====
section
/-!
SUPPORT. Everything the hive may do to its state, said once: every operation is made of the primitive updates that
`Closed` lists, each of one kind of state, so a property of states that each of the updates of some kinds keeps is kept by
every operation that changes nothing but those kinds. The lemmas of the operations are in the files that import this one;
the hypotheses of each name the kinds that it may change.
-/
namespace Sys2Proof.Machine

/-- The property is kept by each primitive update of a kind that `A` allows: a write or a reset of a register word, of a unit, of
a byte of memory, of hive time, the loss of power, and any change of the fields that are not tables. The part and the queue of
waiting commands are in no update. -/
structure Closed (A : StateKind → Prop) (P : State → Prop) : Prop where
  other : ∀ (s : State)
    (timeRuns : Bool) (loadWanted : Option Nat) (turnAt : Option Nat) (stopped : List (Nat × Nat)) (take : TakeSt)
    (ev : EventSt) (busMaster : Bool) (trigIn : List PinEdge) (trigOut : List (Nat × (Bool × Option Nat)))
    (afLog : List AfAct) (afQueue : List AfAct) (host : HostSt) (nbTolerance : Nat) (ring : RingSt)
    (reeve : ReeveSt) (boot : BootSt) (ports : PortSt) (board : BoardSt) (frees : Nat) (out : List Out),
    (A .time ∨ timeRuns = s.timeRuns) → (A .time ∨ loadWanted = s.loadWanted) → (A .time ∨ turnAt = s.turnAt) →
    (A .intake ∨ stopped = s.stopped) → (A .take ∨ take = s.take) → (A .events ∨ ev = s.ev) →
    (A .host ∨ busMaster = s.busMaster) → (A .triggers ∨ trigIn = s.trigIn) → (A .triggers ∨ trigOut = s.trigOut) →
    (A .ring ∨ afLog = s.afLog) → (A .ring ∨ afQueue = s.afQueue) → (A .host ∨ host = s.host) →
    (A .board ∨ nbTolerance = s.nbTolerance) → (A .ring ∨ ring = s.ring) → (A .reeve ∨ reeve = s.reeve) →
    (A .boot ∨ boot = s.boot) → (A .ports ∨ ports = s.ports) → (A .board ∨ board = s.board) →
    (A .sent ∨ frees = s.frees) → (A .sent ∨ out = s.out) →
    P s → P (State.mk
      s.fuse s.act s.shd s.latched s.held s.hiveTime timeRuns s.superTime loadWanted turnAt stopped s.plls s.pods
      s.frames s.scouts s.seqs take s.streams s.stores ev busMaster trigIn trigOut s.sides afLog afQueue s.queues
      s.sram s.srams s.sramEpoch s.dram s.chans s.dramEpoch host nbTolerance ring reeve boot s.dies ports board
      frees out s.pending)
  setWord : A .registers → ∀ (s : State) (a : Nat) (w : Word), P s → P (s.setWord a w)
  setShadow : A .registers → ∀ (s : State) (a : Nat) (w : Word), P s → P (s.setShadow a w)
  holdWord : A .registers → ∀ (s : State) (a : Nat) (w : Word), P s → P (s.holdWord a w)
  unhold : A .registers → ∀ (s : State) (a : Nat), P s → P (s.unhold a)
  latchWord : A .registers → ∀ (s : State) (a : Nat) (w : Word), P s → P (s.latchWord a w)
  unlatch : A .registers → ∀ (s : State) (a : Nat), P s → P (s.unlatch a)
  clearRegs : A .registers → ∀ (s : State) (p : Page) (lo hi : Nat), P s → P (s.clearRegs p lo hi)
  blankRegs : A .registers → ∀ (s : State), P s → P (s.blankRegs)
  setPll : A .plls → ∀ (s : State) (p : Page) (x : PllSt), P s → P (s.setPll p x)
  setPod : A .pods → ∀ (s : State) (u f : Nat) (x : PodSt), P s → P (s.setPod u f x)
  setFrame : A .frames → ∀ (s : State) (u f : Nat) (x : FrameSt), P s → P (s.setFrame u f x)
  setScout : A .scouts → ∀ (s : State) (u k : Nat) (x : ScoutSt), P s → P (s.setScout u k x)
  setSeq : A .sequencers → ∀ (s : State) (u : Nat) (x : SeqSt), P s → P (s.setSeq u x)
  setStream : A .streams → ∀ (s : State) (i : StreamId) (x : StreamSt), P s → P (s.setStream i x)
  setStore : A .stores → ∀ (s : State) (u : Nat) (x : StoreSt), P s → P (s.setStore u x)
  setSide : A .sidebands → ∀ (s : State) (u : Nat) (x : SideSt), P s → P (s.setSide u x)
  setQueue : A .queues → ∀ (s : State) (q : QueueId) (x : QueueSt), P s → P (s.setQueue q x)
  setSramOf : A .march → ∀ (s : State) (u : Nat) (x : SramSt), P s → P (s.setSramOf u x)
  setChan : A .channels → ∀ (s : State) (u k : Nat) (x : ChanSt), P s → P (s.setChan u k x)
  setDie : A .dies → ∀ (s : State) (link : Nat) (back : Bool) (x : DieSt), P s → P (s.setDie link back x)
  blankSrams : A .march → ∀ (s : State), P s → P (s.blankSrams)
  setSramByte : A .sram → ∀ (s : State) (u off : Nat) (b : Byte), P s → P (s.setSramByte u off b)
  clearSram : A .sram → ∀ (s : State) (q : Nat → Bool), P s → P (s.clearSram q)
  renewSram : A .sram → ∀ (s : State) (u n : Nat), P s → P (s.renewSram u n)
  setDramStored : A .dram → ∀ (s : State) (u k sub off : Nat) (b : Byte), P s → P (s.setDramStored u k sub off b)
  renewDram : A .dram → ∀ (s : State) (u k n : Nat), P s → P (s.renewDram u k n)
  setTimeOf : A .time → ∀ (s : State) (u t : Nat), P s → P (s.setTimeOf u t)
  tick : A .time → ∀ (s : State) (d : Nat), P s → P (s.tick d)
  loadTime : A .time → ∀ (s : State) (t : Nat), P s → P (s.loadTime t)
  unpowered : (∀ k, A k) → ∀ (s : State), P s → P (s.unpowered)

variable {A : StateKind → Prop} {P : State → Prop}

/-- The next state that an outcome answers, if any, has the property. -/
def nextHas (P : State → Prop) : Host.Outcome State Fault Refusal → Prop
  | .next t => P t
  | .fault _ => True
  | .refused _ => True

theorem nextHas_next {s : State} (h : P s) : nextHas P (.next s) := h
theorem nextHas_fault (e : Fault) : nextHas P (.fault e) := trivial

theorem nextHas_iff {o : Host.Outcome State Fault Refusal} : nextHas P o ↔ ∀ t, o = .next t → P t := by
  cases o <;> simp [nextHas]

theorem closed_foldl {f : State → α → State} {s : State} (l : List α) (h : P s) (hf : ∀ t a, P t → P (f t a)) :
    P (l.foldl f s) := by
  induction l generalizing s with
  | nil => exact h
  | cons a l ih => exact ih (hf s a h)

theorem closed_ite {c : Prop} [Decidable c] {a b : State} (ha : P a) (hb : P b) : P (if c then a else b) := by
  split
  · exact ha
  · exact hb

end Sys2Proof.Machine
end

