-- ==== Sys2Proof/Laws/ClosedCore.lean ====
section
/-!
SUPPORT. The operations on registers, events, memories, streams, frames and scouts
keep what the primitive updates of their kinds of state keep (Sys2Proof/Laws/Closed.lean).
-/
namespace Sys2Proof.Machine

variable {A : StateKind → Prop} {P : State → Prop}

/-! ### Sys2Proof/Machine/Ops.lean -/

theorem State.putF_closed (hc : Closed A P) (kRegisters : A .registers) {s : State} (p : Page) (f : Fld) (v : Nat)
    (hs : P s) :
    P (s.putF p f v) := by
  unfold State.putF
  repeat first
    | with_reducible assumption | with_reducible apply hc.setWord

theorem State.putShadowF_closed (hc : Closed A P) (kRegisters : A .registers) {s : State} (p : Page) (f : Fld)
    (v : Nat) (hs : P s) :
    P (s.putShadowF p f v) := by
  unfold State.putShadowF
  repeat first
    | with_reducible assumption | with_reducible apply hc.setShadow

theorem State.bump_closed (hc : Closed A P) (kRegisters : A .registers) {s : State} (p : Page) (f : Fld) (n : Nat)
    (hs : P s) :
    P (s.bump p f n) := by
  unfold State.bump
  repeat first
    | with_reducible assumption | with_reducible apply State.putF_closed hc

theorem State.setBitF_closed (hc : Closed A P) (kRegisters : A .registers) {s : State} (p : Page) (f : Fld)
    (i : Nat) (hs : P s) :
    P (s.setBitF p f i) := by
  unfold State.setBitF
  repeat first
    | with_reducible assumption | with_reducible apply State.putF_closed hc

theorem State.putBitF_closed (hc : Closed A P) (kRegisters : A .registers) {s : State} (p : Page) (f : Fld)
    (i : Nat) (b : Bool) (hs : P s) :
    P (s.putBitF p f i b) := by
  unfold State.putBitF
  repeat first
    | with_reducible assumption | with_reducible apply State.putF_closed hc

theorem State.putPair_closed (hc : Closed A P) (kRegisters : A .registers) {s : State} (p : Page) (lo hi : Fld)
    (v : Nat) (hs : P s) :
    P (s.putPair p lo hi v) := by
  unfold State.putPair
  repeat first
    | with_reducible assumption | with_reducible apply State.putF_closed hc

theorem State.copyToActive_closed (hc : Closed A P) (kRegisters : A .registers) {s : State}
    (sel : Page → Nat → Word) (p : Page) (hs : P s) :
    P (State.copyToActive sel s p) := by
  unfold State.copyToActive
  repeat first
    | with_reducible assumption | with_reducible apply hc.setWord
    | (with_reducible apply closed_foldl; rotate_left; intro _ _ _) | dsimp only

theorem State.copyToShadow_closed (hc : Closed A P) (kRegisters : A .registers) {s : State} (p : Page) (hs : P s) :
    P (s.copyToShadow p) := by
  unfold State.copyToShadow
  repeat first
    | with_reducible assumption | with_reducible apply hc.setShadow
    | (with_reducible apply closed_foldl; rotate_left; intro _ _ _) | dsimp only

theorem State.settleDirty_closed (hc : Closed A P) (kRegisters : A .registers) {s : State} (p : Page) (hs : P s) :
    P (s.settleDirty p) := by
  unfold State.settleDirty
  repeat first
    | with_reducible assumption | with_reducible apply State.putF_closed hc

theorem State.countApply_closed (hc : Closed A P) (kRegisters : A .registers) {s : State} (p : Page) (hs : P s) :
    P (s.countApply p) := by
  unfold State.countApply
  repeat first
    | with_reducible assumption | with_reducible apply State.putF_closed hc

theorem State.clearPage_closed (hc : Closed A P) (kRegisters : A .registers) {s : State} (p : Page) (hs : P s) :
    P (s.clearPage p) := by
  unfold State.clearPage
  repeat first
    | with_reducible assumption | with_reducible apply hc.clearRegs

theorem State.advanceTo_closed (hc : Closed A P) (kTime : A .time) {s : State} (t : Nat) (hs : P s) :
    P (s.advanceTo t) := by
  unfold State.advanceTo
  repeat first
    | with_reducible assumption | with_reducible apply hc.tick | with_reducible apply closed_ite | split

theorem State.emit_closed (hc : Closed A P) (kSent : A .sent) {s : State} (o : Out) (hs : P s) : P (s.emit o) := by
  unfold State.emit
  repeat first
    | with_reducible assumption | exact Or.inl ‹_› | exact Or.inr rfl | with_reducible apply hc.other

theorem State.drawFree_closed (hc : Closed A P) (kSent : A .sent) {s : State} (hs : P s) : P (s.drawFree).2 := by
  unfold State.drawFree
  repeat first
    | with_reducible assumption | dsimp only | split | exact Or.inl ‹_› | exact Or.inr rfl
    | with_reducible apply hc.other

theorem State.setTakeState_closed (hc : Closed A P) (kRegisters : A .registers) {s : State} (v : Nat) (hs : P s) :
    P (s.setTakeState v) := by
  unfold State.setTakeState
  repeat first
    | with_reducible assumption | with_reducible apply State.putF_closed hc

/-! ### Sys2Proof/Machine/Raise.lean -/

theorem State.produce_closed (hc : Closed A P) (kEvents : A .events) {s : State} (r : EvRec) (hs : P s) :
    P (s.produce r) := by
  unfold State.produce
  repeat first
    | with_reducible assumption | exact Or.inl ‹_› | exact Or.inr rfl | with_reducible apply hc.other

theorem State.flushUnrec_closed (hc : Closed A P) (kEvents : A .events) {s : State} (n : Nat) (hs : P s) :
    P (s.flushUnrec n) := by
  unfold State.flushUnrec
  repeat first
    | with_reducible assumption | with_reducible apply State.produce_closed hc | dsimp only | split
    | exact Or.inl ‹_› | exact Or.inr rfl | with_reducible apply hc.other

theorem State.serveVector_closed (hc : Closed A P) (kRegisters : A .registers) (kEvents : A .events)
    (kSent : A .sent) {s : State} (v : Nat) (hs : P s) :
    P (s.serveVector v) := by
  unfold State.serveVector
  repeat first
    | with_reducible assumption | with_reducible apply State.emit_closed hc
    | with_reducible apply State.putBitF_closed hc | with_reducible apply State.setBitF_closed hc
    | with_reducible apply closed_ite | dsimp only | split | exact Or.inl ‹_› | exact Or.inr rfl
    | with_reducible apply hc.other

theorem State.serveVectors_closed (hc : Closed A P) (kRegisters : A .registers) (kEvents : A .events)
    (kSent : A .sent) {s : State} (hs : P s) :
    P s.serveVectors := by
  unfold State.serveVectors
  repeat first
    | with_reducible assumption | with_reducible apply State.serveVector_closed hc
    | (with_reducible apply closed_foldl; rotate_left; intro _ _ _) | dsimp only

theorem State.causeReady_closed (hc : Closed A P) (kEvents : A .events) {s : State} (g : Nat) (hs : P s) :
    P (s.causeReady g) := by
  unfold State.causeReady
  repeat first
    | with_reducible assumption | with_reducible apply closed_ite | split | exact Or.inl ‹_› | exact Or.inr rfl
    | with_reducible apply hc.other

theorem State.recordRaise_closed (hc : Closed A P) (kRegisters : A .registers) (kEvents : A .events)
    (kSent : A .sent) {s : State} (n time : Nat) (forced : Bool) (count : Nat) (hs : P s) :
    P (s.recordRaise n time forced count) := by
  unfold State.recordRaise
  repeat first
    | with_reducible assumption | with_reducible apply State.causeReady_closed hc
    | with_reducible apply State.flushUnrec_closed hc | with_reducible apply State.produce_closed hc
    | with_reducible apply State.serveVectors_closed hc | with_reducible apply closed_ite | dsimp only | split
    | exact Or.inl ‹_› | exact Or.inr rfl | with_reducible apply hc.other

theorem State.raiseAt_closed (hc : Closed A P) (kRegisters : A .registers) (kEvents : A .events) (kSent : A .sent)
    {s : State} (n time : Nat) (forced : Bool) (hs : P s) :
    P (s.raiseAt n time forced) := by
  unfold State.raiseAt
  repeat first
    | with_reducible assumption | with_reducible apply State.bump_closed hc
    | with_reducible apply State.recordRaise_closed hc | with_reducible apply State.setBitF_closed hc
    | with_reducible apply closed_ite | dsimp only | split | exact Or.inl ‹_› | exact Or.inr rfl
    | with_reducible apply hc.other

theorem State.raise_closed (hc : Closed A P) (kRegisters : A .registers) (kEvents : A .events) (kSent : A .sent)
    {s : State} (p : Page) (n : Nat) (hs : P s) :
    P (s.raise p n) := by
  unfold State.raise
  repeat first
    | with_reducible assumption | with_reducible apply State.raiseAt_closed hc

theorem State.raiseLink_closed (hc : Closed A P) (kRegisters : A .registers) (kEvents : A .events) (kSent : A .sent)
    {s : State} (l j : Nat) (hs : P s) :
    P (s.raiseLink l j) := by
  unfold State.raiseLink
  repeat first
    | with_reducible assumption | with_reducible apply State.raiseAt_closed hc

/-! ### Sys2Proof/Machine/Memory.lean -/

theorem State.setSramBytes_closed (hc : Closed A P) (kSram : A .sram) {s : State} (u off : Nat) (l : List Byte)
    (hs : P s) :
    P (s.setSramBytes u off l) := by
  unfold State.setSramBytes
  repeat first
    | with_reducible assumption | with_reducible apply hc.setSramByte
    | (with_reducible apply closed_foldl; rotate_left; intro _ _ _) | dsimp only

theorem State.workSram_closed (hc : Closed A P) (kSram : A .sram) (kSent : A .sent) {s : State} (u : Nat) (hs : P s)
    :
    P (s.workSram u) := by
  unfold State.workSram
  repeat first
    | with_reducible assumption | with_reducible apply hc.renewSram | with_reducible apply State.drawFree_closed hc
    | dsimp only

theorem State.zeroSram_closed (hc : Closed A P) (kSram : A .sram) (kMarch : A .march) {s : State} (u : Nat)
    (hs : P s) :
    P (s.zeroSram u) := by
  unfold State.zeroSram
  repeat first
    | with_reducible assumption | with_reducible apply hc.clearSram | with_reducible apply hc.renewSram
    | with_reducible apply hc.setSramOf | dsimp only | exact Or.inl ‹_› | exact Or.inr rfl
    | with_reducible apply hc.other

theorem State.sramError_closed (hc : Closed A P) (kRegisters : A .registers) (kEvents : A .events) (kSent : A .sent)
    {s : State} (u off master : Nat) (bad : Bool) (hs : P s) :
    P (s.sramError u off master bad) := by
  unfold State.sramError
  repeat first
    | with_reducible assumption | with_reducible apply State.bump_closed hc
    | with_reducible apply State.putF_closed hc | with_reducible apply State.raise_closed hc
    | with_reducible apply closed_ite | dsimp only | split

theorem State.markSram_closed (hc : Closed A P) (kMarch : A .march) {s : State} (u off : Nat) (bad : Bool)
    (hs : P s) :
    P (s.markSram u off bad) := by
  unfold State.markSram
  repeat first
    | with_reducible assumption | with_reducible apply hc.setSramOf | with_reducible apply closed_ite | dsimp only
    | split | exact Or.inl ‹_› | exact Or.inr rfl | with_reducible apply hc.other

theorem State.upsetSram_closed (hc : Closed A P) (kSram : A .sram) (kMarch : A .march) (kSent : A .sent) {s : State}
    (u off : Nat) (hs : P s) :
    P (s.upsetSram u off) := by
  unfold State.upsetSram
  repeat first
    | with_reducible assumption | with_reducible apply State.drawFree_closed hc
    | with_reducible apply State.markSram_closed hc | with_reducible apply State.setSramBytes_closed hc | dsimp only

theorem State.upsetBytes_closed (hc : Closed A P) (kSent : A .sent) {s : State} (l : List Byte) (rest : List Nat)
    (hs : P s) :
    P (s.upsetBytes l rest).2 := by
  induction rest generalizing s l with
  | nil => exact hs
  | cons a l ih =>
    unfold State.upsetBytes
    repeat first
      | with_reducible assumption | with_reducible apply State.drawFree_closed hc | with_reducible apply ih
      | dsimp only | split

theorem State.loseDram_closed (hc : Closed A P) (kDram : A .dram) (kChannels : A .channels) (kSent : A .sent)
    {s : State} (u k : Nat) (hs : P s) :
    P (s.loseDram u k) := by
  unfold State.loseDram
  repeat first
    | with_reducible assumption | with_reducible apply hc.renewDram | with_reducible apply hc.setChan
    | with_reducible apply State.drawFree_closed hc | dsimp only | exact Or.inl ‹_› | exact Or.inr rfl
    | with_reducible apply hc.other

theorem State.zeroDram_closed (hc : Closed A P) (kDram : A .dram) (kChannels : A .channels) {s : State} (u k : Nat)
    (hs : P s) :
    P (s.zeroDram u k) := by
  unfold State.zeroDram
  repeat first
    | with_reducible assumption | with_reducible apply hc.renewDram | with_reducible apply hc.setChan | dsimp only
    | exact Or.inl ‹_› | exact Or.inr rfl | with_reducible apply hc.other

theorem State.logError_closed (hc : Closed A P) (kRegisters : A .registers) {s : State}
    (u k sub kind port piece w bit : Nat) (hs : P s) :
    P (s.logError u k sub kind port piece w bit) := by
  unfold State.logError
  repeat first
    | with_reducible assumption | with_reducible apply State.putF_closed hc
    | with_reducible apply State.putPair_closed hc | dsimp only

/-! ### Sys2Proof/Machine/Streams.lean -/

theorem State.sendBlock_closed (hc : Closed A P) (kStores : A .stores) {s : State} (u : Nat) (b : OutBlock)
    (hs : P s) :
    P (s.sendBlock u b) := by
  unfold State.sendBlock
  repeat first
    | with_reducible assumption | with_reducible apply hc.setStore | dsimp only | exact Or.inl ‹_› | exact Or.inr rfl
    | with_reducible apply hc.other

theorem State.takeSeq_closed (hc : Closed A P) (kStreams : A .streams) {s : State} (i : StreamId) (hs : P s) :
    P (s.takeSeq i).2 := by
  unfold State.takeSeq
  repeat first
    | with_reducible assumption | with_reducible apply hc.setStream | dsimp only | split | exact Or.inl ‹_›
    | exact Or.inr rfl | with_reducible apply hc.other

theorem State.writePiece_closed (hc : Closed A P) (kStreams : A .streams) (kStores : A .stores) {s : State}
    (u : Nat) (b : CutBlock) (c : Coded) (firstRun rawLen : Nat) (payload : List Nat) (hs : P s) :
    P (s.writePiece u b c firstRun rawLen payload) := by
  unfold State.writePiece
  repeat first
    | with_reducible assumption | with_reducible apply State.sendBlock_closed hc
    | with_reducible apply State.takeSeq_closed hc | with_reducible apply closed_ite | dsimp only | split
    | exact Or.inl ‹_› | exact Or.inr rfl | with_reducible apply hc.other

theorem State.settleBacklog_closed (hc : Closed A P) (kRegisters : A .registers) (kEvents : A .events)
    (kSent : A .sent) {s : State} (u : Nat) (hs : P s) :
    P (s.settleBacklog u) := by
  unfold State.settleBacklog
  repeat first
    | with_reducible assumption | with_reducible apply State.putF_closed hc
    | with_reducible apply State.raise_closed hc | with_reducible apply closed_ite | dsimp only | split

theorem State.addPair_closed (hc : Closed A P) (kRegisters : A .registers) {s : State} (p : Page) (lo hi : Fld)
    (n : Nat) (hs : P s) :
    P (s.addPair p lo hi n) := by
  unfold State.addPair
  repeat first
    | with_reducible assumption | with_reducible apply State.putPair_closed hc

theorem State.handOn_closed (hc : Closed A P) (kRegisters : A .registers) (kStreams : A .streams)
    (kStores : A .stores) (kEvents : A .events) (kSent : A .sent) {s : State} (b : CutBlock) (hs : P s) :
    P (s.handOn b) := by
  unfold State.handOn
  repeat first
    | with_reducible assumption | with_reducible apply hc.setStore | with_reducible apply State.addPair_closed hc
    | with_reducible apply State.settleBacklog_closed hc | with_reducible apply State.writePiece_closed hc
    | with_reducible apply closed_ite | dsimp only | split | exact Or.inl ‹_› | exact Or.inr rfl
    | with_reducible apply hc.other

theorem State.cutFrame_closed (hc : Closed A P) (kRegisters : A .registers) (kStreams : A .streams)
    (kStores : A .stores) (kEvents : A .events) (kSent : A .sent) {s : State} (u f fit stop' : Nat) (last : Bool)
    (hs : P s) :
    P (s.cutFrame u f fit stop' last).2 := by
  unfold State.cutFrame
  repeat first
    | with_reducible assumption | with_reducible apply hc.setStream | with_reducible apply State.handOn_closed hc
    | with_reducible apply closed_ite | dsimp only | split | exact Or.inl ‹_› | exact Or.inr rfl
    | with_reducible apply hc.other

theorem State.cutScout_closed (hc : Closed A P) (kRegisters : A .registers) (kStreams : A .streams)
    (kStores : A .stores) (kEvents : A .events) (kSent : A .sent) {s : State} (u fit stop' : Nat) (last : Bool)
    (hs : P s) :
    P (s.cutScout u fit stop' last).2 := by
  unfold State.cutScout
  repeat first
    | with_reducible assumption | with_reducible apply hc.setStream | with_reducible apply hc.tick
    | with_reducible apply State.handOn_closed hc | (with_reducible apply closed_foldl; rotate_left; intro _ _ _)
    | with_reducible apply closed_ite | dsimp only | split | exact Or.inl ‹_› | exact Or.inr rfl
    | with_reducible apply hc.other

theorem State.cutMarkAt_closed (hc : Closed A P) (kStreams : A .streams) (kStores : A .stores) {s : State}
    (stop : Nat) (last : Bool) (hs : P s) :
    P (s.cutMarkAt stop last) := by
  unfold State.cutMarkAt
  repeat first
    | with_reducible assumption | with_reducible apply hc.setStream | with_reducible apply State.sendBlock_closed hc
    | with_reducible apply State.takeSeq_closed hc | with_reducible apply closed_ite | dsimp only | split
    | exact Or.inl ‹_› | exact Or.inr rfl | with_reducible apply hc.other

theorem State.cutLongMarks_closed (hc : Closed A P) (kStreams : A .streams) (kStores : A .stores) {s : State}
    (stop : Nat) (n : Nat) (hs : P s) :
    P (s.cutLongMarks stop n) := by
  induction n generalizing s stop with
  | zero => exact hs
  | succ n ih =>
    unfold State.cutLongMarks
    repeat first
      | with_reducible assumption | with_reducible apply State.cutMarkAt_closed hc | with_reducible apply ih
      | with_reducible apply closed_ite | dsimp only | split

theorem State.cutMark_closed (hc : Closed A P) (kStreams : A .streams) (kStores : A .stores) {s : State}
    (stop : Nat) (last : Bool) (hs : P s) :
    P (s.cutMark stop last) := by
  unfold State.cutMark
  repeat first
    | with_reducible assumption | with_reducible apply State.cutLongMarks_closed hc
    | with_reducible apply State.cutMarkAt_closed hc

theorem State.cutAll_closed (hc : Closed A P) (kRegisters : A .registers) (kStreams : A .streams)
    (kStores : A .stores) (kEvents : A .events) (kSent : A .sent) {s : State} (i : StreamId) (stop : Nat)
    (last : Bool) (n : Nat) (hs : P s) :
    P (s.cutAll i stop last n) := by
  induction n generalizing s i stop last with
  | zero => exact hs
  | succ n ih =>
    unfold State.cutAll
    repeat first
      | with_reducible assumption | with_reducible apply State.cutFrame_closed hc
      | with_reducible apply State.cutMark_closed hc | with_reducible apply State.cutScout_closed hc
      | with_reducible apply ih | with_reducible apply closed_ite | dsimp only | split | exact Or.inl ‹_›
      | exact Or.inr rfl | with_reducible apply hc.other

theorem State.closingBlock_closed (hc : Closed A P) (kRegisters : A .registers) (kStreams : A .streams)
    (kStores : A .stores) (kEvents : A .events) (kSent : A .sent) {s : State} (i : StreamId) (t gap : Nat)
    (chosen last : Bool) (hs : P s) :
    P (s.closingBlock i t gap chosen last) := by
  unfold State.closingBlock
  repeat first
    | with_reducible assumption | with_reducible apply hc.setStream | with_reducible apply State.cutMark_closed hc
    | with_reducible apply State.handOn_closed hc | dsimp only | split | exact Or.inl ‹_› | exact Or.inr rfl
    | with_reducible apply hc.other

theorem State.holeBegin_closed (hc : Closed A P) (kRegisters : A .registers) (kStreams : A .streams)
    (kStores : A .stores) (kEvents : A .events) (kSent : A .sent) {s : State} (i : StreamId) (t : Nat)
    (chosen : Bool) (hs : P s) :
    P (s.holeBegin i t chosen) := by
  unfold State.holeBegin
  repeat first
    | with_reducible assumption | with_reducible apply hc.setStream
    | with_reducible apply State.closingBlock_closed hc | with_reducible apply State.cutAll_closed hc
    | with_reducible apply closed_ite | dsimp only | split | exact Or.inl ‹_› | exact Or.inr rfl
    | with_reducible apply hc.other

theorem State.countLost_closed (hc : Closed A P) (kRegisters : A .registers) {s : State} (i : StreamId)
    (ticks : Nat) (chosen : Bool) (hs : P s) :
    P (s.countLost i ticks chosen) := by
  unfold State.countLost
  repeat first
    | with_reducible assumption | with_reducible apply State.bump_closed hc | with_reducible apply closed_ite | split
    | exact Or.inl ‹_› | exact Or.inr rfl | with_reducible apply hc.other

theorem State.holeEnd_closed (hc : Closed A P) (kRegisters : A .registers) (kStreams : A .streams) {s : State}
    (i : StreamId) (t : Nat) (hs : P s) :
    P (s.holeEnd i t) := by
  unfold State.holeEnd
  repeat first
    | with_reducible assumption | with_reducible apply hc.setStream | with_reducible apply hc.tick
    | with_reducible apply State.countLost_closed hc | (with_reducible apply closed_foldl; rotate_left; intro _ _ _)
    | dsimp only | split | exact Or.inl ‹_› | exact Or.inr rfl | with_reducible apply hc.other

theorem State.closeStream_closed (hc : Closed A P) (kRegisters : A .registers) (kStreams : A .streams)
    (kStores : A .stores) (kEvents : A .events) (kSent : A .sent) {s : State} (i : StreamId) (t : Nat) (hs : P s) :
    P (s.closeStream i t) := by
  unfold State.closeStream
  repeat first
    | with_reducible assumption | with_reducible apply hc.setStream
    | with_reducible apply State.closingBlock_closed hc | with_reducible apply State.countLost_closed hc
    | with_reducible apply State.cutAll_closed hc | with_reducible apply closed_ite | dsimp only | split
    | exact Or.inl ‹_› | exact Or.inr rfl | with_reducible apply hc.other

theorem State.closeSegment_closed (hc : Closed A P) (kRegisters : A .registers) (kStreams : A .streams)
    (kStores : A .stores) (kEvents : A .events) (kSent : A .sent) {s : State} (i : StreamId) (e : Ended) (hs : P s)
    :
    P (s.closeSegment i e) := by
  unfold State.closeSegment
  repeat first
    | with_reducible assumption | with_reducible apply hc.setStream
    | with_reducible apply State.closeStream_closed hc | with_reducible apply closed_ite | dsimp only | split
    | exact Or.inl ‹_› | exact Or.inr rfl | with_reducible apply hc.other

theorem State.enterMark_closed (hc : Closed A P) (kStreams : A .streams) (kStores : A .stores) {s : State}
    (r : MarkRec) (hs : P s) :
    P (s.enterMark r) := by
  unfold State.enterMark
  repeat first
    | with_reducible assumption | with_reducible apply hc.setStream | with_reducible apply State.cutMark_closed hc
    | with_reducible apply closed_ite | dsimp only | split | exact Or.inl ‹_› | exact Or.inr rfl
    | with_reducible apply hc.other

theorem State.systemMark_closed (hc : Closed A P) (kTake : A .take) {s : State} (r : MarkRec) (hs : P s) :
    P (s.systemMark r) := by
  unfold State.systemMark
  repeat first
    | with_reducible assumption | with_reducible apply closed_ite | dsimp only | split | exact Or.inl ‹_›
    | exact Or.inr rfl | with_reducible apply hc.other

theorem State.drainSystem_closed (hc : Closed A P) (kTake : A .take) (kStreams : A .streams) (kStores : A .stores)
    {s : State} (hs : P s) :
    P s.drainSystem := by
  unfold State.drainSystem
  repeat first
    | with_reducible assumption | with_reducible apply State.enterMark_closed hc | dsimp only | split
    | exact Or.inl ‹_› | exact Or.inr rfl | with_reducible apply hc.other

theorem State.drainAllSystem_closed (hc : Closed A P) (kTake : A .take) (kStreams : A .streams)
    (kStores : A .stores) {s : State} (n : Nat) (hs : P s) :
    P (s.drainAllSystem n) := by
  induction n generalizing s with
  | zero => exact hs
  | succ n ih =>
    unfold State.drainAllSystem
    repeat first
      | with_reducible assumption | with_reducible apply State.drainSystem_closed hc | with_reducible apply ih
      | with_reducible apply closed_ite | split

theorem State.flushSystem_closed (hc : Closed A P) (kTake : A .take) (kStreams : A .streams) (kStores : A .stores)
    {s : State} (hs : P s) :
    P s.flushSystem := by
  unfold State.flushSystem
  repeat first
    | with_reducible assumption | with_reducible apply State.drainAllSystem_closed hc

/-! ### Sys2Proof/Machine/Frames.lean -/

theorem State.addAbsent_closed (hc : Closed A P) (kStreams : A .streams) {s : State} (u f n : Nat) (r : List Nat)
    (hs : P s) :
    P (s.addAbsent u f n r) := by
  unfold State.addAbsent
  repeat first
    | with_reducible assumption | with_reducible apply hc.setStream | with_reducible apply closed_ite | dsimp only
    | split | exact Or.inl ‹_› | exact Or.inr rfl | with_reducible apply hc.other

theorem State.closeAbsent_closed (hc : Closed A P) (kFrames : A .frames) (kStreams : A .streams) {s : State}
    (u f n : Nat) (isOpen : Bool) (back : Nat) (hs : P s) :
    P (s.closeAbsent u f n isOpen back) := by
  unfold State.closeAbsent
  repeat first
    | with_reducible assumption | with_reducible apply hc.setFrame | with_reducible apply State.addAbsent_closed hc
    | (with_reducible apply closed_foldl; rotate_left; intro _ _ _) | dsimp only | exact Or.inl ‹_›
    | exact Or.inr rfl | with_reducible apply hc.other

theorem State.trackAbsent_closed (hc : Closed A P) (kFrames : A .frames) (kStreams : A .streams) {s : State}
    (u f n absent : Nat) (hs : P s) :
    P (s.trackAbsent u f n absent) := by
  unfold State.trackAbsent
  repeat first
    | with_reducible assumption | with_reducible apply hc.setFrame | with_reducible apply State.closeAbsent_closed hc
    | dsimp only | exact Or.inl ‹_› | exact Or.inr rfl | with_reducible apply hc.other

theorem State.closeFrame_closed (hc : Closed A P) (kRegisters : A .registers) (kFrames : A .frames)
    (kStreams : A .streams) (kStores : A .stores) (kEvents : A .events) (kSent : A .sent) {s : State} (u f : Nat)
    (e : Ended) (hs : P s) :
    P (s.closeFrame u f e) := by
  unfold State.closeFrame
  repeat first
    | with_reducible assumption | with_reducible apply hc.setFrame | with_reducible apply hc.setStream
    | with_reducible apply State.closeAbsent_closed hc | with_reducible apply State.closeSegment_closed hc
    | with_reducible apply closed_ite | dsimp only | split | exact Or.inl ‹_› | exact Or.inr rfl
    | with_reducible apply hc.other

theorem State.closeAt_closed (hc : Closed A P) (kRegisters : A .registers) (kFrames : A .frames)
    (kStreams : A .streams) (kStores : A .stores) (kEvents : A .events) (kSent : A .sent) {s : State} (u f n : Nat)
    (hs : P s) :
    P (s.closeAt u f n) := by
  unfold State.closeAt
  repeat first
    | with_reducible assumption | with_reducible apply State.closeFrame_closed hc | dsimp only | split
    | exact Or.inl ‹_› | exact Or.inr rfl | with_reducible apply hc.other

theorem State.recordSlot_closed (hc : Closed A P) (kStreams : A .streams) {s : State} (u f : Nat) (r : SlotRec)
    (hs : P s) :
    P (s.recordSlot u f r) := by
  unfold State.recordSlot
  repeat first
    | with_reducible assumption | with_reducible apply hc.setStream | with_reducible apply closed_ite | dsimp only
    | split | exact Or.inl ‹_› | exact Or.inr rfl | with_reducible apply hc.other

theorem State.startFrame_closed (hc : Closed A P) (kFrames : A .frames) (kStreams : A .streams) {s : State}
    (u f : Nat) (hs : P s) :
    P (s.startFrame u f) := by
  unfold State.startFrame
  repeat first
    | with_reducible assumption | with_reducible apply hc.setFrame | with_reducible apply hc.setStream
    | with_reducible apply closed_ite | dsimp only | split | exact Or.inl ‹_› | exact Or.inr rfl
    | with_reducible apply hc.other

theorem State.showCells_closed (hc : Closed A P) (kRegisters : A .registers) {s : State} (u f absent : Nat)
    (hs : P s) :
    P (s.showCells u f absent) := by
  unfold State.showCells
  repeat first
    | with_reducible assumption | with_reducible apply State.putF_closed hc | dsimp only

theorem State.frameSlot_closed (hc : Closed A P) (kRegisters : A .registers) (kPods : A .pods) (kFrames : A .frames)
    (kStreams : A .streams) (kStores : A .stores) (kEvents : A .events) (kSent : A .sent) {s : State} (u f : Nat)
    (hs : P s) :
    P (s.frameSlot u f) := by
  unfold State.frameSlot
  repeat first
    | with_reducible assumption | with_reducible apply hc.setFrame | with_reducible apply hc.setPod
    | with_reducible apply State.closeAt_closed hc | with_reducible apply State.recordSlot_closed hc
    | with_reducible apply State.showCells_closed hc | with_reducible apply State.startFrame_closed hc
    | with_reducible apply State.trackAbsent_closed hc | with_reducible apply closed_ite | dsimp only | split
    | exact Or.inl ‹_› | exact Or.inr rfl | with_reducible apply hc.other

theorem State.showCounters_closed (hc : Closed A P) (kRegisters : A .registers) {s : State} (u f : Nat) (hs : P s) :
    P (s.showCounters u f) := by
  unfold State.showCounters
  repeat first
    | with_reducible assumption | with_reducible apply State.putF_closed hc
    | with_reducible apply State.putPair_closed hc | (with_reducible apply closed_foldl; rotate_left; intro _ _ _)
    | dsimp only

theorem State.showFlags_closed (hc : Closed A P) (kRegisters : A .registers) {s : State} (u f : Nat) (e : EvalSlot)
    (flags : Nat) (hs : P s) :
    P (s.showFlags u f e flags) := by
  unfold State.showFlags
  repeat first
    | with_reducible assumption | with_reducible apply State.putF_closed hc

theorem State.evalSlot_closed (hc : Closed A P) (kRegisters : A .registers) (kFrames : A .frames)
    (kEvents : A .events) (kSent : A .sent) {s : State} (u f : Nat) (hs : P s) :
    P (s.evalSlot u f) := by
  unfold State.evalSlot
  repeat first
    | with_reducible assumption | with_reducible apply hc.setFrame | with_reducible apply State.bump_closed hc
    | with_reducible apply State.raise_closed hc | with_reducible apply State.setBitF_closed hc
    | with_reducible apply State.showCounters_closed hc | with_reducible apply State.showFlags_closed hc
    | (with_reducible apply closed_foldl; rotate_left; intro _ _ _) | with_reducible apply closed_ite | dsimp only
    | split | exact Or.inl ‹_› | exact Or.inr rfl | with_reducible apply hc.other

theorem State.runQuiet_closed (hc : Closed A P) (kRegisters : A .registers) (kFrames : A .frames)
    (kEvents : A .events) (kSent : A .sent) {s : State} (u f : Nat) (n : Nat) (hs : P s) :
    P (s.runQuiet u f n) := by
  induction n generalizing s u f with
  | zero => exact hs
  | succ n ih =>
    unfold State.runQuiet
    repeat first
      | with_reducible assumption | with_reducible apply State.evalSlot_closed hc | with_reducible apply ih
      | with_reducible apply closed_ite | split | exact Or.inl ‹_› | exact Or.inr rfl | with_reducible apply hc.other

theorem State.runEval_closed (hc : Closed A P) (kRegisters : A .registers) (kFrames : A .frames)
    (kEvents : A .events) (kSent : A .sent) {s : State} (u f : Nat) (hs : P s) :
    P (s.runEval u f) := by
  unfold State.runEval
  repeat first
    | with_reducible assumption | with_reducible apply State.runQuiet_closed hc

theorem State.takeSlots_closed (hc : Closed A P) (kRegisters : A .registers) (kPods : A .pods) (kFrames : A .frames)
    (kStreams : A .streams) (kStores : A .stores) (kEvents : A .events) (kSent : A .sent) {s : State}
    (u f bound : Nat) (n : Nat) (hs : P s) :
    P (s.takeSlots u f bound n) := by
  induction n generalizing s u f bound with
  | zero => exact hs
  | succ n ih =>
    unfold State.takeSlots
    repeat first
      | with_reducible assumption | with_reducible apply State.frameSlot_closed hc
      | with_reducible apply State.runEval_closed hc | with_reducible apply ih | with_reducible apply closed_ite
      | dsimp only | split

theorem State.catchUp_closed (hc : Closed A P) (kRegisters : A .registers) (kPods : A .pods) (kFrames : A .frames)
    (kStreams : A .streams) (kStores : A .stores) (kEvents : A .events) (kSent : A .sent) {s : State} (u f : Nat)
    (hs : P s) :
    P (s.catchUp u f) := by
  unfold State.catchUp
  repeat first
    | with_reducible assumption | with_reducible apply State.runEval_closed hc
    | with_reducible apply State.takeSlots_closed hc | with_reducible apply closed_ite | split

theorem State.catchUpAll_closed (hc : Closed A P) (kRegisters : A .registers) (kPods : A .pods)
    (kFrames : A .frames) (kStreams : A .streams) (kStores : A .stores) (kEvents : A .events) (kSent : A .sent)
    {s : State} (u : Nat) (hs : P s) :
    P (s.catchUpAll u) := by
  unfold State.catchUpAll
  repeat first
    | with_reducible assumption | with_reducible apply State.catchUp_closed hc
    | (with_reducible apply closed_foldl; rotate_left; intro _ _ _) | dsimp only

theorem State.restartFrame_closed (hc : Closed A P) (kFrames : A .frames) {s : State} (u f : Nat) (hs : P s) :
    P (s.restartFrame u f) := by
  unfold State.restartFrame
  repeat first
    | with_reducible assumption | with_reducible apply hc.setFrame | exact Or.inl ‹_› | exact Or.inr rfl
    | with_reducible apply hc.other

theorem State.regrid_closed (hc : Closed A P) (kTime : A .time) (kPods : A .pods) (kFrames : A .frames) {s : State}
    (hs : P s) :
    P s.regrid := by
  unfold State.regrid
  repeat first
    | with_reducible assumption | with_reducible apply hc.setFrame | with_reducible apply hc.setPod
    | (with_reducible apply closed_foldl; rotate_left; intro _ _ _) | dsimp only | exact Or.inl ‹_›
    | exact Or.inr rfl | with_reducible apply hc.other

theorem State.restartRuns_closed (hc : Closed A P) (kFrames : A .frames) {s : State} (u f mask : Nat) (hs : P s) :
    P (s.restartRuns u f mask) := by
  unfold State.restartRuns
  repeat first
    | with_reducible assumption | with_reducible apply hc.setFrame | with_reducible apply closed_ite | dsimp only
    | split | exact Or.inl ‹_› | exact Or.inr rfl | with_reducible apply hc.other

/-! ### Sys2Proof/Machine/Scouts.lean -/

theorem State.spend_closed (hc : Closed A P) (kScouts : A .scouts) {s : State} (u k t tokens : Nat) (hs : P s) :
    P (s.spend u k t tokens) := by
  unfold State.spend
  repeat first
    | with_reducible assumption | with_reducible apply hc.setScout | exact Or.inl ‹_› | exact Or.inr rfl
    | with_reducible apply hc.other

theorem State.scoutItem_closed (hc : Closed A P) (kStreams : A .streams) {s : State} (u k t : Nat) (i : ScoutItem)
    (hs : P s) :
    P (s.scoutItem u k t i) := by
  unfold State.scoutItem
  repeat first
    | with_reducible assumption | with_reducible apply hc.setStream | with_reducible apply closed_ite | dsimp only
    | split | exact Or.inl ‹_› | exact Or.inr rfl | with_reducible apply hc.other

theorem State.leaveOut_closed (hc : Closed A P) (kRegisters : A .registers) (kScouts : A .scouts)
    (kStreams : A .streams) {s : State} (u k t : Nat) (level : Bool) (hs : P s) :
    P (s.leaveOut u k t level) := by
  unfold State.leaveOut
  repeat first
    | with_reducible assumption | with_reducible apply hc.setScout | with_reducible apply State.bump_closed hc
    | with_reducible apply State.scoutItem_closed hc | dsimp only | exact Or.inl ‹_› | exact Or.inr rfl
    | with_reducible apply hc.other

theorem State.setSuspend_closed (hc : Closed A P) (kRegisters : A .registers) (kScouts : A .scouts) {s : State}
    (u k : Nat) (v : Suspend) (hs : P s) :
    P (s.setSuspend u k v) := by
  unfold State.setSuspend
  repeat first
    | with_reducible assumption | with_reducible apply hc.setScout | with_reducible apply State.putF_closed hc
    | exact Or.inl ‹_› | exact Or.inr rfl | with_reducible apply hc.other

theorem State.writeResume_closed (hc : Closed A P) (kRegisters : A .registers) (kScouts : A .scouts)
    (kStreams : A .streams) {s : State} (u k t : Nat) (hs : P s) :
    P (s.writeResume u k t) := by
  unfold State.writeResume
  repeat first
    | with_reducible assumption | with_reducible apply hc.setScout | with_reducible apply State.scoutItem_closed hc
    | with_reducible apply State.setSuspend_closed hc | with_reducible apply State.spend_closed hc | dsimp only
    | split | exact Or.inl ‹_› | exact Or.inr rfl | with_reducible apply hc.other

theorem State.recordEdge_closed (hc : Closed A P) (kRegisters : A .registers) (kScouts : A .scouts)
    (kStreams : A .streams) (kEvents : A .events) (kSent : A .sent) {s : State} (u k t : Nat) (level : Bool)
    (hs : P s) :
    P (s.recordEdge u k t level) := by
  unfold State.recordEdge
  repeat first
    | with_reducible assumption | with_reducible apply hc.setScout | with_reducible apply State.bump_closed hc
    | with_reducible apply State.raise_closed hc | with_reducible apply State.scoutItem_closed hc
    | with_reducible apply State.setSuspend_closed hc | with_reducible apply State.spend_closed hc
    | with_reducible apply closed_ite | dsimp only | split | exact Or.inl ‹_› | exact Or.inr rfl
    | with_reducible apply hc.other

theorem State.resumeOrHold_closed (hc : Closed A P) (kRegisters : A .registers) (kScouts : A .scouts)
    (kStreams : A .streams) {s : State} (u k t : Nat) (hs : P s) :
    P (s.resumeOrHold u k t) := by
  unfold State.resumeOrHold
  repeat first
    | with_reducible assumption | with_reducible apply State.scoutItem_closed hc
    | with_reducible apply State.setSuspend_closed hc | with_reducible apply State.writeResume_closed hc
    | with_reducible apply closed_ite | split

theorem State.showSettling_closed (hc : Closed A P) (kRegisters : A .registers) {s : State} (u k : Nat) (b : Bool)
    (hs : P s) :
    P (s.showSettling u k b) := by
  unfold State.showSettling
  repeat first
    | with_reducible assumption | with_reducible apply State.putF_closed hc

theorem State.settle_closed (hc : Closed A P) (kRegisters : A .registers) (kScouts : A .scouts)
    (kStreams : A .streams) {s : State} (u k t : Nat) (hs : P s) :
    P (s.settle u k t) := by
  unfold State.settle
  repeat first
    | with_reducible assumption | with_reducible apply State.resumeOrHold_closed hc
    | with_reducible apply State.showSettling_closed hc

theorem State.formOne_closed (hc : Closed A P) (kRegisters : A .registers) (kScouts : A .scouts)
    (kStreams : A .streams) (kEvents : A .events) (kSent : A .sent) {s : State} (u k a b : Nat) (hs : P s) :
    P (s.formOne u k a b) := by
  unfold State.formOne
  repeat first
    | with_reducible assumption | with_reducible apply hc.setScout | with_reducible apply State.leaveOut_closed hc
    | with_reducible apply State.recordEdge_closed hc | with_reducible apply State.settle_closed hc
    | with_reducible apply State.writeResume_closed hc | with_reducible apply closed_ite | dsimp only | split
    | exact Or.inl ‹_› | exact Or.inr rfl | with_reducible apply hc.other

theorem State.formScout_closed (hc : Closed A P) (kRegisters : A .registers) (kScouts : A .scouts)
    (kStreams : A .streams) (kEvents : A .events) (kSent : A .sent) {s : State} (u k a b : Nat) (n : Nat) (hs : P s)
    :
    P (s.formScout u k a b n) := by
  induction n generalizing s u k a b with
  | zero => exact hs
  | succ n ih =>
    unfold State.formScout
    repeat first
      | with_reducible assumption | with_reducible apply State.formOne_closed hc | with_reducible apply ih | split

theorem State.stopByChoice_closed (hc : Closed A P) (kRegisters : A .registers) (kScouts : A .scouts)
    (kStreams : A .streams) (kStores : A .stores) (kEvents : A .events) (kSent : A .sent) {s : State} (u a : Nat)
    (hs : P s) :
    P (s.stopByChoice u a) := by
  unfold State.stopByChoice
  repeat first
    | with_reducible assumption | with_reducible apply hc.setScout | with_reducible apply State.holeBegin_closed hc
    | with_reducible apply State.setSuspend_closed hc | (with_reducible apply closed_foldl; rotate_left; intro _ _ _)
    | with_reducible apply closed_ite | dsimp only | split | exact Or.inl ‹_› | exact Or.inr rfl
    | with_reducible apply hc.other

theorem State.startByChoice_closed (hc : Closed A P) (kRegisters : A .registers) (kScouts : A .scouts)
    (kStreams : A .streams) {s : State} (u a : Nat) (hs : P s) :
    P (s.startByChoice u a) := by
  unfold State.startByChoice
  repeat first
    | with_reducible assumption | with_reducible apply State.holeEnd_closed hc
    | with_reducible apply State.resumeOrHold_closed hc | with_reducible apply State.setSuspend_closed hc
    | (with_reducible apply closed_foldl; rotate_left; intro _ _ _) | with_reducible apply closed_ite | dsimp only
    | split

theorem State.closeScouts_closed (hc : Closed A P) (kRegisters : A .registers) (kStreams : A .streams)
    (kStores : A .stores) (kEvents : A .events) (kSent : A .sent) {s : State} (u a : Nat) (hs : P s) :
    P (s.closeScouts u a) := by
  unfold State.closeScouts
  repeat first
    | with_reducible assumption | with_reducible apply State.closeSegment_closed hc | dsimp only | split
    | exact Or.inl ‹_› | exact Or.inr rfl | with_reducible apply hc.other

theorem State.formScouts_closed (hc : Closed A P) (kRegisters : A .registers) (kScouts : A .scouts)
    (kStreams : A .streams) (kStores : A .stores) (kEvents : A .events) (kSent : A .sent) {s : State} (u b : Nat)
    (n : Nat) (hs : P s) :
    P (s.formScouts u b n) := by
  induction n generalizing s u b with
  | zero => exact hs
  | succ n ih =>
    unfold State.formScouts
    repeat first
      | with_reducible assumption | with_reducible apply hc.setStream
      | with_reducible apply State.closeScouts_closed hc | with_reducible apply State.formScout_closed hc
      | with_reducible apply State.startByChoice_closed hc | with_reducible apply State.stopByChoice_closed hc
      | (with_reducible apply closed_foldl; rotate_left; intro _ _ _) | with_reducible apply ih
      | with_reducible apply closed_ite | dsimp only | split | exact Or.inl ‹_› | exact Or.inr rfl
      | with_reducible apply hc.other

theorem State.formTo_closed (hc : Closed A P) (kRegisters : A .registers) (kScouts : A .scouts)
    (kStreams : A .streams) (kStores : A .stores) (kEvents : A .events) (kSent : A .sent) {s : State} (u b : Nat)
    (hs : P s) :
    P (s.formTo u b) := by
  unfold State.formTo
  repeat first
    | with_reducible assumption | with_reducible apply State.formScouts_closed hc

end Sys2Proof.Machine
end

