-- ==== Sys2Proof/Laws/ClosedTake.lean ====
section
/-!
SUPPORT. The operations on clocks, takes, sequencers, queues, DRAM and start-up
keep what the primitive updates of their kinds of state keep (Sys2Proof/Laws/Closed.lean).
-/
namespace Sys2Proof.Machine

variable {A : StateKind → Prop} {P : State → Prop}

/-! ### Sys2Proof/Machine/Clock.lean -/

theorem State.setPllState_closed (hc : Closed A P) (kRegisters : A .registers) {s : State} (p : Page) (st : Nat)
    (hs : P s) :
    P (s.setPllState p st) := by
  unfold State.setPllState
  repeat first
    | with_reducible assumption | with_reducible apply State.putF_closed hc | with_reducible apply closed_ite
    | dsimp only | split | exact Or.inl ‹_› | exact Or.inr rfl | with_reducible apply hc.other

theorem State.endCoast_closed (hc : Closed A P) (kRegisters : A .registers) {s : State} (p : Page) (hs : P s) :
    P (s.endCoast p) := by
  unfold State.endCoast
  repeat first
    | with_reducible assumption | with_reducible apply State.putF_closed hc

theorem State.startRelock_closed (hc : Closed A P) (kRegisters : A .registers) (kPlls : A .plls) {s : State}
    (p : Page) (j : Nat) (hs : P s) :
    P (s.startRelock p j) := by
  unfold State.startRelock
  repeat first
    | with_reducible assumption | with_reducible apply hc.setPll | with_reducible apply State.bump_closed hc | with_reducible apply State.endCoast_closed hc
    | with_reducible apply State.setPllState_closed hc | with_reducible apply closed_ite | dsimp only | split
    | exact Or.inl ‹_› | exact Or.inr rfl | with_reducible apply hc.other

theorem State.clearCommit_closed (hc : Closed A P) (kRegisters : A .registers) {s : State} (p : Page) (hs : P s) :
    P (s.clearCommit p) := by
  unfold State.clearCommit
  repeat first
    | with_reducible assumption | with_reducible apply State.putF_closed hc
    | with_reducible apply State.settleDirty_closed hc

theorem State.applyPll_closed (hc : Closed A P) (kRegisters : A .registers) (kPlls : A .plls) {s : State} (p : Page)
    (hs : P s) :
    P (s.applyPll p) := by
  unfold State.applyPll
  repeat first
    | with_reducible assumption | with_reducible apply hc.setPll | with_reducible apply State.clearCommit_closed hc
    | with_reducible apply State.copyToActive_closed hc | with_reducible apply State.countApply_closed hc
    | with_reducible apply State.putF_closed hc | with_reducible apply State.settleDirty_closed hc
    | with_reducible apply State.startRelock_closed hc | with_reducible apply closed_ite | dsimp only | split
    | exact Or.inl ‹_› | exact Or.inr rfl | with_reducible apply hc.other

theorem State.commitPll_closed (hc : Closed A P) (kRegisters : A .registers) (kPlls : A .plls) {s : State}
    (p : Page) (hs : P s) :
    P (s.commitPll p) := by
  unfold State.commitPll
  repeat first
    | with_reducible assumption | with_reducible apply State.applyPll_closed hc
    | with_reducible apply State.putF_closed hc | with_reducible apply closed_ite | dsimp only | split

theorem State.applyHeldPlls_closed (hc : Closed A P) (kRegisters : A .registers) (kPlls : A .plls) {s : State}
    (hs : P s) :
    P s.applyHeldPlls := by
  unfold State.applyHeldPlls
  repeat first
    | with_reducible assumption | with_reducible apply State.applyPll_closed hc
    | with_reducible apply State.putF_closed hc | (with_reducible apply closed_foldl; rotate_left; intro _ _ _)
    | with_reducible apply closed_ite | dsimp only | split

theorem State.stopIntake_closed (hc : Closed A P) (kRegisters : A .registers) (kIntake : A .intake)
    (kPods : A .pods) (kFrames : A .frames) (kScouts : A .scouts) (kStreams : A .streams) (kStores : A .stores)
    (kEvents : A .events) (kSent : A .sent) {s : State} (u : Nat) (hs : P s) :
    P (s.stopIntake u) := by
  unfold State.stopIntake
  repeat first
    | with_reducible assumption | with_reducible apply State.catchUpAll_closed hc
    | with_reducible apply State.formTo_closed hc | with_reducible apply closed_ite | dsimp only | split
    | exact Or.inl ‹_› | exact Or.inr rfl | with_reducible apply hc.other

theorem State.forceSlot_closed (hc : Closed A P) (kRegisters : A .registers) (kPods : A .pods) (kFrames : A .frames)
    (kStreams : A .streams) (kStores : A .stores) (kEvents : A .events) (kSent : A .sent) {s : State} (u f : Nat)
    (hs : P s) :
    P (s.forceSlot u f) := by
  unfold State.forceSlot
  repeat first
    | with_reducible assumption | with_reducible apply State.bump_closed hc
    | with_reducible apply State.frameSlot_closed hc | with_reducible apply State.raise_closed hc
    | with_reducible apply closed_ite | dsimp only | split

theorem State.fillTo_closed (hc : Closed A P) (kRegisters : A .registers) (kPods : A .pods) (kFrames : A .frames)
    (kStreams : A .streams) (kStores : A .stores) (kEvents : A .events) (kSent : A .sent) {s : State}
    (u f bound : Nat) (n : Nat) (hs : P s) :
    P (s.fillTo u f bound n) := by
  induction n generalizing s u f bound with
  | zero => exact hs
  | succ n ih =>
    unfold State.fillTo
    repeat first
      | with_reducible assumption | with_reducible apply State.forceSlot_closed hc
      | with_reducible apply State.frameSlot_closed hc | with_reducible apply ih | with_reducible apply closed_ite
      | split

theorem State.fillAll_closed (hc : Closed A P) (kRegisters : A .registers) (kPods : A .pods) (kFrames : A .frames)
    (kStreams : A .streams) (kStores : A .stores) (kEvents : A .events) (kSent : A .sent) {s : State}
    (u bound : Nat) (hs : P s) :
    P (s.fillAll u bound) := by
  unfold State.fillAll
  repeat first
    | with_reducible assumption | with_reducible apply State.fillTo_closed hc
    | (with_reducible apply closed_foldl; rotate_left; intro _ _ _) | dsimp only

theorem State.resumeIntake_closed (hc : Closed A P) (kRegisters : A .registers) (kIntake : A .intake)
    (kPods : A .pods) (kFrames : A .frames) (kScouts : A .scouts) (kSequencers : A .sequencers)
    (kStreams : A .streams) (kStores : A .stores) (kEvents : A .events) (kSent : A .sent) {s : State} (u t : Nat)
    (hs : P s) :
    P (s.resumeIntake u t) := by
  unfold State.resumeIntake
  repeat first
    | with_reducible assumption | with_reducible apply hc.setFrame | with_reducible apply hc.setSeq
    | with_reducible apply hc.setStream | with_reducible apply State.fillAll_closed hc
    | with_reducible apply State.formTo_closed hc | with_reducible apply State.holeBegin_closed hc
    | with_reducible apply State.holeEnd_closed hc | (with_reducible apply closed_foldl; rotate_left; intro _ _ _)
    | dsimp only | split | exact Or.inl ‹_› | exact Or.inr rfl | with_reducible apply hc.other

theorem State.raisePll_closed (hc : Closed A P) (kRegisters : A .registers) (kEvents : A .events) (kSent : A .sent)
    {s : State} (p : Page) (reference : Bool) (hs : P s) :
    P (s.raisePll p reference) := by
  unfold State.raisePll
  repeat first
    | with_reducible assumption | with_reducible apply State.raise_closed hc | split | exact Or.inl ‹_›
    | exact Or.inr rfl | with_reducible apply hc.other

theorem State.coast_closed (hc : Closed A P) (kRegisters : A .registers) (kPlls : A .plls) (kEvents : A .events)
    (kSent : A .sent) {s : State} (p : Page) (c : CoastCause) (hs : P s) :
    P (s.coast p c) := by
  unfold State.coast
  repeat first
    | with_reducible assumption | with_reducible apply hc.setPll | with_reducible apply State.bump_closed hc
    | with_reducible apply State.putF_closed hc | with_reducible apply State.raisePll_closed hc
    | with_reducible apply State.setPllState_closed hc | with_reducible apply closed_ite | dsimp only | split
    | exact Or.inl ‹_› | exact Or.inr rfl | with_reducible apply hc.other

theorem State.coastRecord_closed (hc : Closed A P) (kTake : A .take) {s : State} (p : Page) (hs : P s) :
    P (s.coastRecord p) := by
  unfold State.coastRecord
  repeat first
    | with_reducible assumption | with_reducible apply State.systemMark_closed hc | split | exact Or.inl ‹_›
    | exact Or.inr rfl | with_reducible apply hc.other

theorem State.startTime_closed (hc : Closed A P) (kTime : A .time) {s : State} (hs : P s) : P s.startTime := by
  unfold State.startTime
  repeat first
    | with_reducible assumption | with_reducible apply hc.loadTime | with_reducible apply closed_ite | dsimp only
    | split | exact Or.inl ‹_› | exact Or.inr rfl | with_reducible apply hc.other

/-! ### Sys2Proof/Machine/Takes.lean -/

theorem State.setLast_closed (hc : Closed A P) (kTake : A .take) {s : State} (n reason : Nat) (hs : P s) :
    P (s.setLast n reason) := by
  unfold State.setLast
  repeat first
    | with_reducible assumption | with_reducible apply closed_ite | dsimp only | split | exact Or.inl ‹_›
    | exact Or.inr rfl | with_reducible apply hc.other

theorem State.setSegLast_closed (hc : Closed A P) (kTake : A .take) {s : State} (n ending : Nat) (hs : P s) :
    P (s.setSegLast n ending) := by
  unfold State.setSegLast
  repeat first
    | with_reducible assumption | with_reducible apply State.setLast_closed hc | with_reducible apply closed_ite
    | dsimp only | split | exact Or.inl ‹_› | exact Or.inr rfl | with_reducible apply hc.other

theorem State.actOnTrigger_closed (hc : Closed A P) (kRegisters : A .registers) (kTake : A .take) {s : State}
    (h t : Nat) (hs : P s) :
    P (s.actOnTrigger h t) := by
  unfold State.actOnTrigger
  repeat first
    | with_reducible assumption | with_reducible apply State.bump_closed hc
    | with_reducible apply State.setSegLast_closed hc | with_reducible apply State.setTakeState_closed hc
    | with_reducible apply State.systemMark_closed hc | with_reducible apply closed_ite | dsimp only | split
    | exact Or.inl ‹_› | exact Or.inr rfl | with_reducible apply hc.other

theorem State.trigger_closed (hc : Closed A P) (kRegisters : A .registers) (kTake : A .take) (kEvents : A .events)
    (kSent : A .sent) {s : State} (h t : Nat) (hs : P s) :
    P (s.trigger h t) := by
  unfold State.trigger
  repeat first
    | with_reducible assumption | with_reducible apply State.actOnTrigger_closed hc
    | with_reducible apply State.bump_closed hc | with_reducible apply State.putPair_closed hc
    | with_reducible apply State.raiseAt_closed hc | with_reducible apply closed_ite | dsimp only | split
    | exact Or.inl ‹_› | exact Or.inr rfl | with_reducible apply hc.other

theorem State.endPost_closed (hc : Closed A P) (kTake : A .take) {s : State} (h o : Nat) (hs : P s) :
    P (s.endPost h o) := by
  unfold State.endPost
  repeat first
    | with_reducible assumption | with_reducible apply State.setSegLast_closed hc | with_reducible apply closed_ite
    | dsimp only | split | exact Or.inl ‹_› | exact Or.inr rfl | with_reducible apply hc.other

theorem State.setPaused_closed (hc : Closed A P) (kTake : A .take) {s : State} (h o : Nat) (paused : Bool) (hs : P s)
    :
    P (s.setPaused h o paused) := by
  unfold State.setPaused
  repeat first
    | with_reducible assumption | exact Or.inl ‹_› | exact Or.inr rfl | with_reducible apply hc.other

theorem State.setGate_closed (hc : Closed A P) (kStreams : A .streams) {s : State} (i : StreamId) (o : Nat)
    (on : Bool) (hs : P s) :
    P (s.setGate i o on) := by
  unfold State.setGate
  repeat first
    | with_reducible assumption | with_reducible apply hc.setStream | dsimp only | exact Or.inl ‹_›
    | exact Or.inr rfl | with_reducible apply hc.other

theorem State.showStore_closed (hc : Closed A P) (kRegisters : A .registers) {s : State} (u : Nat) (hs : P s) :
    P (s.showStore u) := by
  unfold State.showStore
  repeat first
    | with_reducible assumption | with_reducible apply State.putF_closed hc | dsimp only

theorem State.checkFull_closed (hc : Closed A P) (kTake : A .take) {s : State} (u : Nat) (hs : P s) :
    P (s.checkFull u) := by
  unfold State.checkFull
  repeat first
    | with_reducible assumption | with_reducible apply State.setSegLast_closed hc | with_reducible apply closed_ite
    | dsimp only | split | exact Or.inl ‹_› | exact Or.inr rfl | with_reducible apply hc.other

theorem State.takeSlot_closed (hc : Closed A P) (kRegisters : A .registers) (kTake : A .take) (kStores : A .stores)
    {s : State} (u segment first stop : Nat) (hs : P s) :
    P (s.takeSlot u segment first stop).2 := by
  unfold State.takeSlot
  repeat first
    | with_reducible assumption | with_reducible apply hc.setStore | with_reducible apply State.checkFull_closed hc
    | with_reducible apply State.showStore_closed hc | with_reducible apply closed_ite | dsimp only | split
    | exact Or.inl ‹_› | exact Or.inr rfl | with_reducible apply hc.other

theorem State.standStill_closed (hc : Closed A P) (kRegisters : A .registers) (kPods : A .pods)
    (kFrames : A .frames) (kScouts : A .scouts) (kStreams : A .streams) (kStores : A .stores) (kEvents : A .events)
    (kSent : A .sent) {s : State} (u m : Nat) (hs : P s) :
    P (s.standStill u m) := by
  unfold State.standStill
  repeat first
    | with_reducible assumption | with_reducible apply State.fillAll_closed hc
    | with_reducible apply State.formTo_closed hc | with_reducible apply State.holeBegin_closed hc
    | (with_reducible apply closed_foldl; rotate_left; intro _ _ _) | dsimp only

theorem State.closeStreams_closed (hc : Closed A P) (kRegisters : A .registers) (kPods : A .pods)
    (kFrames : A .frames) (kScouts : A .scouts) (kTake : A .take) (kStreams : A .streams) (kStores : A .stores)
    (kEvents : A .events) (kSent : A .sent) {s : State} (e : Ended) (hs : P s) :
    P (s.closeStreams e) := by
  unfold State.closeStreams
  repeat first
    | with_reducible assumption | with_reducible apply State.closeFrame_closed hc
    | with_reducible apply State.closeSegment_closed hc | with_reducible apply State.standStill_closed hc
    | (with_reducible apply closed_foldl; rotate_left; intro _ _ _) | with_reducible apply closed_ite | dsimp only
    | split | exact Or.inl ‹_› | exact Or.inr rfl | with_reducible apply hc.other

theorem State.oweSegments_closed (hc : Closed A P) (kStores : A .stores) {s : State} (n ending : Nat) (hs : P s) :
    P (s.oweSegments n ending) := by
  unfold State.oweSegments
  repeat first
    | with_reducible assumption | with_reducible apply hc.setStore
    | (with_reducible apply closed_foldl; rotate_left; intro _ _ _) | dsimp only | exact Or.inl ‹_›
    | exact Or.inr rfl | with_reducible apply hc.other

theorem State.nextSegment_closed (hc : Closed A P) (kRegisters : A .registers) (kTake : A .take) {s : State}
    (n : Nat) (hs : P s) :
    P (s.nextSegment n) := by
  unfold State.nextSegment
  repeat first
    | with_reducible assumption | with_reducible apply State.putF_closed hc
    | with_reducible apply State.setTakeState_closed hc | with_reducible apply State.showStore_closed hc
    | (with_reducible apply closed_foldl; rotate_left; intro _ _ _) | dsimp only | exact Or.inl ‹_›
    | exact Or.inr rfl | with_reducible apply hc.other

theorem State.closeMarks_closed (hc : Closed A P) (kStreams : A .streams) (kStores : A .stores) {s : State}
    (hs : P s) :
    P s.closeMarks := by
  unfold State.closeMarks
  repeat first
    | with_reducible assumption | with_reducible apply hc.setStream | with_reducible apply State.cutMark_closed hc
    | with_reducible apply closed_ite | dsimp only | split | exact Or.inl ‹_› | exact Or.inr rfl
    | with_reducible apply hc.other

theorem State.beginStoreLoss_closed (hc : Closed A P) (kStores : A .stores) {s : State} (u t cause : Nat) (hs : P s)
    :
    P (s.beginStoreLoss u t cause) := by
  unfold State.beginStoreLoss
  repeat first
    | with_reducible assumption | with_reducible apply hc.setStore | with_reducible apply closed_ite | dsimp only
    | split | exact Or.inl ‹_› | exact Or.inr rfl | with_reducible apply hc.other

theorem State.endStoreLoss_closed (hc : Closed A P) (kTake : A .take) (kStores : A .stores) {s : State} (u t : Nat)
    (hs : P s) :
    P (s.endStoreLoss u t) := by
  unfold State.endStoreLoss
  repeat first
    | with_reducible assumption | with_reducible apply hc.setStore | with_reducible apply State.systemMark_closed hc
    | dsimp only | split | exact Or.inl ‹_› | exact Or.inr rfl | with_reducible apply hc.other

/-! ### Sys2Proof/Machine/Sequencers.lean -/

theorem State.setMarks_closed (hc : Closed A P) (kRegisters : A .registers) (kSequencers : A .sequencers)
    {s : State} (u : Nat) (l : List MarkRec) (hs : P s) :
    P (s.setMarks u l) := by
  unfold State.setMarks
  repeat first
    | with_reducible assumption | with_reducible apply hc.setSeq | with_reducible apply State.putF_closed hc
    | exact Or.inl ‹_› | exact Or.inr rfl | with_reducible apply hc.other

theorem State.queueMark_closed (hc : Closed A P) (kRegisters : A .registers) (kSequencers : A .sequencers)
    (kEvents : A .events) (kSent : A .sent) {s : State} (u origin level exit code : Nat) (hs : P s) :
    P (s.queueMark u origin level exit code) := by
  unfold State.queueMark
  repeat first
    | with_reducible assumption | with_reducible apply hc.setSeq | with_reducible apply State.bump_closed hc
    | with_reducible apply State.raise_closed hc | with_reducible apply State.setMarks_closed hc
    | with_reducible apply closed_ite | dsimp only | split | exact Or.inl ‹_› | exact Or.inr rfl
    | with_reducible apply hc.other

theorem State.queueLoss_closed (hc : Closed A P) (kRegisters : A .registers) (kSequencers : A .sequencers)
    {s : State} (u : Nat) (hs : P s) :
    P (s.queueLoss u) := by
  unfold State.queueLoss
  repeat first
    | with_reducible assumption | with_reducible apply hc.setSeq | with_reducible apply State.setMarks_closed hc
    | with_reducible apply closed_ite | dsimp only | split | exact Or.inl ‹_› | exact Or.inr rfl
    | with_reducible apply hc.other

theorem State.waggleAct_closed (hc : Closed A P) (kSequencers : A .sequencers) {s : State} (u op k origin : Nat)
    (hs : P s) :
    P (s.waggleAct u op k origin) := by
  unfold State.waggleAct
  repeat first
    | with_reducible assumption | with_reducible apply hc.setSeq | with_reducible apply State.raise_closed hc
    | dsimp only | split | exact Or.inl ‹_› | exact Or.inr rfl | with_reducible apply hc.other

theorem State.issueOps_closed (hc : Closed A P) (kFrames : A .frames) {s : State} (u k n : Nat) (hs : P s) :
    P (s.issueOps u k n) := by
  unfold State.issueOps
  repeat first
    | with_reducible assumption | with_reducible apply hc.setFrame
    | (with_reducible apply closed_foldl; rotate_left; intro _ _ _) | with_reducible apply closed_ite | dsimp only
    | split | exact Or.inl ‹_› | exact Or.inr rfl | with_reducible apply hc.other

theorem State.gateAct_closed (hc : Closed A P) (kStreams : A .streams) {s : State} (u x op origin : Nat) (hs : P s)
    :
    P (s.gateAct u x op origin) := by
  unfold State.gateAct
  repeat first
    | with_reducible assumption | with_reducible apply State.setGate_closed hc
    | (with_reducible apply closed_foldl; rotate_left; intro _ _ _) | with_reducible apply closed_ite | dsimp only
    | split

theorem State.noteExit_closed (hc : Closed A P) (kRegisters : A .registers) {s : State} (u from' e to' origin : Nat)
    (hs : P s) :
    P (s.noteExit u from' e to' origin) := by
  unfold State.noteExit
  repeat first
    | with_reducible assumption | with_reducible apply State.bump_closed hc
    | with_reducible apply State.putF_closed hc | with_reducible apply State.putPair_closed hc | dsimp only

theorem State.takeSuperExit_closed (hc : Closed A P) (kRegisters : A .registers) (kFrames : A .frames)
    (kSequencers : A .sequencers) (kStreams : A .streams) (kEvents : A .events) (kSent : A .sent) {s : State}
    (u n e origin : Nat) (hs : P s) :
    P (s.takeSuperExit u n e origin) := by
  unfold State.takeSuperExit
  repeat first
    | with_reducible assumption | with_reducible apply hc.setSeq | with_reducible apply State.gateAct_closed hc
    | with_reducible apply State.issueOps_closed hc | with_reducible apply State.noteExit_closed hc
    | with_reducible apply State.queueMark_closed hc | with_reducible apply State.raiseAt_closed hc
    | with_reducible apply State.waggleAct_closed hc | with_reducible apply closed_ite | dsimp only | split
    | exact Or.inl ‹_› | exact Or.inr rfl | with_reducible apply hc.other

theorem State.endSlot_closed (hc : Closed A P) (kRegisters : A .registers) (kFrames : A .frames)
    (kScouts : A .scouts) (kSequencers : A .sequencers) {s : State} (u n : Nat) (taken : Bool) (hs : P s) :
    P (s.endSlot u n taken) := by
  unfold State.endSlot
  repeat first
    | with_reducible assumption | with_reducible apply hc.setFrame | with_reducible apply hc.setScout
    | with_reducible apply hc.setSeq | with_reducible apply State.putF_closed hc
    | (with_reducible apply closed_foldl; rotate_left; intro _ _ _) | with_reducible apply closed_ite | dsimp only
    | split | exact Or.inl ‹_› | exact Or.inr rfl | with_reducible apply hc.other

theorem State.superQuiet_closed (hc : Closed A P) (kRegisters : A .registers) (kFrames : A .frames)
    (kScouts : A .scouts) (kSequencers : A .sequencers) {s : State} (u : Nat) (n : Nat) (hs : P s) :
    P (s.superQuiet u n) := by
  induction n generalizing s u with
  | zero => exact hs
  | succ n ih =>
    unfold State.superQuiet
    repeat first
      | with_reducible assumption | with_reducible apply State.endSlot_closed hc | with_reducible apply ih
      | with_reducible apply closed_ite | dsimp only | split

theorem State.showHiveTimers_closed (hc : Closed A P) (kRegisters : A .registers) {s : State} (hs : P s) :
    P s.showHiveTimers := by
  unfold State.showHiveTimers
  repeat first
    | with_reducible assumption | with_reducible apply State.putF_closed hc
    | with_reducible apply State.putPair_closed hc | (with_reducible apply closed_foldl; rotate_left; intro _ _ _)
    | dsimp only

theorem State.driveOut_closed (hc : Closed A P) (kRegisters : A .registers) (kTriggers : A .triggers)
    (kSent : A .sent) {s : State} (n tick : Nat) (level : Bool) (pulseEnd : Option Nat) (hs : P s) :
    P (s.driveOut n tick level pulseEnd) := by
  unfold State.driveOut
  repeat first
    | with_reducible assumption | with_reducible apply hc.tick | with_reducible apply State.emit_closed hc
    | with_reducible apply State.putBitF_closed hc | with_reducible apply closed_ite | dsimp only | split
    | exact Or.inl ‹_› | exact Or.inr rfl | with_reducible apply hc.other

theorem State.endPulse_closed (hc : Closed A P) (kRegisters : A .registers) (kTriggers : A .triggers)
    (kSent : A .sent) {s : State} (n tick : Nat) (hs : P s) :
    P (s.endPulse n tick) := by
  unfold State.endPulse
  repeat first
    | with_reducible assumption | with_reducible apply State.driveOut_closed hc | with_reducible apply closed_ite
    | dsimp only | split

theorem State.trigOutAct_closed (hc : Closed A P) (kRegisters : A .registers) (kTriggers : A .triggers)
    (kSent : A .sent) {s : State} (op n h origin : Nat) (hs : P s) :
    P (s.trigOutAct op n h origin) := by
  unfold State.trigOutAct
  repeat first
    | with_reducible assumption | with_reducible apply State.driveOut_closed hc | with_reducible apply State.endPulse_closed hc | with_reducible apply closed_ite
    | dsimp only | split | exact Or.inl ‹_› | exact Or.inr rfl | with_reducible apply hc.other

theorem State.inboundAct_closed (hc : Closed A P) (kSequencers : A .sequencers) {s : State} (op k : Nat) (hs : P s)
    :
    P (s.inboundAct op k) := by
  unfold State.inboundAct
  repeat first
    | with_reducible assumption | with_reducible apply hc.setSeq | with_reducible apply State.raise_closed hc
    | dsimp only | split | exact Or.inl ‹_› | exact Or.inr rfl | with_reducible apply hc.other

theorem State.queueFlag_closed (hc : Closed A P) (kRegisters : A .registers) (kEvents : A .events) (kRing : A .ring)
    (kSent : A .sent) {s : State} (op af b origin : Nat) (hs : P s) :
    P (s.queueFlag op af b origin) := by
  unfold State.queueFlag
  repeat first
    | with_reducible assumption | with_reducible apply State.bump_closed hc
    | with_reducible apply State.raise_closed hc | with_reducible apply closed_ite | dsimp only | split
    | exact Or.inl ‹_› | exact Or.inr rfl | with_reducible apply hc.other

theorem State.takeHiveExit_closed (hc : Closed A P) (kRegisters : A .registers) (kSequencers : A .sequencers)
    (kTake : A .take) (kEvents : A .events) (kTriggers : A .triggers) (kRing : A .ring) (kSent : A .sent)
    {s : State} (h e origin : Nat) (hs : P s) :
    P (s.takeHiveExit h e origin) := by
  unfold State.takeHiveExit
  repeat first
    | with_reducible assumption | with_reducible apply hc.setSeq | with_reducible apply State.endPost_closed hc
    | with_reducible apply State.inboundAct_closed hc | with_reducible apply State.noteExit_closed hc
    | with_reducible apply State.queueFlag_closed hc | with_reducible apply State.queueMark_closed hc
    | with_reducible apply State.raiseAt_closed hc | with_reducible apply State.setPaused_closed hc
    | with_reducible apply State.trigOutAct_closed hc | with_reducible apply State.trigger_closed hc
    | with_reducible apply closed_ite | dsimp only | split | exact Or.inl ‹_› | exact Or.inr rfl
    | with_reducible apply hc.other

theorem State.forcedTrigger_closed (hc : Closed A P) (kRegisters : A .registers) (kSequencers : A .sequencers)
    (kTake : A .take) (kEvents : A .events) (kSent : A .sent) {s : State} (h level : Nat) (exitTriggers : Bool)
    (hs : P s) :
    P (s.forcedTrigger h level exitTriggers) := by
  unfold State.forcedTrigger
  repeat first
    | with_reducible assumption | with_reducible apply State.queueMark_closed hc
    | with_reducible apply State.trigger_closed hc | with_reducible apply closed_ite | dsimp only | split
    | exact Or.inl ‹_› | exact Or.inr rfl | with_reducible apply hc.other

theorem State.endBeat_closed (hc : Closed A P) (kRegisters : A .registers) (kSequencers : A .sequencers) {s : State}
    (h : Nat) (taken : Bool) (hs : P s) :
    P (s.endBeat h taken) := by
  unfold State.endBeat
  repeat first
    | with_reducible assumption | with_reducible apply hc.setSeq | with_reducible apply State.putF_closed hc
    | with_reducible apply State.showHiveTimers_closed hc | with_reducible apply closed_ite | dsimp only | split
    | exact Or.inl ‹_› | exact Or.inr rfl | with_reducible apply hc.other

theorem State.hiveBeat_closed (hc : Closed A P) (kRegisters : A .registers) (kSequencers : A .sequencers)
    (kTake : A .take) (kEvents : A .events) (kTriggers : A .triggers) (kRing : A .ring) (kSent : A .sent)
    {s : State} (h : Nat) (hs : P s) :
    P (s.hiveBeat h) := by
  unfold State.hiveBeat
  repeat first
    | with_reducible assumption | with_reducible apply State.endBeat_closed hc
    | with_reducible apply State.forcedTrigger_closed hc | with_reducible apply State.takeHiveExit_closed hc
    | dsimp only | split | exact Or.inl ‹_› | exact Or.inr rfl | with_reducible apply hc.other

theorem State.hiveQuiet_closed (hc : Closed A P) (kRegisters : A .registers) (kSequencers : A .sequencers)
    (kTake : A .take) (kEvents : A .events) (kTriggers : A .triggers) (kRing : A .ring) (kSent : A .sent)
    {s : State} (n : Nat) (hs : P s) :
    P (s.hiveQuiet n) := by
  induction n generalizing s with
  | zero => exact hs
  | succ n ih =>
    unfold State.hiveQuiet
    repeat first
      | with_reducible assumption | with_reducible apply State.hiveBeat_closed hc | with_reducible apply ih
      | with_reducible apply closed_ite | dsimp only | split

theorem State.seqRounds_closed (hc : Closed A P) (kRegisters : A .registers) (kFrames : A .frames)
    (kScouts : A .scouts) (kSequencers : A .sequencers) (kTake : A .take) (kEvents : A .events)
    (kTriggers : A .triggers) (kRing : A .ring) (kSent : A .sent) {s : State} (n : Nat) (hs : P s) :
    P (s.seqRounds n) := by
  induction n generalizing s with
  | zero => exact hs
  | succ n ih =>
    unfold State.seqRounds
    repeat first
      | with_reducible assumption | with_reducible apply State.hiveQuiet_closed hc
      | with_reducible apply State.superQuiet_closed hc
      | (with_reducible apply closed_foldl; rotate_left; intro _ _ _) | with_reducible apply ih | dsimp only | split

theorem State.settleSeqs_closed (hc : Closed A P) (kRegisters : A .registers) (kPods : A .pods)
    (kFrames : A .frames) (kScouts : A .scouts) (kSequencers : A .sequencers) (kTake : A .take)
    (kStreams : A .streams) (kStores : A .stores) (kEvents : A .events) (kTriggers : A .triggers) (kRing : A .ring)
    (kSent : A .sent) {s : State} (hs : P s) :
    P s.settleSeqs := by
  unfold State.settleSeqs
  repeat first
    | with_reducible assumption | with_reducible apply State.catchUpAll_closed hc
    | with_reducible apply State.seqRounds_closed hc | (with_reducible apply closed_foldl; rotate_left; intro _ _ _)
    | with_reducible apply closed_ite | dsimp only | split

theorem State.startSeqs_closed (hc : Closed A P) (kRegisters : A .registers) (kSequencers : A .sequencers)
    (kTriggers : A .triggers) (kSent : A .sent) {s : State} (n : Nat) (hs : P s) :
    P (s.startSeqs n) := by
  unfold State.startSeqs
  repeat first
    | with_reducible assumption | with_reducible apply hc.setSeq | with_reducible apply State.driveOut_closed hc
    | with_reducible apply State.putF_closed hc | with_reducible apply State.showHiveTimers_closed hc
    | (with_reducible apply closed_foldl; rotate_left; intro _ _ _) | with_reducible apply closed_ite | dsimp only
    | split | exact Or.inl ‹_› | exact Or.inr rfl | with_reducible apply hc.other

/-! ### Sys2Proof/Machine/Queues.lean -/

theorem State.raiseQueue_closed (hc : Closed A P) (kRegisters : A .registers) (kEvents : A .events)
    (kSent : A .sent) {s : State} (q : QueueId) (n : Nat) (hs : P s) :
    P (s.raiseQueue q n) := by
  unfold State.raiseQueue
  repeat first
    | with_reducible assumption | with_reducible apply State.raise_closed hc | split | exact Or.inl ‹_›
    | exact Or.inr rfl | with_reducible apply hc.other

theorem State.showQueue_closed (hc : Closed A P) (kRegisters : A .registers) {s : State} (q : QueueId) (hs : P s) :
    P (s.showQueue q) := by
  unfold State.showQueue
  repeat first
    | with_reducible assumption | with_reducible apply State.putF_closed hc | dsimp only

theorem State.settleWm_closed (hc : Closed A P) (kRegisters : A .registers) (kEvents : A .events)
    (kQueues : A .queues) (kSent : A .sent) {s : State} (q : QueueId) (hs : P s) :
    P (s.settleWm q) := by
  unfold State.settleWm
  repeat first
    | with_reducible assumption | with_reducible apply hc.setQueue | with_reducible apply State.bump_closed hc
    | with_reducible apply State.putF_closed hc | with_reducible apply State.raiseQueue_closed hc
    | with_reducible apply State.showQueue_closed hc | with_reducible apply closed_ite | dsimp only | split
    | exact Or.inl ‹_› | exact Or.inr rfl | with_reducible apply hc.other

theorem State.settlePeak_closed (hc : Closed A P) (kRegisters : A .registers) {s : State} (q : QueueId) (hs : P s) :
    P (s.settlePeak q) := by
  unfold State.settlePeak
  repeat first
    | with_reducible assumption | with_reducible apply State.putF_closed hc | with_reducible apply closed_ite
    | dsimp only | split

theorem State.settleHolds_closed (hc : Closed A P) (kRegisters : A .registers) {s : State} (hs : P s) :
    P s.settleHolds := by
  unfold State.settleHolds
  repeat first
    | with_reducible assumption | with_reducible apply State.bump_closed hc
    | with_reducible apply State.putF_closed hc | (with_reducible apply closed_foldl; rotate_left; intro _ _ _)
    | with_reducible apply closed_ite | dsimp only | split

theorem State.finish_closed (hc : Closed A P) (kRegisters : A .registers) {s : State} (hs : P s) :
    nextHas P (s.finish) := by
  unfold State.finish
  repeat first
    | with_reducible assumption | with_reducible apply nextHas_next
    | with_reducible apply State.settleHolds_closed hc | dsimp only | split

theorem State.on_closed (hc : Closed A P) (kRegisters : A .registers) {s : State} {t : State} (p : Page) (hs : P s)
    (hs1 : P t) :
    nextHas P (s.on p t) := by
  unfold State.on
  repeat first
    | with_reducible assumption | with_reducible apply nextHas_next | with_reducible apply State.finish_closed hc
    | with_reducible apply closed_ite | dsimp only | split

theorem State.refusePush_closed (hc : Closed A P) (kRegisters : A .registers) (kEvents : A .events)
    (kQueues : A .queues) (kSent : A .sent) {s : State} (q : QueueId) (hs : P s) :
    P (s.refusePush q) := by
  unfold State.refusePush
  repeat first
    | with_reducible assumption | with_reducible apply hc.setQueue | with_reducible apply State.bump_closed hc
    | with_reducible apply State.raiseQueue_closed hc | with_reducible apply closed_ite | dsimp only | split
    | exact Or.inl ‹_› | exact Or.inr rfl | with_reducible apply hc.other

theorem State.push_closed (hc : Closed A P) (kRegisters : A .registers) (kEvents : A .events) (kQueues : A .queues)
    (kSram : A .sram) (kSent : A .sent) {s : State} (q : QueueId) (words : List Nat) (last : Bool) (hs : P s) :
    P (s.push q words last).2 := by
  unfold State.push
  repeat first
    | with_reducible assumption | with_reducible apply hc.setQueue | with_reducible apply State.refusePush_closed hc
    | with_reducible apply State.setSramBytes_closed hc | with_reducible apply State.settlePeak_closed hc
    | with_reducible apply State.settleWm_closed hc | (with_reducible apply closed_foldl; rotate_left; intro _ _ _)
    | with_reducible apply closed_ite | dsimp only | split | exact Or.inl ‹_› | exact Or.inr rfl
    | with_reducible apply hc.other

theorem State.pop_closed (hc : Closed A P) (kRegisters : A .registers) (kEvents : A .events) (kQueues : A .queues)
    (kSent : A .sent) {s : State} (q : QueueId) (corrected uncorrectable : Nat) (hs : P s) :
    P (s.pop q corrected uncorrectable).2 := by
  unfold State.pop
  repeat first
    | with_reducible assumption | with_reducible apply hc.setQueue | with_reducible apply State.bump_closed hc
    | with_reducible apply State.raiseQueue_closed hc | with_reducible apply State.settleWm_closed hc
    | with_reducible apply State.sramError_closed hc | (with_reducible apply closed_foldl; rotate_left; intro _ _ _)
    | dsimp only | split | exact Or.inl ‹_› | exact Or.inr rfl | with_reducible apply hc.other

theorem State.emptyQueue_closed (hc : Closed A P) (kRegisters : A .registers) (kEvents : A .events)
    (kQueues : A .queues) (kSent : A .sent) {s : State} (q : QueueId) (hs : P s) :
    P (s.emptyQueue q) := by
  unfold State.emptyQueue
  repeat first
    | with_reducible assumption | with_reducible apply hc.setQueue | with_reducible apply State.settleWm_closed hc
    | dsimp only | exact Or.inl ‹_› | exact Or.inr rfl | with_reducible apply hc.other

theorem State.applyQueue_closed (hc : Closed A P) (kRegisters : A .registers) (kEvents : A .events)
    (kQueues : A .queues) (kSent : A .sent) {s : State} (q : QueueId) (hs : P s) :
    P (s.applyQueue q) := by
  unfold State.applyQueue
  repeat first
    | with_reducible assumption | with_reducible apply State.copyToActive_closed hc
    | with_reducible apply State.putF_closed hc | with_reducible apply State.settleWm_closed hc
    | with_reducible apply closed_ite | dsimp only | split

theorem State.resetQueue_closed (hc : Closed A P) (kRegisters : A .registers) (kEvents : A .events)
    (kQueues : A .queues) (kSent : A .sent) {s : State} (q : QueueId) (hs : P s) :
    P (s.resetQueue q) := by
  unfold State.resetQueue
  repeat first
    | with_reducible assumption | with_reducible apply hc.setQueue | with_reducible apply State.clearPage_closed hc
    | with_reducible apply State.settleWm_closed hc | dsimp only | exact Or.inl ‹_› | exact Or.inr rfl
    | with_reducible apply hc.other

/-! ### Sys2Proof/Machine/Dram.lean -/

theorem State.leaveSelfRefresh_closed (hc : Closed A P) (kRegisters : A .registers) (kChannels : A .channels)
    (kSent : A .sent) {s : State} (u k : Nat) (hs : P s) :
    P (s.leaveSelfRefresh u k) := by
  unfold State.leaveSelfRefresh
  repeat first
    | with_reducible assumption | with_reducible apply hc.setChan | with_reducible apply State.emit_closed hc
    | with_reducible apply State.putF_closed hc | with_reducible apply closed_ite | dsimp only | split
    | exact Or.inl ‹_› | exact Or.inr rfl | with_reducible apply hc.other

theorem State.command_closed (hc : Closed A P) (kChannels : A .channels) {s : State} (u k sub rank : Nat)
    (code : List Nat) (hs : P s) :
    P (s.command u k sub rank code) := by
  unfold State.command
  repeat first
    | with_reducible assumption | with_reducible apply hc.setChan | dsimp only | exact Or.inl ‹_› | exact Or.inr rfl
    | with_reducible apply hc.other

theorem State.issueRefresh_closed (hc : Closed A P) (kChannels : A .channels) (kSent : A .sent) {s : State}
    (u k : Nat) (hs : P s) :
    P (s.issueRefresh u k) := by
  unfold State.issueRefresh
  repeat first
    | with_reducible assumption | with_reducible apply State.command_closed hc
    | with_reducible apply State.emit_closed hc | (with_reducible apply closed_foldl; rotate_left; intro _ _ _)
    | with_reducible apply closed_ite | dsimp only | split

theorem State.issueRefreshes_closed (hc : Closed A P) (kChannels : A .channels) (kSent : A .sent) {s : State}
    (u k : Nat) (n : Nat) (hs : P s) :
    P (s.issueRefreshes u k n) := by
  induction n generalizing s u k with
  | zero => exact hs
  | succ n ih =>
    unfold State.issueRefreshes
    repeat first
      | with_reducible assumption | with_reducible apply State.issueRefresh_closed hc | with_reducible apply ih
      | split

theorem State.settlePanicOf_closed (hc : Closed A P) (kRegisters : A .registers) (kEvents : A .events)
    (kChannels : A .channels) (kSent : A .sent) {s : State} (u k : Nat) (hs : P s) :
    P (s.settlePanicOf u k) := by
  unfold State.settlePanicOf
  repeat first
    | with_reducible assumption | with_reducible apply hc.setChan | with_reducible apply State.bump_closed hc
    | with_reducible apply State.issueRefreshes_closed hc | with_reducible apply State.on_closed hc
    | with_reducible apply State.putF_closed hc | with_reducible apply State.raise_closed hc
    | with_reducible apply closed_ite | dsimp only | split | exact Or.inl ‹_› | exact Or.inr rfl
    | with_reducible apply hc.other

theorem State.settlePanic_closed (hc : Closed A P) (kRegisters : A .registers) (kEvents : A .events)
    (kChannels : A .channels) (kSent : A .sent) {s : State} (u : Nat) (hs : P s) :
    P (s.settlePanic u) := by
  unfold State.settlePanic
  repeat first
    | with_reducible assumption | with_reducible apply State.settlePanicOf_closed hc

theorem State.showChanQueues_closed (hc : Closed A P) (kRegisters : A .registers) {s : State} (u k : Nat) (hs : P s)
    :
    P (s.showChanQueues u k) := by
  unfold State.showChanQueues
  repeat first
    | with_reducible assumption | with_reducible apply State.putF_closed hc | dsimp only

theorem State.settleMode_closed (hc : Closed A P) (kChannels : A .channels) {s : State} (u k sub : Nat)
    (write : Bool) (hs : P s) :
    P (s.settleMode u k sub write) := by
  unfold State.settleMode
  repeat first
    | with_reducible assumption | with_reducible apply hc.setChan | with_reducible apply closed_ite | dsimp only
    | split

theorem State.enterRead_closed (hc : Closed A P) (kRegisters : A .registers) (kChannels : A .channels) {s : State}
    (u k sub port piece : Nat) (hs : P s) :
    P (s.enterRead u k sub port piece) := by
  unfold State.enterRead
  repeat first
    | with_reducible assumption | with_reducible apply hc.setChan
    | with_reducible apply State.showChanQueues_closed hc | with_reducible apply closed_ite | dsimp only | split
    | exact Or.inl ‹_› | exact Or.inr rfl | with_reducible apply hc.other

theorem State.enterWrite_closed (hc : Closed A P) (kRegisters : A .registers) (kChannels : A .channels) {s : State}
    (u k sub : Nat) (q : WriteReq) (hs : P s) :
    P (s.enterWrite u k sub q) := by
  unfold State.enterWrite
  repeat first
    | with_reducible assumption | with_reducible apply hc.setChan
    | with_reducible apply State.showChanQueues_closed hc | dsimp only | exact Or.inl ‹_› | exact Or.inr rfl
    | with_reducible apply hc.other

theorem State.holdPort_closed (hc : Closed A P) (kRegisters : A .registers) (kEvents : A .events)
    (kChannels : A .channels) (kSent : A .sent) {s : State} (u k port : Nat) (hs : P s) :
    P (s.holdPort u k port) := by
  unfold State.holdPort
  repeat first
    | with_reducible assumption | with_reducible apply hc.setChan | with_reducible apply State.bump_closed hc
    | with_reducible apply State.raise_closed hc | with_reducible apply closed_ite | dsimp only | split
    | exact Or.inl ‹_› | exact Or.inr rfl | with_reducible apply hc.other

theorem State.countActivate_closed (hc : Closed A P) (kChannels : A .channels) {s : State} (u k sub port : Nat)
    (b : BankAt) (hs : P s) :
    P (s.countActivate u k sub port b) := by
  unfold State.countActivate
  repeat first
    | with_reducible assumption | with_reducible apply hc.setChan | dsimp only | exact Or.inl ‹_› | exact Or.inr rfl
    | with_reducible apply hc.other

theorem State.refreshNeighbours_closed (hc : Closed A P) (kRegisters : A .registers) (kChannels : A .channels)
    (kSent : A .sent) {s : State} (u k sub bank row : Nat) (hs : P s) :
    P (s.refreshNeighbours u k sub bank row) := by
  unfold State.refreshNeighbours
  repeat first
    | with_reducible assumption | with_reducible apply hc.setChan | with_reducible apply State.bump_closed hc
    | with_reducible apply State.command_closed hc | with_reducible apply State.emit_closed hc
    | with_reducible apply closed_ite | dsimp only | split | exact Or.inl ‹_› | exact Or.inr rfl
    | with_reducible apply hc.other

theorem State.settleNoFb_closed (hc : Closed A P) (kRegisters : A .registers) (kEvents : A .events)
    (kBoard : A .board) (kSent : A .sent) {s : State} (hs : P s) :
    P s.settleNoFb := by
  unfold State.settleNoFb
  repeat first
    | with_reducible assumption | with_reducible apply State.putF_closed hc
    | with_reducible apply State.raise_closed hc | with_reducible apply closed_ite | dsimp only | split
    | exact Or.inl ‹_› | exact Or.inr rfl | with_reducible apply hc.other

theorem State.showChan_closed (hc : Closed A P) (kRegisters : A .registers) (kEvents : A .events)
    (kBoard : A .board) (kSent : A .sent) {s : State} (u k : Nat) (hs : P s) :
    P (s.showChan u k) := by
  unfold State.showChan
  repeat first
    | with_reducible assumption | with_reducible apply State.putF_closed hc
    | with_reducible apply State.settleNoFb_closed hc | dsimp only

theorem State.setChanState_closed (hc : Closed A P) (kRegisters : A .registers) (kEvents : A .events)
    (kBoard : A .board) (kSent : A .sent) {s : State} (u k st step : Nat) (hs : P s) :
    P (s.setChanState u k st step) := by
  unfold State.setChanState
  repeat first
    | with_reducible assumption | with_reducible apply State.putF_closed hc
    | with_reducible apply State.showChan_closed hc | dsimp only

theorem State.disableStore_closed (hc : Closed A P) (kRegisters : A .registers) (kStores : A .stores)
    (kEvents : A .events) (kQueues : A .queues) (kSent : A .sent) {s : State} (u cause : Nat) (hs : P s) :
    P (s.disableStore u cause) := by
  unfold State.disableStore
  repeat first
    | with_reducible assumption | with_reducible apply hc.setStore
    | with_reducible apply State.beginStoreLoss_closed hc | with_reducible apply State.emptyQueue_closed hc
    | with_reducible apply State.settleWm_closed hc | with_reducible apply closed_ite | dsimp only | split
    | exact Or.inl ‹_› | exact Or.inr rfl | with_reducible apply hc.other

theorem State.settleLayout_closed (hc : Closed A P) (kRegisters : A .registers) (kStores : A .stores)
    (kEvents : A .events) (kDram : A .dram) (kChannels : A .channels) (kBoard : A .board) (kSent : A .sent)
    {s : State} (u : Nat) (cleared : Option Nat) (start : Bool) (hs : P s) :
    P (s.settleLayout u cleared start) := by
  unfold State.settleLayout
  repeat first
    | with_reducible assumption | with_reducible apply hc.setStore | with_reducible apply State.loseDram_closed hc
    | with_reducible apply State.showChan_closed hc | (with_reducible apply closed_foldl; rotate_left; intro _ _ _)
    | with_reducible apply closed_ite | dsimp only | split | exact Or.inl ‹_› | exact Or.inr rfl
    | with_reducible apply hc.other

theorem State.failChannel_closed (hc : Closed A P) (kRegisters : A .registers) (kStores : A .stores)
    (kEvents : A .events) (kQueues : A .queues) (kDram : A .dram) (kChannels : A .channels) (kBoard : A .board)
    (kSent : A .sent) {s : State} (u k cause : Nat) (hs : P s) :
    P (s.failChannel u k cause) := by
  unfold State.failChannel
  repeat first
    | with_reducible assumption | with_reducible apply hc.setChan | with_reducible apply hc.setStore
    | with_reducible apply State.disableStore_closed hc | with_reducible apply State.putF_closed hc
    | with_reducible apply State.putPair_closed hc | with_reducible apply State.raise_closed hc
    | with_reducible apply State.setChanState_closed hc | with_reducible apply State.settleLayout_closed hc
    | with_reducible apply closed_ite | dsimp only | split | exact Or.inl ‹_› | exact Or.inr rfl
    | with_reducible apply hc.other

theorem State.dropRequests_closed (hc : Closed A P) (kRegisters : A .registers) (kChannels : A .channels)
    {s : State} (u k : Nat) (hs : P s) :
    P (s.dropRequests u k) := by
  unfold State.dropRequests
  repeat first
    | with_reducible assumption | with_reducible apply hc.setChan
    | with_reducible apply State.showChanQueues_closed hc | dsimp only | exact Or.inl ‹_› | exact Or.inr rfl
    | with_reducible apply hc.other

theorem State.reportCorrected_closed (hc : Closed A P) (kRegisters : A .registers) (kEvents : A .events)
    (kSent : A .sent) {s : State} (u k sub port piece w bit : Nat) (hs : P s) :
    P (s.reportCorrected u k sub port piece w bit) := by
  unfold State.reportCorrected
  repeat first
    | with_reducible assumption | with_reducible apply State.bump_closed hc
    | with_reducible apply State.logError_closed hc | with_reducible apply State.raise_closed hc
    | with_reducible apply closed_ite | dsimp only | split

theorem State.reportUncorrectable_closed (hc : Closed A P) (kRegisters : A .registers) (kStores : A .stores)
    (kEvents : A .events) (kQueues : A .queues) (kDram : A .dram) (kChannels : A .channels) (kBoard : A .board)
    (kSent : A .sent) {s : State} (u k sub port piece w : Nat) (hs : P s) :
    P (s.reportUncorrectable u k sub port piece w) := by
  unfold State.reportUncorrectable
  repeat first
    | with_reducible assumption | with_reducible apply hc.setChan | with_reducible apply State.bump_closed hc
    | with_reducible apply State.failChannel_closed hc | with_reducible apply State.logError_closed hc
    | with_reducible apply State.raise_closed hc | with_reducible apply closed_ite | dsimp only | split
    | exact Or.inl ‹_› | exact Or.inr rfl | with_reducible apply hc.other

theorem State.reportPoison_closed (hc : Closed A P) (kRegisters : A .registers) (kEvents : A .events)
    (kChannels : A .channels) (kSent : A .sent) {s : State} (u k sub port piece w : Nat) (hs : P s) :
    P (s.reportPoison u k sub port piece w) := by
  unfold State.reportPoison
  repeat first
    | with_reducible assumption | with_reducible apply hc.setChan | with_reducible apply State.bump_closed hc
    | with_reducible apply State.logError_closed hc | with_reducible apply State.raise_closed hc | dsimp only

theorem State.strike_closed (hc : Closed A P) (kDram : A .dram) (kChannels : A .channels) (kSent : A .sent)
    {s : State} (u k sub piece w bit : Nat) (hs : P s) :
    P (s.strike u k sub piece w bit) := by
  unfold State.strike
  repeat first
    | with_reducible assumption | with_reducible apply hc.setChan | with_reducible apply hc.setDramStored
    | with_reducible apply State.drawFree_closed hc | (with_reducible apply closed_foldl; rotate_left; intro _ _ _)
    | with_reducible apply closed_ite | dsimp only | split

theorem State.checkPiece_closed (hc : Closed A P) (kRegisters : A .registers) (kStores : A .stores)
    (kEvents : A .events) (kQueues : A .queues) (kDram : A .dram) (kChannels : A .channels) (kBoard : A .board)
    (kSent : A .sent) {s : State} (u k sub port piece : Nat) (flaws : List (Nat × Nat)) (hs : P s) :
    P (s.checkPiece u k sub port piece flaws) := by
  unfold State.checkPiece
  repeat first
    | with_reducible assumption | with_reducible apply State.reportCorrected_closed hc
    | with_reducible apply State.reportUncorrectable_closed hc | with_reducible apply State.strike_closed hc
    | (with_reducible apply closed_foldl; rotate_left; intro _ _ _) | dsimp only | split | exact Or.inl ‹_›
    | exact Or.inr rfl | with_reducible apply hc.other

theorem State.storeWrite_closed (hc : Closed A P) (kRegisters : A .registers) (kStores : A .stores)
    (kEvents : A .events) (kQueues : A .queues) (kDram : A .dram) (kChannels : A .channels) (kBoard : A .board)
    (kSent : A .sent) {s : State} (u k sub : Nat) (q : WriteReq) (hs : P s) :
    P (s.storeWrite u k sub q) := by
  unfold State.storeWrite
  repeat first
    | with_reducible assumption | with_reducible apply hc.setChan | with_reducible apply hc.setDramStored
    | with_reducible apply State.reportCorrected_closed hc | with_reducible apply State.reportPoison_closed hc
    | with_reducible apply State.reportUncorrectable_closed hc
    | (with_reducible apply closed_foldl; rotate_left; intro _ _ _) | with_reducible apply closed_ite | dsimp only
    | split | exact Or.inl ‹_› | exact Or.inr rfl | with_reducible apply hc.other

theorem State.setReader_closed (hc : Closed A P) (kHost : A .host) {s : State} (u : Nat) (x : DrainSt) (hs : P s) :
    P (s.setReader u x) := by
  unfold State.setReader
  repeat first
    | with_reducible assumption | dsimp only | exact Or.inl ‹_› | exact Or.inr rfl | with_reducible apply hc.other

theorem State.stagePiece_closed (hc : Closed A P) (kHost : A .host) {s : State} (u slot p : Nat) (hs : P s) :
    P (s.stagePiece u slot p) := by
  unfold State.stagePiece
  repeat first
    | with_reducible assumption | with_reducible apply State.setReader_closed hc | with_reducible apply closed_ite
    | dsimp only | split | exact Or.inl ‹_› | exact Or.inr rfl | with_reducible apply hc.other

theorem State.stageRead_closed (hc : Closed A P) (kHost : A .host) {s : State} (u k sub piece : Nat) (hs : P s) :
    P (s.stageRead u k sub piece) := by
  unfold State.stageRead
  repeat first
    | with_reducible assumption | with_reducible apply State.stagePiece_closed hc | dsimp only | split
    | exact Or.inl ‹_› | exact Or.inr rfl | with_reducible apply hc.other

theorem State.noteTorn_closed (hc : Closed A P) (kHost : A .host) {s : State} (u i : Nat) (hs : P s) :
    P (s.noteTorn u i) := by
  unfold State.noteTorn
  repeat first
    | with_reducible assumption | with_reducible apply State.setReader_closed hc | with_reducible apply closed_ite
    | dsimp only | split | exact Or.inl ‹_› | exact Or.inr rfl | with_reducible apply hc.other

theorem State.activate_closed (hc : Closed A P) (kRegisters : A .registers) (kChannels : A .channels)
    (kSent : A .sent) {s : State} (u k sub port piece : Nat) (write : Bool) (hs : P s) :
    P (s.activate u k sub port piece write) := by
  unfold State.activate
  repeat first
    | with_reducible assumption | with_reducible apply State.command_closed hc
    | with_reducible apply State.countActivate_closed hc | with_reducible apply State.refreshNeighbours_closed hc
    | (with_reducible apply closed_foldl; rotate_left; intro _ _ _) | dsimp only

theorem State.accessWrite_closed (hc : Closed A P) (kRegisters : A .registers) (kStores : A .stores)
    (kEvents : A .events) (kQueues : A .queues) (kDram : A .dram) (kChannels : A .channels) (kBoard : A .board)
    (kSent : A .sent) {s : State} (u k sub piece : Nat) (hs : P s) :
    P (s.accessWrite u k sub piece) := by
  unfold State.accessWrite
  repeat first
    | with_reducible assumption | with_reducible apply hc.setChan | with_reducible apply State.activate_closed hc
    | with_reducible apply State.holdPort_closed hc | with_reducible apply State.settleMode_closed hc
    | with_reducible apply State.showChanQueues_closed hc | with_reducible apply State.storeWrite_closed hc
    | with_reducible apply closed_ite | dsimp only | split | exact Or.inl ‹_› | exact Or.inr rfl
    | with_reducible apply hc.other

theorem State.correctivePiece_closed (hc : Closed A P) (kRegisters : A .registers) (kChannels : A .channels)
    {s : State} (u k sub piece : Nat) (hs : P s) :
    P (s.correctivePiece u k sub piece) := by
  unfold State.correctivePiece
  repeat first
    | with_reducible assumption | with_reducible apply State.enterWrite_closed hc | with_reducible apply closed_ite
    | dsimp only | split

theorem State.accessRead_closed (hc : Closed A P) (kRegisters : A .registers) (kStores : A .stores)
    (kEvents : A .events) (kHost : A .host) (kQueues : A .queues) (kDram : A .dram) (kChannels : A .channels)
    (kBoard : A .board) (kSent : A .sent) {s : State} (u k sub port piece : Nat) (flaws : List (Nat × Nat))
    (strobe : Nat) (hs : P s) :
    P (s.accessRead u k sub port piece flaws strobe) := by
  unfold State.accessRead
  repeat first
    | with_reducible assumption | with_reducible apply hc.setChan | with_reducible apply State.activate_closed hc
    | with_reducible apply State.checkPiece_closed hc | with_reducible apply State.correctivePiece_closed hc
    | with_reducible apply State.enterRead_closed hc | with_reducible apply State.failChannel_closed hc
    | with_reducible apply State.holdPort_closed hc | with_reducible apply State.settleMode_closed hc
    | with_reducible apply State.showChanQueues_closed hc | with_reducible apply State.stageRead_closed hc
    | with_reducible apply closed_ite | dsimp only | split | exact Or.inl ‹_› | exact Or.inr rfl
    | with_reducible apply hc.other

theorem State.setCfg_closed (hc : Closed A P) (kRegisters : A .registers) {s : State}
    (u k gib density ranks grade drfm : Nat) (hs : P s) :
    P (s.setCfg u k gib density ranks grade drfm) := by
  unfold State.setCfg
  repeat first
    | with_reducible assumption | with_reducible apply State.putF_closed hc | dsimp only

theorem State.refuseDimm_closed (hc : Closed A P) (kRegisters : A .registers) (kStores : A .stores)
    (kEvents : A .events) (kQueues : A .queues) (kDram : A .dram) (kChannels : A .channels) (kBoard : A .board)
    (kSent : A .sent) {s : State} (u k : Nat) (hs : P s) :
    P (s.refuseDimm u k) := by
  unfold State.refuseDimm
  repeat first
    | with_reducible assumption | with_reducible apply hc.setChan | with_reducible apply State.disableStore_closed hc
    | with_reducible apply State.raise_closed hc | with_reducible apply State.setCfg_closed hc
    | with_reducible apply State.setChanState_closed hc | with_reducible apply State.settleLayout_closed hc
    | with_reducible apply closed_ite | dsimp only | split | exact Or.inl ‹_› | exact Or.inr rfl
    | with_reducible apply hc.other

theorem State.setDpll_closed (hc : Closed A P) (kRegisters : A .registers) (kPlls : A .plls) {s : State}
    (u grade : Nat) (hs : P s) :
    P (s.setDpll u grade) := by
  unfold State.setDpll
  repeat first
    | with_reducible assumption | with_reducible apply State.putF_closed hc
    | with_reducible apply State.putShadowF_closed hc | with_reducible apply State.startRelock_closed hc
    | with_reducible apply closed_ite | dsimp only | split

theorem State.startTraining_closed (hc : Closed A P) (kRegisters : A .registers) (kStores : A .stores)
    (kEvents : A .events) (kDram : A .dram) (kChannels : A .channels) (kBoard : A .board) (kSent : A .sent)
    {s : State} (u k : Nat) (startup : Bool) (hs : P s) :
    P (s.startTraining u k startup) := by
  unfold State.startTraining
  repeat first
    | with_reducible assumption | with_reducible apply hc.setChan | with_reducible apply State.dropRequests_closed hc
    | with_reducible apply State.loseDram_closed hc | with_reducible apply State.putF_closed hc
    | with_reducible apply State.setChanState_closed hc | with_reducible apply State.settleLayout_closed hc
    | dsimp only | exact Or.inl ‹_› | exact Or.inr rfl | with_reducible apply hc.other

theorem State.chooseGrade_closed (hc : Closed A P) (kRegisters : A .registers) (kPlls : A .plls)
    (kStores : A .stores) (kEvents : A .events) (kQueues : A .queues) (kDram : A .dram) (kChannels : A .channels)
    (kBoard : A .board) (kSent : A .sent) {s : State} (u : Nat) (hs : P s) :
    P (s.chooseGrade u) := by
  unfold State.chooseGrade
  repeat first
    | with_reducible assumption | with_reducible apply State.putF_closed hc
    | with_reducible apply State.refuseDimm_closed hc | with_reducible apply State.setDpll_closed hc
    | (with_reducible apply closed_foldl; rotate_left; intro _ _ _) | with_reducible apply closed_ite | dsimp only
    | split | exact Or.inl ‹_› | exact Or.inr rfl | with_reducible apply hc.other

theorem State.identify_closed (hc : Closed A P) (kRegisters : A .registers) (kPlls : A .plls) (kStores : A .stores)
    (kEvents : A .events) (kQueues : A .queues) (kDram : A .dram) (kChannels : A .channels) (kBoard : A .board)
    (kSent : A .sent) {s : State} (u k : Nat) (found : Option Dimm) (hs : P s) :
    P (s.identify u k found) := by
  unfold State.identify
  repeat first
    | with_reducible assumption | with_reducible apply hc.setChan | with_reducible apply State.chooseGrade_closed hc
    | with_reducible apply State.disableStore_closed hc | with_reducible apply State.refuseDimm_closed hc
    | with_reducible apply State.setCfg_closed hc | with_reducible apply State.setChanState_closed hc
    | with_reducible apply State.settleLayout_closed hc | with_reducible apply closed_ite | dsimp only | split
    | exact Or.inl ‹_› | exact Or.inr rfl | with_reducible apply hc.other

theorem State.fallBack_closed (hc : Closed A P) (kRegisters : A .registers) (kStores : A .stores)
    (kEvents : A .events) (kDram : A .dram) (kChannels : A .channels) (kBoard : A .board) (kSent : A .sent)
    {s : State} (u grade : Nat) (hs : P s) :
    P (s.fallBack u grade) := by
  unfold State.fallBack
  repeat first
    | with_reducible assumption | with_reducible apply hc.setChan | with_reducible apply State.raise_closed hc
    | with_reducible apply State.startTraining_closed hc
    | (with_reducible apply closed_foldl; rotate_left; intro _ _ _) | with_reducible apply closed_ite | dsimp only
    | split | exact Or.inl ‹_› | exact Or.inr rfl | with_reducible apply hc.other

theorem State.noSetting_closed (hc : Closed A P) (kRegisters : A .registers) (kStores : A .stores)
    (kEvents : A .events) (kQueues : A .queues) (kDram : A .dram) (kChannels : A .channels) (kBoard : A .board)
    (kSent : A .sent) {s : State} (u k : Nat) (hs : P s) :
    P (s.noSetting u k) := by
  unfold State.noSetting
  repeat first
    | with_reducible assumption | with_reducible apply State.bump_closed hc
    | with_reducible apply State.failChannel_closed hc | with_reducible apply State.fallBack_closed hc
    | with_reducible apply State.putF_closed hc | with_reducible apply closed_ite | dsimp only | split

theorem State.requestSlot_closed (hc : Closed A P) (kRegisters : A .registers) (kChannels : A .channels) {s : State}
    (u k : Nat) (hs : P s) :
    P (s.requestSlot u k) := by
  unfold State.requestSlot
  repeat first
    | with_reducible assumption | with_reducible apply hc.setChan | with_reducible apply State.bump_closed hc
    | with_reducible apply closed_ite | dsimp only | split | exact Or.inl ‹_› | exact Or.inr rfl
    | with_reducible apply hc.other

theorem State.endPeriodic_closed (hc : Closed A P) (kRegisters : A .registers) (kChannels : A .channels) {s : State}
    (u k : Nat) (hs : P s) :
    P (s.endPeriodic u k) := by
  unfold State.endPeriodic
  repeat first
    | with_reducible assumption | with_reducible apply hc.setChan | with_reducible apply State.putF_closed hc
    | dsimp only | exact Or.inl ‹_› | exact Or.inr rfl | with_reducible apply hc.other

theorem State.abandonPeriodic_closed (hc : Closed A P) (kRegisters : A .registers) (kChannels : A .channels)
    {s : State} (u k : Nat) (hs : P s) :
    P (s.abandonPeriodic u k) := by
  unfold State.abandonPeriodic
  repeat first
    | with_reducible assumption | with_reducible apply State.bump_closed hc
    | with_reducible apply State.endPeriodic_closed hc | with_reducible apply closed_ite | split

theorem State.abandonTraining_closed (hc : Closed A P) (kRegisters : A .registers) (kChannels : A .channels)
    {s : State} (u : Nat) (hs : P s) :
    P (s.abandonTraining u) := by
  unfold State.abandonTraining
  repeat first
    | with_reducible assumption | with_reducible apply hc.setChan | with_reducible apply State.endPeriodic_closed hc
    | with_reducible apply State.putF_closed hc | (with_reducible apply closed_foldl; rotate_left; intro _ _ _)
    | with_reducible apply closed_ite | dsimp only | split | exact Or.inl ‹_› | exact Or.inr rfl
    | with_reducible apply hc.other

theorem State.restartTraining_closed (hc : Closed A P) (kRegisters : A .registers) (kStores : A .stores)
    (kEvents : A .events) (kDram : A .dram) (kChannels : A .channels) (kBoard : A .board) (kSent : A .sent)
    {s : State} (u : Nat) (hs : P s) :
    P (s.restartTraining u) := by
  unfold State.restartTraining
  repeat first
    | with_reducible assumption | with_reducible apply hc.setChan
    | with_reducible apply State.startTraining_closed hc
    | (with_reducible apply closed_foldl; rotate_left; intro _ _ _) | with_reducible apply closed_ite | dsimp only
    | split | exact Or.inl ‹_› | exact Or.inr rfl | with_reducible apply hc.other

theorem State.abandonUnder_closed (hc : Closed A P) (kRegisters : A .registers) (kChannels : A .channels)
    {s : State} (x : Page) (hs : P s) :
    P (s.abandonUnder x) := by
  unfold State.abandonUnder
  repeat first
    | with_reducible assumption | with_reducible apply State.abandonTraining_closed hc
    | (with_reducible apply closed_foldl; rotate_left; intro _ _ _) | dsimp only | split

theorem State.applyDram_closed (hc : Closed A P) (kRegisters : A .registers) (kStores : A .stores)
    (kEvents : A .events) (kDram : A .dram) (kChannels : A .channels) (kBoard : A .board) (kSent : A .sent)
    {s : State} (u k : Nat) (hs : P s) :
    P (s.applyDram u k) := by
  unfold State.applyDram
  repeat first
    | with_reducible assumption | with_reducible apply State.copyToActive_closed hc
    | with_reducible apply State.on_closed hc | with_reducible apply State.putF_closed hc
    | with_reducible apply State.raise_closed hc | with_reducible apply State.settleLayout_closed hc
    | with_reducible apply State.settleNoFb_closed hc | with_reducible apply State.settlePanic_closed hc
    | with_reducible apply closed_ite | dsimp only | split

/-! ### Sys2Proof/Machine/March.lean -/

theorem State.showMarch_closed (hc : Closed A P) (kRegisters : A .registers) {s : State} (u : Nat) (hs : P s) :
    P (s.showMarch u) := by
  unfold State.showMarch
  repeat first
    | with_reducible assumption | with_reducible apply State.on_closed hc | with_reducible apply State.putF_closed hc
    | with_reducible apply closed_ite | dsimp only | split

theorem State.beginMarch_closed (hc : Closed A P) (kRegisters : A .registers) (kMarch : A .march) {s : State}
    (u : Nat) (r : MarchRun) (hs : P s) :
    P (s.beginMarch u r) := by
  unfold State.beginMarch
  repeat first
    | with_reducible assumption | with_reducible apply hc.setSramOf | with_reducible apply State.putF_closed hc
    | with_reducible apply State.showMarch_closed hc | with_reducible apply closed_ite | dsimp only | split
    | exact Or.inl ‹_› | exact Or.inr rfl | with_reducible apply hc.other

theorem State.marchStart_closed (hc : Closed A P) (kRegisters : A .registers) (kMarch : A .march) {s : State}
    (u : Nat) (hs : P s) :
    P (s.marchStart u) := by
  unfold State.marchStart
  repeat first
    | with_reducible assumption | with_reducible apply State.beginMarch_closed hc
    | with_reducible apply State.putF_closed hc | with_reducible apply closed_ite | dsimp only | split

theorem State.zeroMarched_closed (hc : Closed A P) (kSram : A .sram) (kMarch : A .march) {s : State} (u : Nat)
    (whole : Bool) (hs : P s) :
    P (s.zeroMarched u whole) := by
  unfold State.zeroMarched
  repeat first
    | with_reducible assumption | with_reducible apply hc.clearSram | with_reducible apply hc.setSramOf
    | with_reducible apply State.zeroSram_closed hc | with_reducible apply closed_ite | dsimp only | split
    | exact Or.inl ‹_› | exact Or.inr rfl | with_reducible apply hc.other

theorem State.marchFound_closed (hc : Closed A P) (kRegisters : A .registers) (kStores : A .stores)
    (kEvents : A .events) (kQueues : A .queues) (kMarch : A .march) (kSent : A .sent) {s : State} (u : Nat)
    (r : MarchRun) (fails : List MarchFail) (hs : P s) :
    P (s.marchFound u r fails) := by
  unfold State.marchFound
  repeat first
    | with_reducible assumption | with_reducible apply hc.setSramOf
    | with_reducible apply State.disableStore_closed hc | with_reducible apply State.putF_closed hc
    | with_reducible apply State.raise_closed hc | with_reducible apply State.settleWm_closed hc
    | (with_reducible apply closed_foldl; rotate_left; intro _ _ _) | with_reducible apply closed_ite | dsimp only
    | split | exact Or.inl ‹_› | exact Or.inr rfl | with_reducible apply hc.other

theorem State.endMarch_closed (hc : Closed A P) (kRegisters : A .registers) (kStores : A .stores)
    (kEvents : A .events) (kQueues : A .queues) (kSram : A .sram) (kMarch : A .march) (kSent : A .sent) {s : State}
    (u : Nat) (r : MarchRun) (fails : List MarchFail) (hs : P s) :
    P (s.endMarch u r fails) := by
  unfold State.endMarch
  repeat first
    | with_reducible assumption | with_reducible apply State.marchFound_closed hc
    | with_reducible apply State.putF_closed hc | with_reducible apply State.showMarch_closed hc
    | with_reducible apply State.zeroMarched_closed hc | with_reducible apply closed_ite | dsimp only | split

/-! ### Sys2Proof/Machine/Boot.lean -/

theorem State.showReady_closed (hc : Closed A P) (kRegisters : A .registers) {s : State} (p : Page) (hs : P s) :
    P (s.showReady p) := by
  unfold State.showReady
  repeat first
    | with_reducible assumption | with_reducible apply State.putF_closed hc | with_reducible apply closed_ite | split

theorem State.showAllReady_closed (hc : Closed A P) (kRegisters : A .registers) {s : State} (hs : P s) :
    P s.showAllReady := by
  unfold State.showAllReady
  repeat first
    | with_reducible assumption | with_reducible apply State.showReady_closed hc
    | (with_reducible apply closed_foldl; rotate_left; intro _ _ _) | dsimp only

theorem State.stage_closed (hc : Closed A P) (kRegisters : A .registers) {s : State} (n : Nat) (hs : P s) :
    P (s.stage n) := by
  unfold State.stage
  repeat first
    | with_reducible assumption | with_reducible apply State.putF_closed hc | with_reducible apply closed_ite | split

theorem State.beginTraining_closed (hc : Closed A P) (kRegisters : A .registers) (kStores : A .stores)
    (kEvents : A .events) (kDram : A .dram) (kChannels : A .channels) (kBoard : A .board) (kSent : A .sent)
    {s : State} (u : Nat) (hs : P s) :
    P (s.beginTraining u) := by
  unfold State.beginTraining
  repeat first
    | with_reducible assumption | with_reducible apply State.stage_closed hc
    | with_reducible apply State.startTraining_closed hc

theorem State.marchEnds_closed (hc : Closed A P) (kRegisters : A .registers) (kStores : A .stores)
    (kEvents : A .events) (kDram : A .dram) (kChannels : A .channels) (kBoard : A .board) (kBoot : A .boot)
    (kSent : A .sent) {s : State} (u : Nat) (hs : P s) :
    P (s.marchEnds u) := by
  unfold State.marchEnds
  repeat first
    | with_reducible assumption | with_reducible apply State.beginTraining_closed hc
    | with_reducible apply State.putF_closed hc | with_reducible apply State.showReady_closed hc
    | (with_reducible apply closed_foldl; rotate_left; intro _ _ _) | with_reducible apply closed_ite | dsimp only
    | split | exact Or.inl ‹_› | exact Or.inr rfl | with_reducible apply hc.other

theorem State.startMarch_closed (hc : Closed A P) (kRegisters : A .registers) (kStores : A .stores)
    (kEvents : A .events) (kSram : A .sram) (kMarch : A .march) (kDram : A .dram) (kChannels : A .channels)
    (kBoard : A .board) (kBoot : A .boot) (kSent : A .sent) {s : State} (u : Nat) (hs : P s) :
    P (s.startMarch u) := by
  unfold State.startMarch
  repeat first
    | with_reducible assumption | with_reducible apply State.beginMarch_closed hc
    | with_reducible apply State.marchEnds_closed hc | with_reducible apply State.zeroSram_closed hc
    | with_reducible apply closed_ite | dsimp only | split

theorem State.marchOver_closed (hc : Closed A P) (kRegisters : A .registers) (kStores : A .stores)
    (kEvents : A .events) (kDram : A .dram) (kChannels : A .channels) (kBoard : A .board) (kBoot : A .boot)
    (kSent : A .sent) {s : State} (u : Nat) (r : MarchRun) (hs : P s) :
    P (s.marchOver u r) := by
  unfold State.marchOver
  repeat first
    | with_reducible assumption | with_reducible apply State.marchEnds_closed hc | with_reducible apply closed_ite
    | split

theorem State.raiseLinks_closed (hc : Closed A P) (kRegisters : A .registers) {s : State} (hs : P s) :
    P s.raiseLinks := by
  unfold State.raiseLinks
  repeat first
    | with_reducible assumption | with_reducible apply State.putF_closed hc
    | (with_reducible apply closed_foldl; rotate_left; intro _ _ _) | dsimp only

theorem State.settleBoot_closed (hc : Closed A P) (kRegisters : A .registers) (kStores : A .stores)
    (kEvents : A .events) (kSram : A .sram) (kMarch : A .march) (kDram : A .dram) (kChannels : A .channels)
    (kBoard : A .board) (kBoot : A .boot) (kSent : A .sent) {s : State} (hs : P s) :
    P s.settleBoot := by
  unfold State.settleBoot
  repeat first
    | with_reducible assumption | with_reducible apply State.drawFree_closed hc
    | with_reducible apply State.putF_closed hc | with_reducible apply State.raiseLinks_closed hc
    | with_reducible apply State.showAllReady_closed hc | with_reducible apply State.stage_closed hc
    | with_reducible apply State.startMarch_closed hc | (with_reducible apply closed_foldl; rotate_left; intro _ _ _)
    | with_reducible apply closed_ite | dsimp only | split | exact Or.inl ‹_› | exact Or.inr rfl
    | with_reducible apply hc.other

end Sys2Proof.Machine
end

