-- ==== Sys2Proof/Laws/ClosedUnits.lean ====
section
/-!
SUPPORT. The operations on the Noticeboard, events, the host port, pod links, the ring, the Reeve, applies and resets
keep what the primitive updates of their kinds of state keep (Sys2Proof/Laws/Closed.lean).
-/
namespace Sys2Proof.Machine

variable {A : StateKind → Prop} {P : State → Prop}

/-! ### Sys2Proof/Machine/Board.lean -/

theorem State.setBoard_closed (hc : Closed A P) (kBoard : A .board) {s : State} (f : BoardSt → BoardSt) (hs : P s) :
    P (s.setBoard f) := by
  unfold State.setBoard
  repeat first
    | with_reducible assumption | exact Or.inl ‹_› | exact Or.inr rfl | with_reducible apply hc.other

theorem State.showBoard_closed (hc : Closed A P) (kRegisters : A .registers) (kBoard : A .board) {s : State}
    (hs : P s) :
    P s.showBoard := by
  unfold State.showBoard
  repeat first
    | with_reducible assumption | with_reducible apply State.putF_closed hc | dsimp only | exact Or.inl ‹_›
    | exact Or.inr rfl | with_reducible apply hc.other

theorem State.countPoison_closed (hc : Closed A P) (kRegisters : A .registers) (kEvents : A .events)
    (kSent : A .sent) {s : State} (n : Nat) (hs : P s) :
    P (s.countPoison n) := by
  induction n generalizing s with
  | zero => exact hs
  | succ n ih =>
    unfold State.countPoison
    repeat first
      | with_reducible assumption | with_reducible apply State.bump_closed hc
      | with_reducible apply State.raise_closed hc | with_reducible apply ih | split

theorem State.fetchPiece_closed (hc : Closed A P) (kRegisters : A .registers) (kStores : A .stores)
    (kEvents : A .events) (kQueues : A .queues) (kDram : A .dram) (kChannels : A .channels) (kBoard : A .board)
    (kSent : A .sent) {s : State} (sub piece slot : Nat) (hs : P s) :
    P (s.fetchPiece sub piece slot) := by
  unfold State.fetchPiece
  repeat first
    | with_reducible assumption | with_reducible apply State.activate_closed hc
    | with_reducible apply State.checkPiece_closed hc | with_reducible apply State.countPoison_closed hc
    | with_reducible apply State.setBoard_closed hc | with_reducible apply closed_ite | dsimp only
    | exact Or.inl ‹_› | exact Or.inr rfl
    | with_reducible apply hc.other

theorem State.fetchPieces_closed (hc : Closed A P) (kRegisters : A .registers) (kStores : A .stores)
    (kEvents : A .events) (kQueues : A .queues) (kDram : A .dram) (kChannels : A .channels) (kBoard : A .board)
    (kSent : A .sent) {s : State} (n : Nat) (hs : P s) :
    P (s.fetchPieces n) := by
  induction n generalizing s with
  | zero => 
    unfold State.fetchPieces
    repeat first
      | with_reducible assumption | with_reducible apply State.fetchPiece_closed hc
      | with_reducible apply State.holdPort_closed hc | with_reducible apply State.setBoard_closed hc
      | with_reducible apply closed_ite | dsimp only | split | exact Or.inl ‹_› | exact Or.inr rfl
      | with_reducible apply hc.other
  | succ n ih =>
    unfold State.fetchPieces
    repeat first
      | with_reducible assumption | with_reducible apply State.fetchPiece_closed hc
      | with_reducible apply State.holdPort_closed hc | with_reducible apply State.setBoard_closed hc
      | with_reducible apply ih | with_reducible apply closed_ite | dsimp only | split | exact Or.inl ‹_›
      | exact Or.inr rfl | with_reducible apply hc.other

theorem State.fetchLines_closed (hc : Closed A P) (kRegisters : A .registers) (kTime : A .time)
    (kStores : A .stores) (kEvents : A .events) (kQueues : A .queues) (kDram : A .dram) (kChannels : A .channels)
    (kBoard : A .board) (kSent : A .sent) {s : State} (hs : P s) :
    P s.fetchLines := by
  unfold State.fetchLines
  repeat first
    | with_reducible assumption | with_reducible apply hc.setChan | with_reducible apply State.advanceTo_closed hc
    | with_reducible apply State.fetchPieces_closed hc | with_reducible apply State.leaveSelfRefresh_closed hc
    | with_reducible apply State.setBoard_closed hc | with_reducible apply closed_ite | dsimp only | split
    | exact Or.inl ‹_› | exact Or.inr rfl | with_reducible apply hc.other

theorem State.setOut_closed (hc : Closed A P) (kBoard : A .board) {s : State} (port : Nat) (x : OutSt) (hs : P s) :
    P (s.setOut port x) := by
  unfold State.setOut
  repeat first
    | with_reducible assumption | with_reducible apply State.setBoard_closed hc | with_reducible apply closed_ite
    | dsimp only | split | exact Or.inl ‹_› | exact Or.inr rfl | with_reducible apply hc.other

theorem State.showOut_closed (hc : Closed A P) (kRegisters : A .registers) {s : State} (port : Nat) (hs : P s) :
    P (s.showOut port) := by
  unfold State.showOut
  repeat first
    | with_reducible assumption | with_reducible apply State.putF_closed hc
    | with_reducible apply State.stage_closed hc | with_reducible apply closed_ite | dsimp only | split

theorem State.settleOut_closed (hc : Closed A P) (kRegisters : A .registers) (kBoard : A .board) {s : State}
    (port : Nat) (was : Bool) (hs : P s) :
    P (s.settleOut port was) := by
  unfold State.settleOut
  repeat first
    | with_reducible assumption | with_reducible apply State.setOut_closed hc
    | with_reducible apply State.showOut_closed hc | with_reducible apply closed_ite | dsimp only | split

theorem State.beginFrame_closed (hc : Closed A P) (kRegisters : A .registers) (kEvents : A .events)
    (kBoard : A .board) (kSent : A .sent) {s : State} (background : Bool) (hs : P s) :
    P (s.beginFrame background) := by
  unfold State.beginFrame
  repeat first
    | with_reducible assumption | with_reducible apply State.putF_closed hc
    | with_reducible apply State.raise_closed hc | with_reducible apply State.setBoard_closed hc
    | with_reducible apply State.showBoard_closed hc | with_reducible apply closed_ite | dsimp only | split
    | exact Or.inl ‹_› | exact Or.inr rfl | with_reducible apply hc.other

theorem State.settleGenerator_closed (hc : Closed A P) (kRegisters : A .registers) (kEvents : A .events)
    (kBoard : A .board) (kSent : A .sent) {s : State} (hs : P s) :
    P s.settleGenerator := by
  unfold State.settleGenerator
  repeat first
    | with_reducible assumption | with_reducible apply State.beginFrame_closed hc
    | with_reducible apply State.putF_closed hc | with_reducible apply State.setBoard_closed hc
    | with_reducible apply State.settleNoFb_closed hc | with_reducible apply State.showBoard_closed hc
    | with_reducible apply closed_ite | dsimp only | split | exact Or.inl ‹_› | exact Or.inr rfl
    | with_reducible apply hc.other

theorem State.boardLock_closed (hc : Closed A P) (kRegisters : A .registers) (kEvents : A .events)
    (kBoard : A .board) (kSent : A .sent) {s : State} (p : Page) (hs : P s) :
    P (s.boardLock p) := by
  unfold State.boardLock
  repeat first
    | with_reducible assumption | with_reducible apply State.beginFrame_closed hc
    | with_reducible apply State.putF_closed hc | with_reducible apply closed_ite | dsimp only | split

theorem State.endLowering_closed (hc : Closed A P) (kRegisters : A .registers) (kBoard : A .board) {s : State}
    (hs : P s) :
    P s.endLowering := by
  unfold State.endLowering
  repeat first
    | with_reducible assumption | with_reducible apply State.putF_closed hc
    | with_reducible apply State.setBoard_closed hc | dsimp only | exact Or.inl ‹_› | exact Or.inr rfl
    | with_reducible apply hc.other

theorem State.applyBoard_closed (hc : Closed A P) (kRegisters : A .registers) (kPlls : A .plls)
    (kEvents : A .events) (kBoard : A .board) (kSent : A .sent) {s : State} (hs : P s) :
    P s.applyBoard := by
  unfold State.applyBoard
  repeat first
    | with_reducible assumption | with_reducible apply hc.setWord | with_reducible apply State.clearCommit_closed hc
    | with_reducible apply State.copyToActive_closed hc | with_reducible apply State.countApply_closed hc
    | with_reducible apply State.putF_closed hc | with_reducible apply State.raise_closed hc
    | with_reducible apply State.setBoard_closed hc | with_reducible apply State.settleGenerator_closed hc
    | with_reducible apply State.settleOut_closed hc | with_reducible apply State.startRelock_closed hc
    | with_reducible apply closed_ite | dsimp only | split | exact Or.inl ‹_› | exact Or.inr rfl
    | with_reducible apply hc.other

theorem State.commitBoard_closed (hc : Closed A P) (kRegisters : A .registers) (kBoard : A .board) {s : State}
    (hs : P s) :
    P s.commitBoard := by
  unfold State.commitBoard
  repeat first
    | with_reducible assumption | with_reducible apply State.endLowering_closed hc
    | with_reducible apply State.putF_closed hc | with_reducible apply State.setBoard_closed hc | dsimp only
    | exact Or.inl ‹_› | exact Or.inr rfl | with_reducible apply hc.other

theorem State.endActive_closed (hc : Closed A P) (kRegisters : A .registers) (kTime : A .time) (kPlls : A .plls)
    (kEvents : A .events) (kBoard : A .board) (kSent : A .sent) {s : State} (hs : P s) :
    P s.endActive := by
  unfold State.endActive
  repeat first
    | with_reducible assumption | with_reducible apply State.advanceTo_closed hc
    | with_reducible apply State.applyBoard_closed hc | with_reducible apply State.drawFree_closed hc
    | with_reducible apply State.setBoard_closed hc | with_reducible apply State.showBoard_closed hc
    | with_reducible apply closed_ite | dsimp only | split | exact Or.inl ‹_› | exact Or.inr rfl
    | with_reducible apply hc.other

theorem State.paintColumn_closed (hc : Closed A P) (kRegisters : A .registers) (kBoard : A .board) {s : State}
    (k : Nat) (hs : P s) :
    P (s.paintColumn k) := by
  unfold State.paintColumn
  repeat first
    | with_reducible assumption | with_reducible apply State.endLowering_closed hc
    | with_reducible apply State.setBoard_closed hc | (with_reducible apply closed_foldl; rotate_left; intro _ _ _)
    | with_reducible apply closed_ite | dsimp only | split | exact Or.inl ‹_› | exact Or.inr rfl
    | with_reducible apply hc.other

/-! ### Sys2Proof/Machine/BoardCmds.lean -/

theorem State.onBoard_closed (hc : Closed A P) (kRegisters : A .registers) (kBoard : A .board) {s : State}
    {t : State} (hs : P s) (hs1 : P t) :
    nextHas P (s.onBoard t) := by
  unfold State.onBoard
  repeat first
    | with_reducible assumption | with_reducible apply nextHas_next | with_reducible apply State.on_closed hc
    | with_reducible apply State.showBoard_closed hc | dsimp only | split

theorem State.auxGo_closed (hc : Closed A P) (kRegisters : A .registers) (kSent : A .sent) {s : State} (hs : P s) :
    P s.auxGo := by
  unfold State.auxGo
  repeat first
    | with_reducible assumption | with_reducible apply State.emit_closed hc
    | with_reducible apply State.putF_closed hc | with_reducible apply closed_ite | dsimp only | split

/-! ### Sys2Proof/Machine/Events.lean -/

theorem State.settleWait_closed (hc : Closed A P) (kRegisters : A .registers) (kEvents : A .events)
    (kSent : A .sent) {s : State} (hs : P s) :
    P s.settleWait := by
  unfold State.settleWait
  repeat first
    | with_reducible assumption | with_reducible apply State.raise_closed hc | with_reducible apply closed_ite
    | split | exact Or.inl ‹_› | exact Or.inr rfl | with_reducible apply hc.other

theorem State.queueEvent_closed (hc : Closed A P) (kRegisters : A .registers) (kEvents : A .events)
    (kQueues : A .queues) (kSram : A .sram) (kSent : A .sent) {s : State} (r : EvRec) (hs : P s) :
    P (s.queueEvent r) := by
  unfold State.queueEvent
  repeat first
    | with_reducible assumption | with_reducible apply State.push_closed hc
    | with_reducible apply State.putF_closed hc | with_reducible apply State.settleWait_closed hc
    | with_reducible apply closed_ite | dsimp only | split

theorem State.enqueueEvent_closed (hc : Closed A P) (kRegisters : A .registers) (kEvents : A .events)
    (kQueues : A .queues) (kSram : A .sram) (kSent : A .sent) {s : State} (origin : Nat) (hs : P s) :
    P (s.enqueueEvent origin) := by
  unfold State.enqueueEvent
  repeat first
    | with_reducible assumption | with_reducible apply State.bump_closed hc
    | with_reducible apply State.queueEvent_closed hc | with_reducible apply closed_ite | dsimp only | split
    | exact Or.inl ‹_› | exact Or.inr rfl | with_reducible apply hc.other

theorem State.reportLost_closed (hc : Closed A P) (kRegisters : A .registers) (kEvents : A .events)
    (kQueues : A .queues) (kSram : A .sram) (kSent : A .sent) {s : State} (hs : P s) :
    P s.reportLost := by
  unfold State.reportLost
  repeat first
    | with_reducible assumption | with_reducible apply State.bump_closed hc
    | with_reducible apply State.causeReady_closed hc | with_reducible apply State.queueEvent_closed hc
    | with_reducible apply State.serveVectors_closed hc | with_reducible apply State.setBitF_closed hc
    | with_reducible apply closed_ite | dsimp only | split | exact Or.inl ‹_› | exact Or.inr rfl
    | with_reducible apply hc.other

theorem State.writeRecord_closed (hc : Closed A P) (kRegisters : A .registers) (kEvents : A .events)
    (kSent : A .sent) {s : State} (e : QueueEntry) (bad : Bool) (hs : P s) :
    P (s.writeRecord e bad) := by
  unfold State.writeRecord
  repeat first
    | with_reducible assumption | with_reducible apply State.causeReady_closed hc
    | with_reducible apply State.emit_closed hc | with_reducible apply State.putF_closed hc
    | with_reducible apply State.serveVectors_closed hc | dsimp only | split | exact Or.inl ‹_› | exact Or.inr rfl
    | with_reducible apply hc.other

theorem State.writeEvent_closed (hc : Closed A P) (kRegisters : A .registers) (kEvents : A .events)
    (kQueues : A .queues) (kSent : A .sent) {s : State} (corrected uncorrectable : Nat) (hs : P s) :
    P (s.writeEvent corrected uncorrectable) := by
  unfold State.writeEvent
  repeat first
    | with_reducible assumption | with_reducible apply State.pop_closed hc
    | with_reducible apply State.settleWait_closed hc | with_reducible apply State.writeRecord_closed hc
    | with_reducible apply closed_ite | dsimp only | split | exact Or.inl ‹_› | exact Or.inr rfl
    | with_reducible apply hc.other

theorem State.enableEvents_closed (hc : Closed A P) (kRegisters : A .registers) (kEvents : A .events)
    (kSent : A .sent) {s : State} (hs : P s) :
    P s.enableEvents := by
  unfold State.enableEvents
  repeat first
    | with_reducible assumption | with_reducible apply State.putF_closed hc
    | with_reducible apply State.settleWait_closed hc | with_reducible apply closed_ite | dsimp only | split

theorem State.disableEvents_closed (hc : Closed A P) (kRegisters : A .registers) {s : State} (hs : P s) :
    P s.disableEvents := by
  unfold State.disableEvents
  repeat first
    | with_reducible assumption | with_reducible apply State.putF_closed hc

theorem State.dropEventRing_closed (hc : Closed A P) (kRegisters : A .registers) {s : State} (hs : P s) :
    P s.dropEventRing := by
  unfold State.dropEventRing
  repeat first
    | with_reducible assumption | with_reducible apply hc.clearRegs
    | with_reducible apply State.disableEvents_closed hc | with_reducible apply State.putF_closed hc

theorem State.emptyEvents_closed (hc : Closed A P) (kRegisters : A .registers) (kEvents : A .events)
    (kQueues : A .queues) (kSent : A .sent) {s : State} (hs : P s) :
    P s.emptyEvents := by
  unfold State.emptyEvents
  repeat first
    | with_reducible assumption | with_reducible apply State.emptyQueue_closed hc
    | with_reducible apply State.putF_closed hc | dsimp only | exact Or.inl ‹_› | exact Or.inr rfl
    | with_reducible apply hc.other

theorem State.forgetSources_closed (hc : Closed A P) (kEvents : A .events) {s : State} (p : Page) (hs : P s) :
    P (s.forgetSources p) := by
  unfold State.forgetSources
  repeat first
    | with_reducible assumption | dsimp only | split | exact Or.inl ‹_› | exact Or.inr rfl
    | with_reducible apply hc.other

/-! ### Sys2Proof/Machine/QueueCmds.lean -/

theorem State.countBlock_closed (hc : Closed A P) (kRegisters : A .registers) {s : State} (u stream : Nat)
    (hs : P s) :
    P (s.countBlock u stream) := by
  unfold State.countBlock
  repeat first
    | with_reducible assumption | with_reducible apply State.bump_closed hc | with_reducible apply closed_ite | split

theorem State.pushBlock_closed (hc : Closed A P) (kRegisters : A .registers) (kStores : A .stores)
    (kEvents : A .events) (kQueues : A .queues) (kSram : A .sram) (kChannels : A .channels) (kSent : A .sent)
    {s : State} (u : Nat) (hs : P s) :
    P (s.pushBlock u) := by
  unfold State.pushBlock
  repeat first
    | with_reducible assumption | with_reducible apply hc.setStore | with_reducible apply State.countBlock_closed hc
    | with_reducible apply State.push_closed hc | with_reducible apply State.settlePanic_closed hc
    | with_reducible apply closed_ite | dsimp only | split | exact Or.inl ‹_› | exact Or.inr rfl
    | with_reducible apply hc.other

theorem State.pushPacket_closed (hc : Closed A P) (kRegisters : A .registers) (kStreams : A .streams)
    (kStores : A .stores) (kEvents : A .events) (kQueues : A .queues) (kSram : A .sram) (kSent : A .sent)
    {s : State} (q : QueueId) (words : List Nat) (left beat : Nat) (hs : P s) :
    P (s.pushPacket q words left beat) := by
  unfold State.pushPacket
  repeat first
    | with_reducible assumption | with_reducible apply State.holeBegin_closed hc
    | with_reducible apply State.push_closed hc | with_reducible apply State.refusePush_closed hc
    | with_reducible apply closed_ite | split | exact Or.inl ‹_› | exact Or.inr rfl | with_reducible apply hc.other

theorem State.popEntry_closed (hc : Closed A P) (kRegisters : A .registers) (kStores : A .stores)
    (kEvents : A .events) (kQueues : A .queues) (kSent : A .sent) {s : State} (u corrected uncorrectable : Nat)
    (hs : P s) :
    P (s.popEntry u corrected uncorrectable) := by
  unfold State.popEntry
  repeat first
    | with_reducible assumption | with_reducible apply hc.setStore | with_reducible apply State.pop_closed hc
    | with_reducible apply closed_ite | dsimp only | split | exact Or.inl ‹_› | exact Or.inr rfl
    | with_reducible apply hc.other

theorem State.popBlock_closed (hc : Closed A P) (kRegisters : A .registers) (kStores : A .stores)
    (kEvents : A .events) (kQueues : A .queues) (kSent : A .sent) {s : State} (u corrected uncorrectable : Nat)
    (hs : P s) :
    P (s.popBlock u corrected uncorrectable) := by
  unfold State.popBlock
  repeat first
    | with_reducible assumption | with_reducible apply State.popEntry_closed hc
    | (with_reducible apply closed_foldl; rotate_left; intro _ _ _) | with_reducible apply closed_ite | dsimp only
    | split

theorem State.placeBlock_closed (hc : Closed A P) (kRegisters : A .registers) (kChannels : A .channels) {s : State}
    (u slot : Nat) (bytes : List Byte) (poison : List Nat) (hs : P s) :
    P (s.placeBlock u slot bytes poison) := by
  unfold State.placeBlock
  repeat first
    | with_reducible assumption | with_reducible apply State.enterWrite_closed hc
    | (with_reducible apply closed_foldl; rotate_left; intro _ _ _) | dsimp only

/-! ### Sys2Proof/Machine/DramCmds.lean -/

theorem State.startInterval_closed (hc : Closed A P) (kRegisters : A .registers) {s : State} (u k : Nat) (hs : P s)
    :
    P (s.startInterval u k) := by
  unfold State.startInterval
  repeat first
    | with_reducible assumption | with_reducible apply State.putF_closed hc | dsimp only

theorem State.retrain_closed (hc : Closed A P) (kRegisters : A .registers) (kStores : A .stores)
    (kEvents : A .events) (kDram : A .dram) (kChannels : A .channels) (kBoard : A .board) (kSent : A .sent)
    {s : State} (u k : Nat) (hs : P s) :
    P (s.retrain u k) := by
  unfold State.retrain
  repeat first
    | with_reducible assumption | with_reducible apply State.putF_closed hc
    | with_reducible apply State.startTraining_closed hc | with_reducible apply closed_ite | dsimp only | split

theorem State.nextStep_closed (hc : Closed A P) (kRegisters : A .registers) (kEvents : A .events)
    (kBoard : A .board) (kSent : A .sent) {s : State} (u k step window : Nat) (hs : P s) :
    P (s.nextStep u k step window) := by
  unfold State.nextStep
  repeat first
    | with_reducible assumption | with_reducible apply State.putF_closed hc
    | with_reducible apply State.setChanState_closed hc | with_reducible apply closed_ite | dsimp only | split

theorem State.nextPeriodic_closed (hc : Closed A P) (kRegisters : A .registers) (kChannels : A .channels)
    {s : State} (u k window : Nat) (hs : P s) :
    P (s.nextPeriodic u k window) := by
  unfold State.nextPeriodic
  repeat first
    | with_reducible assumption | with_reducible apply hc.setChan | with_reducible apply State.bump_closed hc
    | with_reducible apply State.endPeriodic_closed hc | with_reducible apply State.putF_closed hc
    | with_reducible apply closed_ite | dsimp only | split | exact Or.inl ‹_› | exact Or.inr rfl
    | with_reducible apply hc.other

theorem State.replaySub_closed (hc : Closed A P) (kSent : A .sent) {s : State} (u k sub : Nat) (hs : P s) :
    P (s.replaySub u k sub) := by
  unfold State.replaySub
  repeat first
    | with_reducible assumption | with_reducible apply State.emit_closed hc
    | (with_reducible apply closed_foldl; rotate_left; intro _ _ _) | dsimp only

theorem State.switchStore_closed (hc : Closed A P) (kRegisters : A .registers) (kTake : A .take)
    (kStores : A .stores) {s : State} (u : Nat) (hs : P s) :
    P (s.switchStore u) := by
  unfold State.switchStore
  repeat first
    | with_reducible assumption | with_reducible apply hc.setStore | with_reducible apply State.checkFull_closed hc
    | with_reducible apply State.showStore_closed hc | with_reducible apply State.systemMark_closed hc
    | with_reducible apply closed_ite | dsimp only | split | exact Or.inl ‹_› | exact Or.inr rfl
    | with_reducible apply hc.other

/-! ### Sys2Proof/Machine/EventCmds.lean -/

theorem State.freeEvents_closed (hc : Closed A P) (kRegisters : A .registers) (kEvents : A .events)
    (kSent : A .sent) {s : State} (tally : Nat) (hs : P s) :
    P (s.freeEvents tally) := by
  unfold State.freeEvents
  repeat first
    | with_reducible assumption | with_reducible apply State.putF_closed hc
    | with_reducible apply State.settleWait_closed hc

/-! ### Sys2Proof/Machine/HostPort.lean -/

theorem State.produceCpl_closed (hc : Closed A P) (kRegisters : A .registers) (kEvents : A .events)
    (kHost : A .host) (kSent : A .sent) {s : State} (tally kind status op info : Nat) (result : List Byte)
    (irq : Bool) (hs : P s) :
    P (s.produceCpl tally kind status op info result irq) := by
  unfold State.produceCpl
  repeat first
    | with_reducible assumption | with_reducible apply State.putF_closed hc
    | with_reducible apply State.raise_closed hc | (with_reducible apply closed_foldl; rotate_left; intro _ _ _)
    | with_reducible apply closed_ite | dsimp only | split | exact Or.inl ‹_› | exact Or.inr rfl
    | with_reducible apply hc.other

theorem State.writeCpl_closed (hc : Closed A P) (kRegisters : A .registers) (kEvents : A .events) (kHost : A .host)
    (kSent : A .sent) {s : State} (hs : P s) :
    P s.writeCpl := by
  unfold State.writeCpl
  repeat first
    | with_reducible assumption | with_reducible apply State.emit_closed hc
    | with_reducible apply State.raise_closed hc | with_reducible apply closed_ite | dsimp only | split
    | exact Or.inl ‹_› | exact Or.inr rfl | with_reducible apply hc.other

theorem State.showHost_closed (hc : Closed A P) (kRegisters : A .registers) {s : State} (hs : P s) :
    P s.showHost := by
  unfold State.showHost
  repeat first
    | with_reducible assumption | with_reducible apply State.on_closed hc | with_reducible apply State.putF_closed hc
    | dsimp only

theorem State.haltRing_closed (hc : Closed A P) (kRegisters : A .registers) (kEvents : A .events) (kSent : A .sent)
    {s : State} (drain : Bool) (reason : Nat) (hs : P s) :
    P (s.haltRing drain reason) := by
  unfold State.haltRing
  repeat first
    | with_reducible assumption | with_reducible apply State.putF_closed hc
    | with_reducible apply State.raise_closed hc | with_reducible apply State.showHost_closed hc
    | with_reducible apply closed_ite | dsimp only | split

theorem State.settleHif_closed (hc : Closed A P) (kRegisters : A .registers) {s : State} (hs : P s) :
    P s.settleHif := by
  unfold State.settleHif
  repeat first
    | with_reducible assumption | with_reducible apply State.putF_closed hc | with_reducible apply closed_ite
    | dsimp only | split | exact Or.inl ‹_› | exact Or.inr rfl | with_reducible apply hc.other

theorem State.rewindCommands_closed (hc : Closed A P) (kRegisters : A .registers) (kHost : A .host) {s : State}
    (hs : P s) :
    P s.rewindCommands := by
  unfold State.rewindCommands
  repeat first
    | with_reducible assumption | with_reducible apply State.putF_closed hc | dsimp only | exact Or.inl ‹_›
    | exact Or.inr rfl | with_reducible apply hc.other

theorem State.settleFence_closed (hc : Closed A P) (kRegisters : A .registers) (kEvents : A .events)
    (kHost : A .host) (kSent : A .sent) {s : State} (hs : P s) :
    P s.settleFence := by
  unfold State.settleFence
  repeat first
    | with_reducible assumption | with_reducible apply State.produceCpl_closed hc
    | with_reducible apply State.putF_closed hc | with_reducible apply closed_ite | dsimp only | split
    | exact Or.inl ‹_› | exact Or.inr rfl | with_reducible apply hc.other

theorem State.settleTally_closed (hc : Closed A P) (kRegisters : A .registers) (kEvents : A .events)
    (kHost : A .host) (kSent : A .sent) {s : State} (hs : P s) :
    P s.settleTally := by
  unfold State.settleTally
  repeat first
    | with_reducible assumption | with_reducible apply State.produceCpl_closed hc | with_reducible apply closed_ite
    | split | exact Or.inl ‹_› | exact Or.inr rfl | with_reducible apply hc.other

theorem State.showDrains_closed (hc : Closed A P) (kRegisters : A .registers) {s : State} (hs : P s) :
    P s.showDrains := by
  unfold State.showDrains
  repeat first
    | with_reducible assumption | with_reducible apply State.putF_closed hc | dsimp only

theorem State.dropDrains_closed (hc : Closed A P) (kRegisters : A .registers) (kEvents : A .events)
    (kHost : A .host) (kSent : A .sent) {s : State} (hs : P s) :
    P s.dropDrains := by
  unfold State.dropDrains
  repeat first
    | with_reducible assumption | with_reducible apply State.putF_closed hc
    | with_reducible apply State.settleFence_closed hc | with_reducible apply State.settleTally_closed hc
    | with_reducible apply State.showDrains_closed hc | dsimp only | exact Or.inl ‹_› | exact Or.inr rfl
    | with_reducible apply hc.other

theorem State.enableCmd_closed (hc : Closed A P) (kRegisters : A .registers) (kHost : A .host) {s : State}
    (hs : P s) :
    P s.enableCmd := by
  unfold State.enableCmd
  repeat first
    | with_reducible assumption | with_reducible apply State.putF_closed hc
    | with_reducible apply State.rewindCommands_closed hc | with_reducible apply State.showHost_closed hc
    | with_reducible apply closed_ite | dsimp only | split

theorem State.disableCmd_closed (hc : Closed A P) (kRegisters : A .registers) (kHost : A .host) {s : State}
    (hs : P s) :
    P s.disableCmd := by
  unfold State.disableCmd
  repeat first
    | with_reducible assumption | with_reducible apply State.putF_closed hc
    | with_reducible apply State.rewindCommands_closed hc | with_reducible apply State.settleHif_closed hc
    | with_reducible apply State.showHost_closed hc | dsimp only

theorem State.enableDrn_closed (hc : Closed A P) (kRegisters : A .registers) (kEvents : A .events) (kHost : A .host)
    (kSent : A .sent) {s : State} (hs : P s) :
    P s.enableDrn := by
  unfold State.enableDrn
  repeat first
    | with_reducible assumption | with_reducible apply State.dropDrains_closed hc
    | with_reducible apply State.putF_closed hc | with_reducible apply State.showHost_closed hc
    | with_reducible apply closed_ite | dsimp only | split

theorem State.disableDrn_closed (hc : Closed A P) (kRegisters : A .registers) (kEvents : A .events)
    (kHost : A .host) (kSent : A .sent) {s : State} (hs : P s) :
    P s.disableDrn := by
  unfold State.disableDrn
  repeat first
    | with_reducible assumption | with_reducible apply State.dropDrains_closed hc
    | with_reducible apply State.putF_closed hc | with_reducible apply State.settleHif_closed hc
    | with_reducible apply State.showHost_closed hc

theorem State.enableCpl_closed (hc : Closed A P) (kRegisters : A .registers) {s : State} (hs : P s) :
    P s.enableCpl := by
  unfold State.enableCpl
  repeat first
    | with_reducible assumption | with_reducible apply State.putF_closed hc
    | with_reducible apply State.showHost_closed hc | with_reducible apply closed_ite | split

theorem State.disableCpl_closed (hc : Closed A P) (kRegisters : A .registers) (kHost : A .host) {s : State}
    (hs : P s) :
    P s.disableCpl := by
  unfold State.disableCpl
  repeat first
    | with_reducible assumption | with_reducible apply State.putF_closed hc
    | with_reducible apply State.settleHif_closed hc | with_reducible apply State.showHost_closed hc | dsimp only
    | exact Or.inl ‹_› | exact Or.inr rfl | with_reducible apply hc.other

theorem State.postTally_closed (hc : Closed A P) (kRegisters : A .registers) (kEvents : A .events) (kSent : A .sent)
    {s : State} (drain : Bool) (v : Nat) (hs : P s) :
    P (s.postTally drain v) := by
  unfold State.postTally
  repeat first
    | with_reducible assumption | with_reducible apply State.haltRing_closed hc
    | with_reducible apply State.putF_closed hc | with_reducible apply closed_ite | dsimp only | split

theorem State.fetchCommand_closed (hc : Closed A P) (kRegisters : A .registers) (kEvents : A .events)
    (kHost : A .host) (kSent : A .sent) {s : State} (bytes : List Byte) (hs : P s) :
    P (s.fetchCommand bytes) := by
  unfold State.fetchCommand
  repeat first
    | with_reducible assumption | with_reducible apply State.haltRing_closed hc
    | with_reducible apply State.putF_closed hc | with_reducible apply State.settleTally_closed hc
    | with_reducible apply closed_ite | dsimp only | split | exact Or.inl ‹_› | exact Or.inr rfl
    | with_reducible apply hc.other

theorem State.endCommand_closed (hc : Closed A P) (kRegisters : A .registers) (kEvents : A .events)
    (kHost : A .host) (kSent : A .sent) {s : State} (c : HostCmd) (status info : Nat) (result : List Byte)
    (hs : P s) :
    P (s.endCommand c status info result) := by
  unfold State.endCommand
  repeat first
    | with_reducible assumption | with_reducible apply State.produceCpl_closed hc
    | with_reducible apply State.putF_closed hc | with_reducible apply State.settleTally_closed hc | dsimp only
    | exact Or.inl ‹_› | exact Or.inr rfl | with_reducible apply hc.other

theorem State.runCommand_closed (hc : Closed A P) (kRegisters : A .registers) (kEvents : A .events)
    (kHost : A .host) (kSent : A .sent) {s : State} (op : Nat) (f : HostCmd → State) (hf : ∀ a, P (f a)) (hs : P s)
    :
    P (s.runCommand op f) := by
  unfold State.runCommand
  repeat first
    | with_reducible assumption | with_reducible apply State.endCommand_closed hc | with_reducible apply hf
    | with_reducible intro _ | with_reducible apply closed_ite | split | exact Or.inl ‹_› | exact Or.inr rfl
    | with_reducible apply hc.other

theorem State.drainDone_closed (hc : Closed A P) (kRegisters : A .registers) (kHost : A .host) {s : State}
    (tally : Nat) (hs : P s) :
    P (s.drainDone tally) := by
  unfold State.drainDone
  repeat first
    | with_reducible assumption | with_reducible apply State.putF_closed hc | with_reducible apply closed_ite
    | dsimp only | split | exact Or.inl ‹_› | exact Or.inr rfl | with_reducible apply hc.other

theorem State.endDrain_closed (hc : Closed A P) (kRegisters : A .registers) (kEvents : A .events) (kHost : A .host)
    (kSent : A .sent) {s : State} (d : DrainDesc) (status : Nat) (hs : P s) :
    P (s.endDrain d status) := by
  unfold State.endDrain
  repeat first
    | with_reducible assumption | with_reducible apply State.drainDone_closed hc
    | with_reducible apply State.produceCpl_closed hc | with_reducible apply State.setReader_closed hc
    | with_reducible apply State.settleFence_closed hc | with_reducible apply State.settleTally_closed hc
    | with_reducible apply State.showDrains_closed hc | with_reducible apply closed_ite | dsimp only | split
    | exact Or.inl ‹_› | exact Or.inr rfl | with_reducible apply hc.other

theorem State.fetchDrain_closed (hc : Closed A P) (kRegisters : A .registers) (kEvents : A .events)
    (kHost : A .host) (kChannels : A .channels) (kSent : A .sent) {s : State} (bytes : List Byte) (hs : P s) :
    P (s.fetchDrain bytes) := by
  unfold State.fetchDrain
  repeat first
    | with_reducible assumption | with_reducible apply State.endDrain_closed hc
    | with_reducible apply State.haltRing_closed hc | with_reducible apply State.leaveSelfRefresh_closed hc
    | with_reducible apply State.putF_closed hc | with_reducible apply State.showDrains_closed hc
    | with_reducible apply closed_ite | dsimp only | split | exact Or.inl ‹_› | exact Or.inr rfl
    | with_reducible apply hc.other

theorem State.drainBlock_closed (hc : Closed A P) (kRegisters : A .registers) (kEvents : A .events)
    (kHost : A .host) (kChannels : A .channels) (kSent : A .sent) {s : State} (u : Nat) (hs : P s) :
    P (s.drainBlock u) := by
  unfold State.drainBlock
  repeat first
    | with_reducible assumption | with_reducible apply State.emit_closed hc
    | with_reducible apply State.endDrain_closed hc | with_reducible apply State.leaveSelfRefresh_closed hc
    | with_reducible apply State.setReader_closed hc | with_reducible apply State.stagePiece_closed hc
    | (with_reducible apply closed_foldl; rotate_left; intro _ _ _) | with_reducible apply closed_ite | dsimp only
    | split | exact Or.inl ‹_› | exact Or.inr rfl | with_reducible apply hc.other

theorem State.badBar0_closed (hc : Closed A P) (kRegisters : A .registers) (kEvents : A .events) (kSent : A .sent)
    {s : State} (hs : P s) :
    P s.badBar0 := by
  unfold State.badBar0
  repeat first
    | with_reducible assumption | with_reducible apply State.bump_closed hc
    | with_reducible apply State.raise_closed hc

theorem State.badBar2_closed (hc : Closed A P) (kRegisters : A .registers) (kEvents : A .events) (kSent : A .sent)
    {s : State} (hs : P s) :
    P s.badBar2 := by
  unfold State.badBar2
  repeat first
    | with_reducible assumption | with_reducible apply State.bump_closed hc
    | with_reducible apply State.raise_closed hc

theorem State.wakeView_closed (hc : Closed A P) (kRegisters : A .registers) (kChannels : A .channels)
    (kSent : A .sent) {s : State} (v len : Nat) (hs : P s) :
    P (s.wakeView v len) := by
  unfold State.wakeView
  repeat first
    | with_reducible assumption | with_reducible apply State.leaveSelfRefresh_closed hc
    | (with_reducible apply closed_foldl; rotate_left; intro _ _ _) | dsimp only | split | exact Or.inl ‹_›
    | exact Or.inr rfl | with_reducible apply hc.other

theorem State.bar2Read_closed (hc : Closed A P) (kRegisters : A .registers) (kEvents : A .events)
    (kChannels : A .channels) (kSent : A .sent) {s : State} (a len : Nat) (hs : P s) :
    P (s.bar2Read a len) := by
  unfold State.bar2Read
  repeat first
    | with_reducible assumption | with_reducible apply State.badBar2_closed hc
    | with_reducible apply State.emit_closed hc | with_reducible apply State.wakeView_closed hc
    | with_reducible apply closed_ite | dsimp only | split

theorem State.bar2Write_closed (hc : Closed A P) (kRegisters : A .registers) (kStores : A .stores)
    (kEvents : A .events) (kChannels : A .channels) (kSent : A .sent) {s : State} (a : Nat) (bytes : List Byte)
    (poisoned : Bool) (hs : P s) :
    P (s.bar2Write a bytes poisoned) := by
  unfold State.bar2Write
  repeat first
    | with_reducible assumption | with_reducible apply hc.setStore | with_reducible apply State.badBar2_closed hc
    | with_reducible apply State.enterWrite_closed hc | with_reducible apply State.wakeView_closed hc
    | (with_reducible apply closed_foldl; rotate_left; intro _ _ _) | with_reducible apply closed_ite | dsimp only
    | split | exact Or.inl ‹_› | exact Or.inr rfl | with_reducible apply hc.other

theorem State.clearMsix_closed (hc : Closed A P) (kRegisters : A .registers) (kEvents : A .events) {s : State}
    (hs : P s) :
    P s.clearMsix := by
  unfold State.clearMsix
  repeat first
    | with_reducible assumption | with_reducible apply hc.clearRegs | dsimp only | exact Or.inl ‹_›
    | exact Or.inr rfl | with_reducible apply hc.other

theorem State.dropRings_closed (hc : Closed A P) (kRegisters : A .registers) (kEvents : A .events) (kHost : A .host)
    (kSent : A .sent) {s : State} (hs : P s) :
    P s.dropRings := by
  unfold State.dropRings
  repeat first
    | with_reducible assumption | with_reducible apply hc.clearRegs | with_reducible apply State.clearMsix_closed hc
    | with_reducible apply State.dropDrains_closed hc | with_reducible apply State.putF_closed hc
    | with_reducible apply State.rewindCommands_closed hc | with_reducible apply State.showHost_closed hc
    | dsimp only | exact Or.inl ‹_› | exact Or.inr rfl | with_reducible apply hc.other

theorem State.resetConfig_closed (hc : Closed A P) (kHost : A .host) {s : State} (hs : P s) : P s.resetConfig := by
  unfold State.resetConfig
  repeat first
    | with_reducible assumption | exact Or.inl ‹_› | exact Or.inr rfl | with_reducible apply hc.other

theorem State.dropHost_closed (hc : Closed A P) (kRegisters : A .registers) (kEvents : A .events) (kHost : A .host)
    (kSent : A .sent) {s : State} (hs : P s) :
    P s.dropHost := by
  unfold State.dropHost
  repeat first
    | with_reducible assumption | with_reducible apply State.dropEventRing_closed hc
    | with_reducible apply State.dropRings_closed hc | with_reducible apply State.resetConfig_closed hc

/-! ### Sys2Proof/Machine/HostCmds.lean -/

theorem State.requestHif_closed (hc : Closed A P) (kRegisters : A .registers) {s : State} (major : Nat) (hs : P s) :
    P (s.requestHif major) := by
  unfold State.requestHif
  repeat first
    | with_reducible assumption | with_reducible apply State.putF_closed hc
    | with_reducible apply State.settleHif_closed hc

theorem State.showLink_closed (hc : Closed A P) (kRegisters : A .registers) {s : State} (hs : P s) :
    P s.showLink := by
  unfold State.showLink
  repeat first
    | with_reducible assumption | with_reducible apply State.putF_closed hc
    | with_reducible apply State.showHost_closed hc

theorem State.reportLink_closed (hc : Closed A P) (kRegisters : A .registers) (kEvents : A .events)
    (kHost : A .host) (kSent : A .sent) {s : State} (hs : P s) :
    P s.reportLink := by
  unfold State.reportLink
  repeat first
    | with_reducible assumption | with_reducible apply State.raise_closed hc | with_reducible apply closed_ite
    | split | exact Or.inl ‹_› | exact Or.inr rfl | with_reducible apply hc.other

/-! ### Sys2Proof/Machine/Pods.lean -/

theorem State.showPod_closed (hc : Closed A P) (kRegisters : A .registers) {s : State} (u f st : Nat) (hs : P s) :
    P (s.showPod u f st) := by
  unfold State.showPod
  repeat first
    | with_reducible assumption | with_reducible apply State.putF_closed hc | dsimp only

theorem State.podFrame_closed (hc : Closed A P) (kSent : A .sent) {s : State} (u f kind word tally : Nat) (hs : P s)
    :
    P (s.podFrame u f kind word tally) := by
  unfold State.podFrame
  repeat first
    | with_reducible assumption | with_reducible apply State.emit_closed hc

theorem State.podSendNow_closed (hc : Closed A P) (kRegisters : A .registers) (kPods : A .pods) (kSent : A .sent)
    {s : State} (u f kind word : Nat) (hs : P s) :
    P (s.podSendNow u f kind word) := by
  unfold State.podSendNow
  repeat first
    | with_reducible assumption | with_reducible apply hc.setPod | with_reducible apply State.podFrame_closed hc
    | with_reducible apply State.putF_closed hc | with_reducible apply closed_ite | dsimp only | split
    | exact Or.inl ‹_› | exact Or.inr rfl | with_reducible apply hc.other

theorem State.podSend_closed (hc : Closed A P) (kRegisters : A .registers) (kPods : A .pods) (kSent : A .sent)
    {s : State} (u f kind word : Nat) (hs : P s) :
    P (s.podSend u f kind word) := by
  unfold State.podSend
  repeat first
    | with_reducible assumption | with_reducible apply hc.setPod | with_reducible apply State.podSendNow_closed hc
    | with_reducible apply closed_ite | dsimp only | split | exact Or.inl ‹_› | exact Or.inr rfl
    | with_reducible apply hc.other

theorem State.podNext_closed (hc : Closed A P) (kRegisters : A .registers) (kPods : A .pods) (kSent : A .sent)
    {s : State} (u f : Nat) (hs : P s) :
    P (s.podNext u f) := by
  unfold State.podNext
  repeat first
    | with_reducible assumption | with_reducible apply hc.setPod | with_reducible apply State.podSendNow_closed hc
    | dsimp only | split | exact Or.inl ‹_› | exact Or.inr rfl | with_reducible apply hc.other

theorem State.podResult_closed (hc : Closed A P) (kRegisters : A .registers) {s : State} (u f result : Nat)
    (hs : P s) :
    P (s.podResult u f result) := by
  unfold State.podResult
  repeat first
    | with_reducible assumption | with_reducible apply State.putF_closed hc

theorem State.dropPodCommands_closed (hc : Closed A P) (kRegisters : A .registers) (kPods : A .pods) {s : State}
    (u f : Nat) (hs : P s) :
    P (s.dropPodCommands u f) := by
  unfold State.dropPodCommands
  repeat first
    | with_reducible assumption | with_reducible apply hc.setPod | with_reducible apply State.podResult_closed hc
    | with_reducible apply closed_ite | dsimp only | split | exact Or.inl ‹_› | exact Or.inr rfl
    | with_reducible apply hc.other

theorem State.podDown_closed (hc : Closed A P) (kRegisters : A .registers) (kPods : A .pods) {s : State}
    (u f st : Nat) (hs : P s) :
    P (s.podDown u f st) := by
  unfold State.podDown
  repeat first
    | with_reducible assumption | with_reducible apply hc.setPod
    | with_reducible apply State.dropPodCommands_closed hc | with_reducible apply State.putF_closed hc
    | with_reducible apply State.showPod_closed hc | with_reducible apply closed_ite | dsimp only | split
    | exact Or.inl ‹_› | exact Or.inr rfl | with_reducible apply hc.other

theorem State.linkLoss_closed (hc : Closed A P) (kRegisters : A .registers) (kPods : A .pods) (kFrames : A .frames)
    (kStreams : A .streams) (kStores : A .stores) (kEvents : A .events) (kSent : A .sent) {s : State} (u f : Nat)
    (hs : P s) :
    P (s.linkLoss u f) := by
  unfold State.linkLoss
  repeat first
    | with_reducible assumption | with_reducible apply State.catchUp_closed hc
    | with_reducible apply State.podDown_closed hc | with_reducible apply State.raise_closed hc
    | with_reducible apply closed_ite | dsimp only | split

theorem State.startLinkUp_closed (hc : Closed A P) (kRegisters : A .registers) (kPods : A .pods) {s : State}
    (u f : Nat) (hs : P s) :
    P (s.startLinkUp u f) := by
  unfold State.startLinkUp
  repeat first
    | with_reducible assumption | with_reducible apply hc.setPod | with_reducible apply State.podDown_closed hc
    | with_reducible apply State.putF_closed hc | dsimp only | exact Or.inl ‹_› | exact Or.inr rfl
    | with_reducible apply hc.other

theorem State.linkUpFails_closed (hc : Closed A P) (kRegisters : A .registers) (kPods : A .pods)
    (kEvents : A .events) (kSent : A .sent) {s : State} (u f : Nat) (mismatch : Bool) (hs : P s) :
    P (s.linkUpFails u f mismatch) := by
  unfold State.linkUpFails
  repeat first
    | with_reducible assumption | with_reducible apply State.podDown_closed hc
    | with_reducible apply State.raise_closed hc | with_reducible apply closed_ite | dsimp only | split

theorem State.sendOffer_closed (hc : Closed A P) (kRegisters : A .registers) (kPods : A .pods) (kEvents : A .events)
    (kSent : A .sent) {s : State} (u f : Nat) (hs : P s) :
    P (s.sendOffer u f) := by
  unfold State.sendOffer
  repeat first
    | with_reducible assumption | with_reducible apply hc.setPod | with_reducible apply State.linkUpFails_closed hc
    | with_reducible apply State.podSendNow_closed hc | with_reducible apply closed_ite | dsimp only | split
    | exact Or.inl ‹_› | exact Or.inr rfl | with_reducible apply hc.other

theorem State.sendStart_closed (hc : Closed A P) (kRegisters : A .registers) (kPods : A .pods) (kSent : A .sent)
    {s : State} (u f version : Nat) (hs : P s) :
    P (s.sendStart u f version) := by
  unfold State.sendStart
  repeat first
    | with_reducible assumption | with_reducible apply State.podSend_closed hc

theorem State.sendMode_closed (hc : Closed A P) (kRegisters : A .registers) (kPods : A .pods) (kSent : A .sent)
    {s : State} (u f : Nat) (hs : P s) :
    P (s.sendMode u f) := by
  unfold State.sendMode
  repeat first
    | with_reducible assumption | with_reducible apply State.podSend_closed hc | with_reducible apply closed_ite
    | split

theorem State.laneTrain_closed (hc : Closed A P) (kRegisters : A .registers) (kPods : A .pods) (kSent : A .sent)
    {s : State} (u f : Nat) (hs : P s) :
    P (s.laneTrain u f) := by
  unfold State.laneTrain
  repeat first
    | with_reducible assumption | with_reducible apply hc.setPod | with_reducible apply State.podSend_closed hc
    | with_reducible apply closed_ite | dsimp only | split | exact Or.inl ‹_› | exact Or.inr rfl
    | with_reducible apply hc.other

theorem State.applyPod_closed (hc : Closed A P) (kRegisters : A .registers) (kPods : A .pods) (kFrames : A .frames)
    (kStreams : A .streams) (kStores : A .stores) (kEvents : A .events) (kSent : A .sent) {s : State} (u f : Nat)
    (hs : P s) :
    P (s.applyPod u f) := by
  unfold State.applyPod
  repeat first
    | with_reducible assumption | with_reducible apply hc.setPod | with_reducible apply State.copyToActive_closed hc
    | with_reducible apply State.laneTrain_closed hc | with_reducible apply State.linkLoss_closed hc
    | with_reducible apply State.retrain_closed hc | with_reducible apply State.sendMode_closed hc
    | with_reducible apply State.startLinkUp_closed hc | with_reducible apply closed_ite | dsimp only | split
    | exact Or.inl ‹_› | exact Or.inr rfl | with_reducible apply hc.other

theorem State.loseLane_closed (hc : Closed A P) (kRegisters : A .registers) (kPods : A .pods) (kFrames : A .frames)
    (kStreams : A .streams) (kStores : A .stores) (kEvents : A .events) (kSent : A .sent) {s : State} (u f : Nat)
    (l : Lane) (hs : P s) :
    P (s.loseLane u f l) := by
  unfold State.loseLane
  repeat first
    | with_reducible assumption | with_reducible apply hc.setPod | with_reducible apply State.catchUp_closed hc
    | with_reducible apply State.laneTrain_closed hc | with_reducible apply State.linkLoss_closed hc
    | with_reducible apply State.raise_closed hc | with_reducible apply State.showPod_closed hc
    | with_reducible apply closed_ite | dsimp only | split

theorem State.showSkew_closed (hc : Closed A P) (kRegisters : A .registers) {s : State} (u f : Nat) (hs : P s) :
    P (s.showSkew u f) := by
  unfold State.showSkew
  repeat first
    | with_reducible assumption | with_reducible apply State.putF_closed hc | split | exact Or.inl ‹_›
    | exact Or.inr rfl | with_reducible apply hc.other

theorem State.deliverLane_closed (hc : Closed A P) (kRegisters : A .registers) (kPods : A .pods) {s : State}
    (u f : Nat) (l : Lane) (hs : P s) :
    P (s.deliverLane u f l) := by
  unfold State.deliverLane
  repeat first
    | with_reducible assumption | with_reducible apply hc.setPod | with_reducible apply State.putF_closed hc
    | dsimp only | split | exact Or.inl ‹_› | exact Or.inr rfl | with_reducible apply hc.other

theorem State.swapLanes_closed (hc : Closed A P) (kRegisters : A .registers) (kPods : A .pods) {s : State}
    (u f : Nat) (hs : P s) :
    P (s.swapLanes u f) := by
  unfold State.swapLanes
  repeat first
    | with_reducible assumption | with_reducible apply hc.setPod | with_reducible apply State.putF_closed hc
    | with_reducible apply closed_ite | dsimp only | split | exact Or.inl ‹_› | exact Or.inr rfl
    | with_reducible apply hc.other

theorem State.showMode_closed (hc : Closed A P) (kRegisters : A .registers) (kPods : A .pods) {s : State}
    (u f : Nat) (hs : P s) :
    P (s.showMode u f) := by
  unfold State.showMode
  repeat first
    | with_reducible assumption | with_reducible apply hc.setPod | with_reducible apply State.putF_closed hc
    | with_reducible apply closed_ite | dsimp only | split | exact Or.inl ‹_› | exact Or.inr rfl
    | with_reducible apply hc.other

theorem State.tryUp_closed (hc : Closed A P) (kRegisters : A .registers) (kPods : A .pods) (kEvents : A .events)
    (kSent : A .sent) {s : State} (u f : Nat) (hs : P s) :
    P (s.tryUp u f) := by
  unfold State.tryUp
  repeat first
    | with_reducible assumption | with_reducible apply hc.setPod | with_reducible apply State.deliverLane_closed hc
    | with_reducible apply State.putF_closed hc | with_reducible apply State.raise_closed hc
    | with_reducible apply State.sendMode_closed hc | with_reducible apply State.showPod_closed hc
    | with_reducible apply State.swapLanes_closed hc | with_reducible apply closed_ite | dsimp only | split
    | exact Or.inl ‹_› | exact Or.inr rfl | with_reducible apply hc.other

theorem State.header_closed (hc : Closed A P) (kPods : A .pods) {s : State} (u f : Nat) (l : Lane) (bad : Bool)
    (hs : P s) :
    P (s.header u f l bad) := by
  unfold State.header
  repeat first
    | with_reducible assumption | with_reducible apply hc.setPod | dsimp only | exact Or.inl ‹_› | exact Or.inr rfl
    | with_reducible apply hc.other

theorem State.loseLock_closed (hc : Closed A P) (kRegisters : A .registers) (kPods : A .pods) (kFrames : A .frames)
    (kStreams : A .streams) (kStores : A .stores) (kEvents : A .events) (kSent : A .sent) {s : State} (u f : Nat)
    (wire : Lane) (hs : P s) :
    P (s.loseLock u f wire) := by
  unfold State.loseLock
  repeat first
    | with_reducible assumption | with_reducible apply State.bump_closed hc
    | with_reducible apply State.loseLane_closed hc

theorem State.judgeBitmap_closed (hc : Closed A P) (kRegisters : A .registers) {s : State} (u f : Nat) (l : Lane)
    (base payload : Nat) (hs : P s) :
    P (s.judgeBitmap u f l base payload) := by
  unfold State.judgeBitmap
  repeat first
    | with_reducible assumption | with_reducible apply State.bump_closed hc | with_reducible apply closed_ite
    | dsimp only | split | exact Or.inl ‹_› | exact Or.inr rfl | with_reducible apply hc.other

/-! ### Sys2Proof/Machine/PodCmds.lean -/

theorem State.afterPod_closed (hc : Closed A P) (kRegisters : A .registers) (kPods : A .pods) (kFrames : A .frames)
    (kScouts : A .scouts) (kSequencers : A .sequencers) (kTake : A .take) (kStreams : A .streams)
    (kStores : A .stores) (kEvents : A .events) (kTriggers : A .triggers) (kRing : A .ring) (kSent : A .sent)
    {s : State} (u f : Nat) (hs : P s) :
    P (s.afterPod u f) := by
  unfold State.afterPod
  repeat first
    | with_reducible assumption | with_reducible apply State.catchUp_closed hc
    | with_reducible apply State.settleSeqs_closed hc

theorem State.onPod_closed (hc : Closed A P) (kRegisters : A .registers) (kPods : A .pods) (kFrames : A .frames)
    (kScouts : A .scouts) (kSequencers : A .sequencers) (kTake : A .take) (kStreams : A .streams)
    (kStores : A .stores) (kEvents : A .events) (kTriggers : A .triggers) (kRing : A .ring) (kSent : A .sent)
    {s : State} {t : State} (u f : Nat) (hs : P s) (hs1 : P t) :
    nextHas P (s.onPod u f t) := by
  unfold State.onPod
  repeat first
    | with_reducible assumption | with_reducible apply nextHas_next | with_reducible apply State.afterPod_closed hc
    | with_reducible apply State.on_closed hc | dsimp only | split

theorem State.laneLocked_closed (hc : Closed A P) (kRegisters : A .registers) (kPods : A .pods)
    (kEvents : A .events) (kSent : A .sent) {s : State} (u f : Nat) (hs : P s) :
    P (s.laneLocked u f) := by
  unfold State.laneLocked
  repeat first
    | with_reducible assumption | with_reducible apply State.sendOffer_closed hc
    | with_reducible apply State.showPod_closed hc | with_reducible apply closed_ite | dsimp only | split
    | exact Or.inl ‹_› | exact Or.inr rfl | with_reducible apply hc.other

theorem State.accepted_closed (hc : Closed A P) (kRegisters : A .registers) (kPods : A .pods) (kEvents : A .events)
    (kSent : A .sent) {s : State} (u f word : Nat) (data : Nat) (hs : P s) :
    P (s.accepted u f word data) := by
  unfold State.accepted
  repeat first
    | with_reducible assumption | with_reducible apply State.linkUpFails_closed hc
    | with_reducible apply State.podNext_closed hc | with_reducible apply State.putF_closed hc
    | with_reducible apply State.sendStart_closed hc | with_reducible apply closed_ite | dsimp only | split

theorem State.started_closed (hc : Closed A P) (kRegisters : A .registers) (kPods : A .pods) (kSent : A .sent)
    {s : State} (u f word : Nat) (hs : P s) :
    P (s.started u f word) := by
  unfold State.started
  repeat first
    | with_reducible assumption | with_reducible apply hc.setPod | with_reducible apply State.podNext_closed hc
    | with_reducible apply State.putF_closed hc | with_reducible apply State.showPod_closed hc | dsimp only
    | exact Or.inl ‹_› | exact Or.inr rfl | with_reducible apply hc.other

theorem State.resend_closed (hc : Closed A P) (kRegisters : A .registers) (kPods : A .pods) (kFrames : A .frames)
    (kStreams : A .streams) (kStores : A .stores) (kEvents : A .events) (kSent : A .sent) {s : State} (u f : Nat)
    (hs : P s) :
    P (s.resend u f) := by
  unfold State.resend
  repeat first
    | with_reducible assumption | with_reducible apply hc.setPod | with_reducible apply State.linkLoss_closed hc
    | with_reducible apply State.linkUpFails_closed hc | with_reducible apply State.podFrame_closed hc
    | with_reducible apply State.podNext_closed hc | with_reducible apply State.podResult_closed hc
    | with_reducible apply closed_ite | dsimp only | split | exact Or.inl ‹_› | exact Or.inr rfl
    | with_reducible apply hc.other

theorem State.podReply_closed (hc : Closed A P) (kRegisters : A .registers) (kPods : A .pods) (kFrames : A .frames)
    (kStreams : A .streams) (kStores : A .stores) (kEvents : A .events) (kSent : A .sent) {s : State}
    (u f code data : Nat) (c : PodCmd) (hs : P s) :
    P (s.podReply u f code data c) := by
  unfold State.podReply
  repeat first
    | with_reducible assumption | with_reducible apply hc.setPod | with_reducible apply State.accepted_closed hc
    | with_reducible apply State.podNext_closed hc | with_reducible apply State.podResult_closed hc
    | with_reducible apply State.putF_closed hc | with_reducible apply State.resend_closed hc
    | with_reducible apply State.started_closed hc | dsimp only | split | exact Or.inl ‹_› | exact Or.inr rfl
    | with_reducible apply hc.other

theorem State.podCommandSend_closed (hc : Closed A P) (kRegisters : A .registers) (kPods : A .pods)
    (kSent : A .sent) {s : State} (u f : Nat) (hs : P s) :
    P (s.podCommandSend u f) := by
  unfold State.podCommandSend
  repeat first
    | with_reducible assumption | with_reducible apply State.podSend_closed hc
    | with_reducible apply State.putF_closed hc | with_reducible apply closed_ite | dsimp only | split

theorem State.typeError_closed (hc : Closed A P) (kRegisters : A .registers) (kPods : A .pods) {s : State}
    (u f : Nat) (lane : Lane) (hs : P s) :
    P (s.typeError u f lane) := by
  unfold State.typeError
  repeat first
    | with_reducible assumption | with_reducible apply State.bump_closed hc
    | with_reducible apply State.header_closed hc

theorem State.disagree_closed (hc : Closed A P) (kRegisters : A .registers) (kPods : A .pods) (kFrames : A .frames)
    (kStreams : A .streams) (kStores : A .stores) (kEvents : A .events) (kSent : A .sent) {s : State} (u f : Nat)
    (lane : Lane) (slot pos : Nat) (hs : P s) :
    P (s.disagree u f lane slot pos) := by
  unfold State.disagree
  repeat first
    | with_reducible assumption | with_reducible apply hc.setPod | with_reducible apply State.bump_closed hc
    | with_reducible apply State.loseLane_closed hc | with_reducible apply closed_ite | dsimp only | split
    | exact Or.inl ‹_› | exact Or.inr rfl | with_reducible apply hc.other

theorem State.countLoss_closed (hc : Closed A P) (kRegisters : A .registers) {s : State} (u f : Nat) (lane : Lane)
    (x : LaneFault) (hs : P s) :
    P (s.countLoss u f lane x) := by
  unfold State.countLoss
  repeat first
    | with_reducible assumption | with_reducible apply State.bump_closed hc | split

/-! ### Sys2Proof/Machine/Ring.lean -/

theorem State.setRingState_closed (hc : Closed A P) (kRegisters : A .registers) {s : State} (n : Nat) (hs : P s) :
    P (s.setRingState n) := by
  unfold State.setRingState
  repeat first
    | with_reducible assumption | with_reducible apply State.putF_closed hc

theorem State.setRingIn_closed (hc : Closed A P) (kRing : A .ring) {s : State} (r : Nat) (x : RingIn) (hs : P s) :
    P (s.setRingIn r x) := by
  unfold State.setRingIn
  repeat first
    | with_reducible assumption | with_reducible apply closed_ite | split | exact Or.inl ‹_› | exact Or.inr rfl
    | with_reducible apply hc.other

theorem State.launchOn_closed (hc : Closed A P) (kRing : A .ring) (kSent : A .sent) {s : State} (l : Nat)
    (m : RingMsg) (hs : P s) :
    P (s.launchOn l m) := by
  unfold State.launchOn
  repeat first
    | with_reducible assumption | with_reducible apply State.emit_closed hc | with_reducible apply closed_ite
    | dsimp only | split | exact Or.inl ‹_› | exact Or.inr rfl | with_reducible apply hc.other

theorem State.launchCtrl_closed (hc : Closed A P) (kRing : A .ring) (kSent : A .sent) {s : State} (hs : P s) :
    P s.launchCtrl := by
  unfold State.launchCtrl
  repeat first
    | with_reducible assumption | with_reducible apply State.launchOn_closed hc
    | (with_reducible apply closed_foldl; rotate_left; intro _ _ _) | with_reducible apply closed_ite | dsimp only
    | split | exact Or.inl ‹_› | exact Or.inr rfl | with_reducible apply hc.other

theorem State.sendCtrl_closed (hc : Closed A P) (kRing : A .ring) (kSent : A .sent) {s : State}
    (type dest arg : Nat) (hs : P s) :
    P (s.sendCtrl type dest arg) := by
  unfold State.sendCtrl
  repeat first
    | with_reducible assumption | with_reducible apply State.launchCtrl_closed hc | dsimp only | exact Or.inl ‹_›
    | exact Or.inr rfl | with_reducible apply hc.other

theorem State.sendHello_closed (hc : Closed A P) (kSent : A .sent) {s : State} (r sub data : Nat) (hs : P s) :
    P (s.sendHello r sub data) := by
  unfold State.sendHello
  repeat first
    | with_reducible assumption | with_reducible apply State.emit_closed hc

theorem State.startForming_closed (hc : Closed A P) (kRegisters : A .registers) (kRing : A .ring) {s : State}
    (hs : P s) :
    P s.startForming := by
  unfold State.startForming
  repeat first
    | with_reducible assumption | with_reducible apply State.putF_closed hc
    | with_reducible apply State.setRingState_closed hc | with_reducible apply closed_ite | dsimp only | split
    | exact Or.inl ‹_› | exact Or.inr rfl | with_reducible apply hc.other

theorem State.settleRing_closed (hc : Closed A P) (kRegisters : A .registers) (kRing : A .ring) {s : State}
    (hs : P s) :
    P s.settleRing := by
  unfold State.settleRing
  repeat first
    | with_reducible assumption | with_reducible apply State.putF_closed hc
    | with_reducible apply State.setRingState_closed hc | with_reducible apply State.startForming_closed hc
    | with_reducible apply closed_ite | dsimp only | split | exact Or.inl ‹_› | exact Or.inr rfl
    | with_reducible apply hc.other

theorem State.settleClaim_closed (hc : Closed A P) (kRing : A .ring) {s : State} (hs : P s) : P s.settleClaim := by
  unfold State.settleClaim
  repeat first
    | with_reducible assumption | (with_reducible apply closed_foldl; rotate_left; intro _ _ _)
    | with_reducible apply closed_ite | dsimp only | split | exact Or.inl ‹_› | exact Or.inr rfl
    | with_reducible apply hc.other

theorem State.settleHop_closed (hc : Closed A P) (kRegisters : A .registers) (kRing : A .ring) {s : State}
    (r versions : Nat) (hs : P s) :
    P (s.settleHop r versions) := by
  unfold State.settleHop
  repeat first
    | with_reducible assumption | with_reducible apply State.putF_closed hc
    | with_reducible apply State.setRingIn_closed hc | with_reducible apply closed_ite | dsimp only | split
    | exact Or.inl ‹_› | exact Or.inr rfl | with_reducible apply hc.other

theorem State.sendPaths_closed (hc : Closed A P) (kRing : A .ring) (kSent : A .sent) {s : State} (joined : Bool)
    (hs : P s) :
    P (s.sendPaths joined) := by
  unfold State.sendPaths
  repeat first
    | with_reducible assumption | with_reducible apply State.drawFree_closed hc
    | with_reducible apply State.sendCtrl_closed hc | (with_reducible apply closed_foldl; rotate_left; intro _ _ _)
    | with_reducible apply closed_ite | dsimp only | split

theorem State.applySetup_closed (hc : Closed A P) (kRegisters : A .registers) (kEvents : A .events)
    (kRing : A .ring) (kSent : A .sent) {s : State} (arg : Nat) (hs : P s) :
    P (s.applySetup arg) := by
  unfold State.applySetup
  repeat first
    | with_reducible assumption | with_reducible apply State.launchCtrl_closed hc
    | with_reducible apply State.putF_closed hc | with_reducible apply State.raise_closed hc
    | with_reducible apply State.setRingState_closed hc | with_reducible apply closed_ite | dsimp only | split
    | exact Or.inl ‹_› | exact Or.inr rfl | with_reducible apply hc.other

theorem State.sendEpoch_closed (hc : Closed A P) (kRegisters : A .registers) (kRing : A .ring) (kSent : A .sent)
    {s : State} (hs : P s) :
    P s.sendEpoch := by
  unfold State.sendEpoch
  repeat first
    | with_reducible assumption | with_reducible apply State.putF_closed hc
    | with_reducible apply State.sendCtrl_closed hc | with_reducible apply closed_ite | dsimp only | split

theorem State.sendSetup_closed (hc : Closed A P) (kRegisters : A .registers) (kEvents : A .events) (kRing : A .ring)
    (kSent : A .sent) {s : State} (h : Nat) (joined : Bool) (hs : P s) :
    P (s.sendSetup h joined) := by
  unfold State.sendSetup
  repeat first
    | with_reducible assumption | with_reducible apply State.applySetup_closed hc
    | with_reducible apply State.emit_closed hc | with_reducible apply State.sendCtrl_closed hc
    | with_reducible apply State.sendPaths_closed hc | (with_reducible apply closed_foldl; rotate_left; intro _ _ _)
    | with_reducible apply closed_ite | dsimp only | split

theorem State.becomeLeader_closed (hc : Closed A P) (kRegisters : A .registers) (kTime : A .time) (kSent : A .sent)
    {s : State} (hs : P s) :
    P s.becomeLeader := by
  unfold State.becomeLeader
  repeat first
    | with_reducible assumption | with_reducible apply State.advanceTo_closed hc
    | with_reducible apply State.putF_closed hc | with_reducible apply State.sendHello_closed hc
    | with_reducible apply State.setRingState_closed hc | with_reducible apply closed_ite | dsimp only | split
    | exact Or.inl ‹_› | exact Or.inr rfl | with_reducible apply hc.other

theorem State.receiveForm_closed (hc : Closed A P) (kRegisters : A .registers) (kEvents : A .events)
    (kRing : A .ring) (kSent : A .sent) {s : State} (position loopNs : Nat) (hs : P s) :
    P (s.receiveForm position loopNs) := by
  unfold State.receiveForm
  repeat first
    | with_reducible assumption | with_reducible apply State.putF_closed hc
    | with_reducible apply State.sendEpoch_closed hc | with_reducible apply State.sendHello_closed hc
    | with_reducible apply State.sendSetup_closed hc | with_reducible apply State.setRingState_closed hc
    | with_reducible apply closed_ite | dsimp only | split | exact Or.inl ‹_› | exact Or.inr rfl
    | with_reducible apply hc.other

theorem State.sendProbe_closed (hc : Closed A P) (kRing : A .ring) (kSent : A .sent) {s : State} (r : Nat)
    (hs : P s) :
    P (s.sendProbe r) := by
  unfold State.sendProbe
  repeat first
    | with_reducible assumption | with_reducible apply State.sendHello_closed hc
    | with_reducible apply State.setRingIn_closed hc | dsimp only | exact Or.inl ‹_› | exact Or.inr rfl
    | with_reducible apply hc.other

theorem State.takeReport_closed (hc : Closed A P) (kRegisters : A .registers) (kEvents : A .events)
    (kRing : A .ring) (kSent : A .sent) {s : State} (source a b : Nat) (hs : P s) :
    P (s.takeReport source a b) := by
  unfold State.takeReport
  repeat first
    | with_reducible assumption | with_reducible apply State.sendSetup_closed hc | with_reducible apply closed_ite
    | dsimp only | split | exact Or.inl ‹_› | exact Or.inr rfl | with_reducible apply hc.other

theorem State.measured_closed (hc : Closed A P) (kRegisters : A .registers) (kEvents : A .events) (kRing : A .ring)
    (kSent : A .sent) {s : State} (r hold : Nat) (hs : P s) :
    P (s.measured r hold) := by
  unfold State.measured
  repeat first
    | with_reducible assumption | with_reducible apply State.putF_closed hc
    | with_reducible apply State.sendCtrl_closed hc | with_reducible apply State.setRingIn_closed hc
    | with_reducible apply State.takeReport_closed hc | with_reducible apply closed_ite | dsimp only | split
    | exact Or.inl ‹_› | exact Or.inr rfl | with_reducible apply hc.other

theorem State.badContainer_closed (hc : Closed A P) (kRegisters : A .registers) (kEvents : A .events)
    (kSent : A .sent) {s : State} (r : Nat) (hs : P s) :
    P (s.badContainer r) := by
  unfold State.badContainer
  repeat first
    | with_reducible assumption | with_reducible apply State.bump_closed hc
    | with_reducible apply State.emit_closed hc | with_reducible apply State.raise_closed hc
    | with_reducible apply closed_ite | split

theorem State.receiveHello_closed (hc : Closed A P) (kRegisters : A .registers) (kEvents : A .events)
    (kRing : A .ring) (kSent : A .sent) {s : State} (r sub data : Nat) (hs : P s) :
    P (s.receiveHello r sub data) := by
  unfold State.receiveHello
  repeat first
    | with_reducible assumption | with_reducible apply State.drawFree_closed hc | with_reducible apply State.badContainer_closed hc
    | with_reducible apply State.measured_closed hc | with_reducible apply State.sendHello_closed hc
    | with_reducible apply State.setRingIn_closed hc | with_reducible apply State.settleClaim_closed hc
    | with_reducible apply State.settleHop_closed hc | with_reducible apply closed_ite | dsimp only | split
    | exact Or.inl ‹_› | exact Or.inr rfl | with_reducible apply hc.other

theorem State.firstCopy_closed (hc : Closed A P) (kRing : A .ring) {s t : State} (source kind tally : Nat) (hs : P s)
    (h : s.firstCopy source kind tally = some t) : P t := by
  unfold State.firstCopy at h
  split at h
  · cases h
  · cases h
    with_reducible apply hc.other
    repeat first | exact hs | exact Or.inr rfl | exact Or.inl kRing

theorem State.receive_closed (hc : Closed A P) (kRegisters : A .registers) (kEvents : A .events) (kRing : A .ring)
    (kSent : A .sent) {s : State} (c : Copy) (source kind tally : Nat) (body : List Nat) (f : State → State)
    (hf : ∀ t, P t → P (f t)) (hs : P s) :
    P (s.receive c source kind tally body f) := by
  unfold State.receive
  split
  · exact hs
  · split
    · with_reducible apply State.badContainer_closed hc
      all_goals assumption
    · with_reducible apply State.emit_closed hc
      all_goals assumption
    · dsimp only
      split
      · with_reducible apply State.emit_closed hc
        all_goals assumption
      · refine hf _ (State.firstCopy_closed hc kRing _ _ _ ?_ ‹_›)
        with_reducible apply State.emit_closed hc
        all_goals assumption

theorem State.takeTime_closed (hc : Closed A P) (kRegisters : A .registers) (kEvents : A .events) (kRing : A .ring)
    (kSent : A .sent) {s : State} (r time : Nat) (hs : P s) :
    P (s.takeTime r time) := by
  unfold State.takeTime
  repeat first
    | with_reducible assumption | with_reducible apply State.putF_closed hc
    | with_reducible apply State.raise_closed hc | with_reducible apply closed_ite | dsimp only | split
    | exact Or.inl ‹_› | exact Or.inr rfl | with_reducible apply hc.other

theorem State.loadEpoch_closed (hc : Closed A P) (kRegisters : A .registers) (kTime : A .time) (kPods : A .pods)
    (kFrames : A .frames) (kRing : A .ring) {s : State} (hs : P s) :
    P s.loadEpoch := by
  unfold State.loadEpoch
  repeat first
    | with_reducible assumption | with_reducible apply hc.loadTime | with_reducible apply State.advanceTo_closed hc
    | with_reducible apply State.putF_closed hc | with_reducible apply State.regrid_closed hc
    | with_reducible apply closed_ite | dsimp only | split | exact Or.inl ‹_› | exact Or.inr rfl
    | with_reducible apply hc.other

theorem State.refreshOrigin_closed (hc : Closed A P) (kRegisters : A .registers) (kRing : A .ring) {s : State}
    (a : AfAct) (hs : P s) :
    P (s.refreshOrigin a).2 := by
  unfold State.refreshOrigin
  dsimp only
  split
  · with_reducible apply State.bump_closed hc
    · assumption
    · with_reducible apply hc.other
      repeat first | exact hs | exact Or.inr rfl | exact Or.inl ‹_›
  · exact hs

theorem State.takeFlag_closed (hc : Closed A P) (kRegisters : A .registers) (kRing : A .ring) {s : State} (hs : P s)
    :
    P s.takeFlag := by
  unfold State.takeFlag
  split
  · with_reducible apply hc.other
    repeat first | exact Or.inr rfl | exact Or.inl ‹_›
    with_reducible apply State.refreshOrigin_closed hc
    all_goals assumption
  · exact hs

theorem State.launchFlag_closed (hc : Closed A P) (kRegisters : A .registers) (kRing : A .ring) (kSent : A .sent)
    {s : State} (r : Nat) (hs : P s) :
    P (s.launchFlag r) := by
  unfold State.launchFlag
  repeat first
    | with_reducible assumption | with_reducible apply State.launchCtrl_closed hc
    | with_reducible apply State.launchOn_closed hc | with_reducible apply State.takeFlag_closed hc
    | with_reducible apply closed_ite | dsimp only | split | exact Or.inl ‹_› | exact Or.inr rfl
    | with_reducible apply hc.other

theorem State.noteFlag_closed (hc : Closed A P) (kRegisters : A .registers) (kEvents : A .events) (kRing : A .ring)
    (kSent : A .sent) {s : State} (body : List Nat) (hs : P s) :
    P (s.noteFlag body) := by
  unfold State.noteFlag
  repeat first
    | with_reducible assumption | with_reducible apply State.bump_closed hc
    | with_reducible apply State.raise_closed hc | with_reducible apply closed_ite | dsimp only | split
    | exact Or.inl ‹_› | exact Or.inr rfl | with_reducible apply hc.other

theorem State.deliverFlags_closed (hc : Closed A P) (kRegisters : A .registers) (kTime : A .time) (kPods : A .pods)
    (kFrames : A .frames) (kScouts : A .scouts) (kSequencers : A .sequencers) (kTake : A .take)
    (kStreams : A .streams) (kStores : A .stores) (kEvents : A .events) (kTriggers : A .triggers) (kRing : A .ring)
    (kSent : A .sent) {s : State} (hs : P s) :
    P s.deliverFlags := by
  unfold State.deliverFlags
  repeat first
    | with_reducible assumption | with_reducible apply State.advanceTo_closed hc
    | with_reducible apply State.putF_closed hc | with_reducible apply State.settleSeqs_closed hc
    | (with_reducible apply closed_foldl; rotate_left; intro _ _ _) | with_reducible apply closed_ite | dsimp only
    | split | exact Or.inl ‹_› | exact Or.inr rfl | with_reducible apply hc.other

theorem State.clearFlags_closed (hc : Closed A P) (kRegisters : A .registers) (kEvents : A .events)
    (kRing : A .ring) (kSent : A .sent) {s : State} (hs : P s) :
    P s.clearFlags := by
  unfold State.clearFlags
  repeat first
    | with_reducible assumption | with_reducible apply State.queueFlag_closed hc
    | (with_reducible apply closed_foldl; rotate_left; intro _ _ _) | dsimp only

theorem State.hopDown_closed (hc : Closed A P) (kRegisters : A .registers) (kEvents : A .events) (kRing : A .ring)
    (kSent : A .sent) {s : State} (r cause : Nat) (hs : P s) :
    P (s.hopDown r cause) := by
  unfold State.hopDown
  repeat first
    | with_reducible assumption | with_reducible apply State.emit_closed hc
    | with_reducible apply State.putF_closed hc | with_reducible apply State.raise_closed hc
    | with_reducible apply State.sendSetup_closed hc | with_reducible apply State.startForming_closed hc
    | (with_reducible apply closed_foldl; rotate_left; intro _ _ _) | with_reducible apply closed_ite | dsimp only
    | split | exact Or.inl ‹_› | exact Or.inr rfl | with_reducible apply hc.other

theorem State.containerBack_closed (hc : Closed A P) (kRegisters : A .registers) (kEvents : A .events)
    (kRing : A .ring) (kSent : A .sent) {s : State} (l r : Nat) (hs : P s) :
    P (s.containerBack l r) := by
  unfold State.containerBack
  repeat first
    | with_reducible assumption | with_reducible apply State.emit_closed hc
    | with_reducible apply State.launchCtrl_closed hc | with_reducible apply State.putF_closed hc
    | with_reducible apply State.sendSetup_closed hc | with_reducible apply closed_ite | dsimp only | split
    | exact Or.inl ‹_› | exact Or.inr rfl | with_reducible apply hc.other

theorem State.unwrap_closed (hc : Closed A P) (kRegisters : A .registers) (kEvents : A .events) (kRing : A .ring)
    (kSent : A .sent) {s : State} (r : Nat) (hs : P s) :
    P (s.unwrap r) := by
  unfold State.unwrap
  repeat first
    | with_reducible assumption | with_reducible apply State.putF_closed hc
    | with_reducible apply State.raise_closed hc | with_reducible apply State.sendSetup_closed hc
    | with_reducible apply State.setRingState_closed hc | with_reducible apply closed_ite | dsimp only | split

/-! ### Sys2Proof/Machine/Reeve.lean -/

theorem State.grantTake_closed (hc : Closed A P) (kRegisters : A .registers) (kReeve : A .reeve) {s : State}
    (hs : P s) :
    P s.grantTake := by
  unfold State.grantTake
  repeat first
    | with_reducible assumption | with_reducible apply State.putF_closed hc
    | (with_reducible apply closed_foldl; rotate_left; intro _ _ _) | with_reducible apply closed_ite | dsimp only
    | split | exact Or.inl ‹_› | exact Or.inr rfl | with_reducible apply hc.other

theorem State.knob_closed (hc : Closed A P) (kTake : A .take) {s : State} (super code value : Nat) (hs : P s) :
    P (s.knob super code value) := by
  unfold State.knob
  repeat first
    | with_reducible assumption | with_reducible apply State.systemMark_closed hc | with_reducible apply closed_ite
    | split

theorem State.showCap_closed (hc : Closed A P) (kRegisters : A .registers) (kEvents : A .events) (kSent : A .sent)
    {s : State} (u cap : Nat) (hs : P s) :
    P (s.showCap u cap) := by
  unfold State.showCap
  repeat first
    | with_reducible assumption | with_reducible apply State.putF_closed hc
    | with_reducible apply State.raise_closed hc | with_reducible apply closed_ite | dsimp only | split

theorem State.showKnobs_closed (hc : Closed A P) (kRegisters : A .registers) (kEvents : A .events) (kSent : A .sent)
    {s : State} (u : Nat) (hs : P s) :
    P (s.showKnobs u) := by
  unfold State.showKnobs
  repeat first
    | with_reducible assumption | with_reducible apply State.on_closed hc | with_reducible apply State.putF_closed hc
    | with_reducible apply State.showCap_closed hc | with_reducible apply State.showMarch_closed hc
    | (with_reducible apply closed_foldl; rotate_left; intro _ _ _) | with_reducible apply closed_ite | dsimp only
    | split

theorem State.showAllKnobs_closed (hc : Closed A P) (kRegisters : A .registers) (kEvents : A .events)
    (kSent : A .sent) {s : State} (hs : P s) :
    P s.showAllKnobs := by
  unfold State.showAllKnobs
  repeat first
    | with_reducible assumption | with_reducible apply State.showKnobs_closed hc
    | (with_reducible apply closed_foldl; rotate_left; intro _ _ _) | dsimp only

theorem State.settleAlerts_closed (hc : Closed A P) (kReeve : A .reeve) {s : State} (hot : Bool) (hs : P s) :
    P (s.settleAlerts hot) := by
  unfold State.settleAlerts
  repeat first
    | with_reducible assumption | exact Or.inl ‹_› | exact Or.inr rfl | with_reducible apply hc.other

theorem State.knobStep_closed (hc : Closed A P) (kTake : A .take) {s : State} (step : Nat) (targets : List Nat)
    (applied : Bool) (hs : P s) :
    P (s.knobStep step targets applied) := by
  unfold State.knobStep
  repeat first
    | with_reducible assumption | with_reducible apply State.knob_closed hc
    | (with_reducible apply closed_foldl; rotate_left; intro _ _ _) | with_reducible apply closed_ite | dsimp only
    | split | exact Or.inl ‹_› | exact Or.inr rfl | with_reducible apply hc.other

theorem State.takeStep_closed (hc : Closed A P) (kRegisters : A .registers) (kTake : A .take) (kEvents : A .events)
    (kReeve : A .reeve) (kSent : A .sent) {s : State} (step : Nat) (hs : P s) :
    P (s.takeStep step) := by
  unfold State.takeStep
  repeat first
    | with_reducible assumption | with_reducible apply State.knobStep_closed hc
    | with_reducible apply State.putF_closed hc | with_reducible apply State.raise_closed hc
    | with_reducible apply State.showAllKnobs_closed hc | with_reducible apply closed_ite | dsimp only | split
    | exact Or.inl ‹_› | exact Or.inr rfl | with_reducible apply hc.other

theorem State.liftStep_closed (hc : Closed A P) (kRegisters : A .registers) (kTake : A .take) (kEvents : A .events)
    (kReeve : A .reeve) (kSent : A .sent) {s : State} (hs : P s) :
    P s.liftStep := by
  unfold State.liftStep
  repeat first
    | with_reducible assumption | with_reducible apply State.knobStep_closed hc
    | with_reducible apply State.putF_closed hc | with_reducible apply State.raise_closed hc
    | with_reducible apply State.showAllKnobs_closed hc | dsimp only | exact Or.inl ‹_› | exact Or.inr rfl
    | with_reducible apply hc.other

theorem State.learn_closed (hc : Closed A P) (kRegisters : A .registers) {s : State} (slots : Nat) (hs : P s) :
    P (s.learn slots) := by
  unfold State.learn
  repeat first
    | with_reducible assumption | with_reducible apply State.putF_closed hc | with_reducible apply closed_ite | split

theorem State.enterStopped_closed (hc : Closed A P) (kRegisters : A .registers) (kPlls : A .plls)
    (kEvents : A .events) (kRing : A .ring) (kSent : A .sent) {s : State} (reason : Nat) (hs : P s) :
    P (s.enterStopped reason) := by
  unfold State.enterStopped
  repeat first
    | with_reducible assumption | with_reducible apply State.applyHeldPlls_closed hc
    | with_reducible apply State.clearFlags_closed hc | with_reducible apply State.putF_closed hc
    | with_reducible apply State.raise_closed hc | with_reducible apply State.setTakeState_closed hc | dsimp only

theorem State.stopTake_closed (hc : Closed A P) (kRegisters : A .registers) (kPlls : A .plls) (kTake : A .take)
    (kEvents : A .events) (kRing : A .ring) (kSent : A .sent) {s : State} (reason : Nat) (hs : P s) :
    P (s.stopTake reason) := by
  unfold State.stopTake
  repeat first
    | with_reducible assumption | with_reducible apply State.enterStopped_closed hc
    | with_reducible apply State.setLast_closed hc | with_reducible apply closed_ite | dsimp only | split
    | exact Or.inl ‹_› | exact Or.inr rfl | with_reducible apply hc.other

theorem State.faultStop_closed (hc : Closed A P) (kRegisters : A .registers) (kPlls : A .plls) (kTake : A .take)
    (kEvents : A .events) (kRing : A .ring) (kSent : A .sent) {s : State} (cause : Nat) (hs : P s) :
    P (s.faultStop cause) := by
  unfold State.faultStop
  repeat first
    | with_reducible assumption | with_reducible apply State.bump_closed hc
    | with_reducible apply State.putF_closed hc | with_reducible apply State.stopTake_closed hc

theorem State.railsOffSoon_closed (hc : Closed A P) (kBoot : A .boot) {s : State} (hs : P s) : P s.railsOffSoon := by
  unfold State.railsOffSoon
  repeat first
    | with_reducible assumption | exact Or.inl ‹_› | exact Or.inr rfl | with_reducible apply hc.other

theorem State.noteMeasured_closed (hc : Closed A P) (kRegisters : A .registers) (kReeve : A .reeve) {s : State}
    (m : Measured) (hs : P s) :
    P (s.noteMeasured m) := by
  unfold State.noteMeasured
  repeat first
    | with_reducible assumption | with_reducible apply State.putF_closed hc
    | (with_reducible apply closed_foldl; rotate_left; intro _ _ _) | with_reducible apply closed_ite | dsimp only
    | split | exact Or.inl ‹_› | exact Or.inr rfl | with_reducible apply hc.other

theorem State.settleWear_closed (hc : Closed A P) (kRegisters : A .registers) (kEvents : A .events)
    (kSent : A .sent) {s : State} (hs : P s) :
    P s.settleWear := by
  unfold State.settleWear
  repeat first
    | with_reducible assumption | with_reducible apply State.putF_closed hc
    | with_reducible apply State.raise_closed hc | with_reducible apply closed_ite | dsimp only | split

theorem State.loadWear_closed (hc : Closed A P) (kRegisters : A .registers) (kReeve : A .reeve) {s : State}
    (seconds : Nat) (hs : P s) :
    P (s.loadWear seconds) := by
  unfold State.loadWear
  repeat first
    | with_reducible assumption | with_reducible apply State.putF_closed hc | dsimp only | exact Or.inl ‹_›
    | exact Or.inr rfl | with_reducible apply hc.other

theorem State.settleHeat_closed (hc : Closed A P) (kRegisters : A .registers) (kPlls : A .plls) (kTake : A .take)
    (kEvents : A .events) (kRing : A .ring) (kReeve : A .reeve) (kBoot : A .boot) (kSent : A .sent) {s : State}
    (tj : Int) (hs : P s) :
    P (s.settleHeat tj) := by
  unfold State.settleHeat
  repeat first
    | with_reducible assumption | exact nextHas_fault _ | with_reducible apply State.faultStop_closed hc
    | with_reducible apply State.knob_closed hc | with_reducible apply State.putF_closed hc
    | with_reducible apply State.railsOffSoon_closed hc | with_reducible apply State.raise_closed hc
    | with_reducible apply State.settleWear_closed hc | with_reducible apply closed_ite | dsimp only | split
    | exact Or.inl ‹_› | exact Or.inr rfl | with_reducible apply hc.other

theorem State.settleAccount_closed (hc : Closed A P) (kRegisters : A .registers) (kEvents : A .events)
    (kReeve : A .reeve) (kSent : A .sent) {s : State} (m : Measured) (hs : P s) :
    P (s.settleAccount m).2 := by
  unfold State.settleAccount
  repeat first
    | with_reducible assumption | with_reducible apply State.putF_closed hc
    | with_reducible apply State.raise_closed hc | with_reducible apply closed_ite | dsimp only | split
    | exact Or.inl ‹_› | exact Or.inr rfl | with_reducible apply hc.other

theorem State.showReeve_closed (hc : Closed A P) (kRegisters : A .registers) {s : State} (hs : P s) :
    P s.showReeve := by
  unfold State.showReeve
  repeat first
    | with_reducible assumption | with_reducible apply State.putF_closed hc | dsimp only

theorem State.shed_closed (hc : Closed A P) (kRegisters : A .registers) (kPlls : A .plls) (kTake : A .take)
    (kEvents : A .events) (kRing : A .ring) (kReeve : A .reeve) (kSent : A .sent) {s : State} (pressed : Bool)
    (hs : P s) :
    P (s.shed pressed) := by
  unfold State.shed
  repeat first
    | with_reducible assumption | with_reducible apply State.knob_closed hc
    | with_reducible apply State.liftStep_closed hc | with_reducible apply State.raise_closed hc
    | with_reducible apply State.stopTake_closed hc | with_reducible apply State.takeStep_closed hc
    | with_reducible apply closed_ite | dsimp only | split | exact Or.inl ‹_› | exact Or.inr rfl
    | with_reducible apply hc.other

theorem State.endPeriod_closed (hc : Closed A P) (kRegisters : A .registers) (kPlls : A .plls) (kTake : A .take)
    (kEvents : A .events) (kRing : A .ring) (kReeve : A .reeve) (kBoot : A .boot) (kSent : A .sent) {s : State}
    (m : Measured) (hs : P s) :
    P (s.endPeriod m) := by
  unfold State.endPeriod
  repeat first
    | with_reducible assumption | with_reducible apply State.noteMeasured_closed hc
    | with_reducible apply State.settleAccount_closed hc | with_reducible apply State.settleAlerts_closed hc
    | with_reducible apply State.settleHeat_closed hc | with_reducible apply State.shed_closed hc
    | with_reducible apply State.showReeve_closed hc | dsimp only | exact Or.inl ‹_› | exact Or.inr rfl
    | with_reducible apply hc.other

/-! ### Sys2Proof/Machine/Apply.lean -/

theorem State.applyFrame_closed (hc : Closed A P) (kRegisters : A .registers) (kFrames : A .frames)
    (kEvents : A .events) (kSent : A .sent) {s : State} (u f : Nat) (hs : P s) :
    P (s.applyFrame u f) := by
  unfold State.applyFrame
  repeat first
    | with_reducible assumption | with_reducible apply State.copyToActive_closed hc
    | with_reducible apply State.putF_closed hc | with_reducible apply State.raise_closed hc
    | with_reducible apply State.restartFrame_closed hc | with_reducible apply State.restartRuns_closed hc
    | with_reducible apply State.showCells_closed hc | with_reducible apply closed_ite | dsimp only | split

theorem State.applyScout_closed (hc : Closed A P) (kRegisters : A .registers) (kScouts : A .scouts) {s : State}
    (u k : Nat) (hs : P s) :
    P (s.applyScout u k) := by
  unfold State.applyScout
  repeat first
    | with_reducible assumption | with_reducible apply hc.setScout
    | with_reducible apply State.copyToActive_closed hc | with_reducible apply State.putF_closed hc
    | with_reducible apply State.showSettling_closed hc | with_reducible apply closed_ite | dsimp only | split
    | exact Or.inl ‹_› | exact Or.inr rfl | with_reducible apply hc.other

theorem State.applyPress_closed (hc : Closed A P) (kRegisters : A .registers) {s : State} (u : Nat) (hs : P s) :
    P (s.applyPress u) := by
  unfold State.applyPress
  repeat first
    | with_reducible assumption | with_reducible apply State.copyToActive_closed hc
    | with_reducible apply State.putF_closed hc | (with_reducible apply closed_foldl; rotate_left; intro _ _ _)
    | with_reducible apply closed_ite | dsimp only | split

theorem State.applyHiveSeq_closed (hc : Closed A P) (kRegisters : A .registers) (kSent : A .sent) {s : State}
    (hs : P s) :
    P s.applyHiveSeq := by
  unfold State.applyHiveSeq
  repeat first
    | with_reducible assumption | with_reducible apply State.copyToActive_closed hc
    | with_reducible apply State.emit_closed hc | (with_reducible apply closed_foldl; rotate_left; intro _ _ _)
    | with_reducible apply closed_ite | dsimp only | split

theorem State.applyCore_closed (hc : Closed A P) (kRegisters : A .registers) (kPods : A .pods) (kFrames : A .frames)
    (kScouts : A .scouts) (kStreams : A .streams) (kStores : A .stores) (kEvents : A .events) (kRing : A .ring)
    (kQueues : A .queues) (kDram : A .dram) (kChannels : A .channels) (kBoard : A .board) (kSent : A .sent)
    {s : State} (p : Page) (hs : P s) :
    P (s.applyCore p) := by
  unfold State.applyCore
  repeat first
    | with_reducible assumption | with_reducible apply State.applyDram_closed hc
    | with_reducible apply State.applyFrame_closed hc | with_reducible apply State.applyHiveSeq_closed hc
    | with_reducible apply State.applyPod_closed hc | with_reducible apply State.applyPress_closed hc
    | with_reducible apply State.applyQueue_closed hc | with_reducible apply State.applyScout_closed hc
    | with_reducible apply State.copyToActive_closed hc | with_reducible apply State.settleRing_closed hc | split
    | exact Or.inl ‹_› | exact Or.inr rfl | with_reducible apply hc.other

theorem State.applyPage_closed (hc : Closed A P) (kRegisters : A .registers) (kPods : A .pods) (kFrames : A .frames)
    (kScouts : A .scouts) (kStreams : A .streams) (kStores : A .stores) (kEvents : A .events) (kRing : A .ring)
    (kQueues : A .queues) (kDram : A .dram) (kChannels : A .channels) (kBoard : A .board) (kSent : A .sent)
    {s : State} (p : Page) (hs : P s) :
    P (s.applyPage p) := by
  unfold State.applyPage
  repeat first
    | with_reducible assumption | with_reducible apply State.applyCore_closed hc
    | with_reducible apply State.countApply_closed hc | with_reducible apply State.putF_closed hc
    | with_reducible apply State.settleDirty_closed hc | dsimp only

theorem State.partialApply_closed (hc : Closed A P) (kRegisters : A .registers) {s : State} (p : Page) (hs : P s) :
    P (s.partialApply p) := by
  unfold State.partialApply
  repeat first
    | with_reducible assumption | with_reducible apply State.copyToActive_closed hc
    | with_reducible apply State.countApply_closed hc | with_reducible apply State.putF_closed hc
    | with_reducible apply State.settleDirty_closed hc | dsimp only

theorem State.applyAtArm_closed (hc : Closed A P) (kRegisters : A .registers) (kPods : A .pods)
    (kFrames : A .frames) (kScouts : A .scouts) (kStreams : A .streams) (kStores : A .stores) (kEvents : A .events)
    (kRing : A .ring) (kQueues : A .queues) (kDram : A .dram) (kChannels : A .channels) (kBoard : A .board)
    (kSent : A .sent) {s : State} (hs : P s) :
    P s.applyAtArm := by
  unfold State.applyAtArm
  repeat first
    | with_reducible assumption | with_reducible apply State.applyPage_closed hc
    | (with_reducible apply closed_foldl; rotate_left; intro _ _ _) | dsimp only

theorem State.discard_closed (hc : Closed A P) (kRegisters : A .registers) {s : State} (p : Page) (hs : P s) :
    P (s.discard p) := by
  unfold State.discard
  repeat first
    | with_reducible assumption | with_reducible apply State.copyToShadow_closed hc
    | with_reducible apply State.putF_closed hc | with_reducible apply State.settleDirty_closed hc | dsimp only

theorem State.requestApply_closed (hc : Closed A P) (kRegisters : A .registers) {s : State} (p : Page) (hs : P s) :
    P (s.requestApply p) := by
  unfold State.requestApply
  repeat first
    | with_reducible assumption | with_reducible apply State.putF_closed hc | with_reducible apply closed_ite
    | dsimp only | split

/-! ### Sys2Proof/Machine/SeqCmds.lean -/

theorem State.toMark_closed (hc : Closed A P) (kTime : A .time) {s : State} (hs : P s) : P s.toMark := by
  unfold State.toMark
  repeat first
    | with_reducible assumption | with_reducible apply State.advanceTo_closed hc
    | (with_reducible apply closed_foldl; rotate_left; intro _ _ _) | dsimp only | split | exact Or.inl ‹_›
    | exact Or.inr rfl | with_reducible apply hc.other

theorem State.forceTrigger_closed (hc : Closed A P) (kTake : A .take) {s : State} (hs : P s) : P s.forceTrigger := by
  unfold State.forceTrigger
  repeat first
    | with_reducible assumption | with_reducible apply closed_ite | split | exact Or.inl ‹_› | exact Or.inr rfl
    | with_reducible apply hc.other

theorem State.closeRun_closed (hc : Closed A P) (kTake : A .take) (kSidebands : A .sidebands) {s : State} (u : Nat)
    (outbound : Bool) (tick : Nat) (hs : P s) :
    P (s.closeRun u outbound tick) := by
  unfold State.closeRun
  repeat first
    | with_reducible assumption | with_reducible apply hc.setSide | with_reducible apply hc.tick
    | with_reducible apply State.systemMark_closed hc | split | exact Or.inl ‹_› | exact Or.inr rfl
    | with_reducible apply hc.other

theorem State.closeRuns_closed (hc : Closed A P) (kTake : A .take) (kSidebands : A .sidebands) {s : State}
    (tick : Nat) (hs : P s) :
    P (s.closeRuns tick) := by
  unfold State.closeRuns
  repeat first
    | with_reducible assumption | with_reducible apply hc.tick | with_reducible apply State.closeRun_closed hc
    | (with_reducible apply closed_foldl; rotate_left; intro _ _ _) | dsimp only

/-! ### Sys2Proof/Machine/TimeCmds.lean -/

theorem State.requestLoad_closed (hc : Closed A P) (kRegisters : A .registers) (kTime : A .time) {s : State}
    (hs : P s) :
    P s.requestLoad := by
  unfold State.requestLoad
  repeat first
    | with_reducible assumption | with_reducible apply State.putF_closed hc | with_reducible apply closed_ite | split
    | exact Or.inl ‹_› | exact Or.inr rfl | with_reducible apply hc.other

theorem State.onPll_closed (hc : Closed A P) (kRegisters : A .registers) {s : State} {t : State} (p : Page)
    (hs : P s) (hs1 : P t) :
    nextHas P (s.onPll p t) := by
  unfold State.onPll
  repeat first
    | with_reducible assumption | with_reducible apply nextHas_next | with_reducible apply State.on_closed hc
    | with_reducible apply closed_ite | dsimp only | split

theorem State.stopClocked_closed (hc : Closed A P) (kRegisters : A .registers) (kIntake : A .intake)
    (kPods : A .pods) (kFrames : A .frames) (kScouts : A .scouts) (kStreams : A .streams) (kStores : A .stores)
    (kEvents : A .events) (kSent : A .sent) {s : State} (p : Page) (hs : P s) :
    P (s.stopClocked p) := by
  unfold State.stopClocked
  repeat first
    | with_reducible assumption | with_reducible apply State.stopIntake_closed hc
    | (with_reducible apply closed_foldl; rotate_left; intro _ _ _) | dsimp only

theorem State.relockSame_closed (hc : Closed A P) (kRegisters : A .registers) (kIntake : A .intake)
    (kPlls : A .plls) (kPods : A .pods) (kFrames : A .frames) (kScouts : A .scouts) (kStreams : A .streams)
    (kStores : A .stores) (kEvents : A .events) (kChannels : A .channels) (kSent : A .sent) {s : State} (p : Page)
    (hs : P s) :
    P (s.relockSame p) := by
  unfold State.relockSame
  repeat first
    | with_reducible assumption | with_reducible apply State.abandonUnder_closed hc
    | with_reducible apply State.startRelock_closed hc | with_reducible apply State.stopClocked_closed hc
    | dsimp only

theorem State.afterLock_closed (hc : Closed A P) (kRegisters : A .registers) (kTime : A .time) (kIntake : A .intake)
    (kPlls : A .plls) (kPods : A .pods) (kFrames : A .frames) (kScouts : A .scouts) (kStreams : A .streams)
    (kStores : A .stores) (kEvents : A .events) (kDram : A .dram) (kChannels : A .channels) (kBoard : A .board)
    (kSent : A .sent) {s : State} (p : Page) (relocked : Bool) (cycles : Nat) (coasted : Bool) (hs : P s) :
    P (s.afterLock p relocked cycles coasted) := by
  unfold State.afterLock
  repeat first
    | with_reducible assumption | with_reducible apply hc.setPll | with_reducible apply hc.tick
    | with_reducible apply State.relockSame_closed hc | with_reducible apply State.restartTraining_closed hc
    | (with_reducible apply closed_foldl; rotate_left; intro _ _ _) | with_reducible apply closed_ite | dsimp only
    | split | exact Or.inl ‹_› | exact Or.inr rfl | with_reducible apply hc.other

theorem State.commitAtLock_closed (hc : Closed A P) (kRegisters : A .registers) (kPlls : A .plls) {s : State}
    (p : Page) (hs : P s) :
    P (s.commitAtLock p) := by
  unfold State.commitAtLock
  repeat first
    | with_reducible assumption | with_reducible apply State.applyPll_closed hc
    | with_reducible apply State.clearCommit_closed hc | with_reducible apply State.putF_closed hc
    | with_reducible apply closed_ite | split

theorem State.loseReference_closed (hc : Closed A P) (kRegisters : A .registers) (kIntake : A .intake)
    (kPods : A .pods) (kFrames : A .frames) (kScouts : A .scouts) (kStreams : A .streams) (kStores : A .stores)
    (kEvents : A .events) (kSent : A .sent) {s : State} (p : Page) (hs : P s) :
    P (s.loseReference p) := by
  unfold State.loseReference
  repeat first
    | with_reducible assumption | with_reducible apply State.putF_closed hc
    | with_reducible apply State.raisePll_closed hc | with_reducible apply State.setPllState_closed hc
    | with_reducible apply State.stopClocked_closed hc

theorem State.resumePll_closed (hc : Closed A P) (kRegisters : A .registers) (kIntake : A .intake) (kPlls : A .plls)
    (kPods : A .pods) (kFrames : A .frames) (kScouts : A .scouts) (kStreams : A .streams) (kStores : A .stores)
    (kEvents : A .events) (kChannels : A .channels) (kSent : A .sent) {s : State} (p : Page) (small : Bool)
    (hs : P s) :
    P (s.resumePll p small) := by
  unfold State.resumePll
  repeat first
    | with_reducible assumption | with_reducible apply State.endCoast_closed hc
    | with_reducible apply State.relockSame_closed hc | with_reducible apply State.setPllState_closed hc
    | with_reducible apply closed_ite | split

/-! ### Sys2Proof/Machine/Resets.lean -/

theorem State.keepWords_closed (hc : Closed A P) (kRegisters : A .registers) {t : State} {s : State} (p : Page)
    (offs : List Nat) (hs : P t) (hs1 : P s) :
    P (t.keepWords s p offs) := by
  unfold State.keepWords
  repeat first
    | with_reducible assumption | with_reducible apply hc.setWord
    | (with_reducible apply closed_foldl; rotate_left; intro _ _ _) | dsimp only

theorem State.dropTrigOut_closed (hc : Closed A P) (kTriggers : A .triggers) (kSent : A .sent) {s : State}
    (invert : Nat → Bool) (hs : P s) :
    P (s.dropTrigOut invert) := by
  unfold State.dropTrigOut
  repeat first
    | with_reducible assumption | with_reducible apply State.emit_closed hc
    | (with_reducible apply closed_foldl; rotate_left; intro _ _ _) | with_reducible apply closed_ite | dsimp only
    | split | exact Or.inl ‹_› | exact Or.inr rfl | with_reducible apply hc.other

theorem State.dropTake_closed (hc : Closed A P) (kIntake : A .intake) (kTake : A .take) (kStreams : A .streams)
    (kStores : A .stores) {s : State} (hs : P s) :
    P s.dropTake := by
  unfold State.dropTake
  repeat first
    | with_reducible assumption | with_reducible apply hc.setStore | with_reducible apply hc.setStream
    | (with_reducible apply closed_foldl; rotate_left; intro _ _ _) | dsimp only | exact Or.inl ‹_›
    | exact Or.inr rfl | with_reducible apply hc.other

theorem State.resetHive_closed (hc : Closed A P) (kRegisters : A .registers) (kIntake : A .intake) (kTake : A .take)
    (kStreams : A .streams) (kStores : A .stores) {s : State} (hs : P s) :
    P s.resetHive := by
  unfold State.resetHive
  repeat first
    | with_reducible assumption | with_reducible apply State.clearPage_closed hc
    | with_reducible apply State.dropTake_closed hc | with_reducible apply State.keepWords_closed hc | dsimp only

theorem State.resetHost_closed (hc : Closed A P) (kRegisters : A .registers) (kEvents : A .events) (kHost : A .host)
    (kSent : A .sent) {s : State} (hs : P s) :
    P s.resetHost := by
  unfold State.resetHost
  repeat first
    | with_reducible assumption | with_reducible apply State.clearPage_closed hc
    | with_reducible apply State.dropRings_closed hc | with_reducible apply State.keepWords_closed hc
    | with_reducible apply State.showHost_closed hc | dsimp only

theorem State.resetEvents_closed (hc : Closed A P) (kRegisters : A .registers) (kEvents : A .events)
    (kQueues : A .queues) (kSent : A .sent) {s : State} (hs : P s) :
    P s.resetEvents := by
  unfold State.resetEvents
  repeat first
    | with_reducible assumption | with_reducible apply hc.clearRegs | with_reducible apply State.clearPage_closed hc
    | with_reducible apply State.emptyEvents_closed hc | dsimp only | exact Or.inl ‹_› | exact Or.inr rfl
    | with_reducible apply hc.other

theorem State.resetPll_closed (hc : Closed A P) (kRegisters : A .registers) (kTime : A .time) (kIntake : A .intake)
    (kPlls : A .plls) (kPods : A .pods) (kFrames : A .frames) (kScouts : A .scouts) (kStreams : A .streams)
    (kStores : A .stores) (kEvents : A .events) (kChannels : A .channels) (kSent : A .sent) {s : State} (p : Page)
    (hs : P s) :
    P (s.resetPll p) := by
  unfold State.resetPll
  repeat first
    | with_reducible assumption | with_reducible apply hc.setPll | with_reducible apply State.abandonUnder_closed hc
    | with_reducible apply State.clearPage_closed hc | with_reducible apply State.putF_closed hc
    | with_reducible apply State.startRelock_closed hc | with_reducible apply State.stopClocked_closed hc
    | with_reducible apply closed_ite | dsimp only | split | exact Or.inl ‹_› | exact Or.inr rfl
    | with_reducible apply hc.other

theorem State.resetSram_closed (hc : Closed A P) (kRegisters : A .registers) (kStores : A .stores)
    (kEvents : A .events) (kSram : A .sram) (kMarch : A .march) (kDram : A .dram) (kChannels : A .channels)
    (kBoard : A .board) (kBoot : A .boot) (kSent : A .sent) {s : State} (u : Nat) (hs : P s) :
    P (s.resetSram u) := by
  unfold State.resetSram
  repeat first
    | with_reducible assumption | with_reducible apply hc.setSramOf | with_reducible apply State.clearPage_closed hc
    | with_reducible apply State.keepWords_closed hc | with_reducible apply State.marchOver_closed hc
    | with_reducible apply State.putF_closed hc | with_reducible apply State.zeroMarched_closed hc
    | with_reducible apply closed_ite | dsimp only | split | exact Or.inl ‹_› | exact Or.inr rfl
    | with_reducible apply hc.other

theorem State.resetDram_closed (hc : Closed A P) (kRegisters : A .registers) (kEvents : A .events)
    (kChannels : A .channels) (kBoard : A .board) (kSent : A .sent) {s : State} (u k : Nat) (hs : P s) :
    P (s.resetDram u k) := by
  unfold State.resetDram
  repeat first
    | with_reducible assumption | with_reducible apply hc.setChan | with_reducible apply State.clearPage_closed hc
    | with_reducible apply State.keepWords_closed hc | with_reducible apply State.putF_closed hc
    | with_reducible apply State.settlePanicOf_closed hc | with_reducible apply State.showChan_closed hc | dsimp only
    | exact Or.inl ‹_› | exact Or.inr rfl | with_reducible apply hc.other

theorem State.resetScout_closed (hc : Closed A P) (kRegisters : A .registers) (kScouts : A .scouts) {s : State}
    (u k : Nat) (hs : P s) :
    P (s.resetScout u k) := by
  unfold State.resetScout
  repeat first
    | with_reducible assumption | with_reducible apply hc.setScout | with_reducible apply State.clearPage_closed hc
    | dsimp only | exact Or.inl ‹_› | exact Or.inr rfl | with_reducible apply hc.other

theorem State.resetBoard_closed (hc : Closed A P) (kRegisters : A .registers) (kPlls : A .plls)
    (kEvents : A .events) (kBoard : A .board) (kSent : A .sent) {s : State} (hs : P s) :
    P s.resetBoard := by
  unfold State.resetBoard
  repeat first
    | with_reducible assumption | with_reducible apply hc.setWord | with_reducible apply State.clearPage_closed hc
    | with_reducible apply State.settleNoFb_closed hc | with_reducible apply State.startRelock_closed hc
    | with_reducible apply closed_ite | dsimp only | split | exact Or.inl ‹_› | exact Or.inr rfl
    | with_reducible apply hc.other

theorem State.resetBlock_closed (hc : Closed A P) (kRegisters : A .registers) (kTime : A .time)
    (kIntake : A .intake) (kPlls : A .plls) (kPods : A .pods) (kFrames : A .frames) (kScouts : A .scouts)
    (kSequencers : A .sequencers) (kTake : A .take) (kStreams : A .streams) (kStores : A .stores)
    (kEvents : A .events) (kHost : A .host) (kTriggers : A .triggers) (kSidebands : A .sidebands) (kRing : A .ring)
    (kQueues : A .queues) (kSram : A .sram) (kMarch : A .march) (kDram : A .dram) (kChannels : A .channels)
    (kBoard : A .board) (kBoot : A .boot) (kSent : A .sent) {s : State} (p : Page) (hs : P s) :
    P (s.resetBlock p) := by
  unfold State.resetBlock
  repeat first
    | with_reducible assumption | with_reducible apply hc.setFrame | with_reducible apply hc.setPod
    | with_reducible apply hc.setSeq | with_reducible apply hc.setSide | with_reducible apply hc.setStore
    | with_reducible apply State.catchUp_closed hc | with_reducible apply State.clearPage_closed hc
    | with_reducible apply State.dropTrigOut_closed hc | with_reducible apply State.podDown_closed hc
    | with_reducible apply State.resetBoard_closed hc | with_reducible apply State.resetDram_closed hc
    | with_reducible apply State.resetEvents_closed hc | with_reducible apply State.resetHive_closed hc
    | with_reducible apply State.resetHost_closed hc | with_reducible apply State.resetPll_closed hc
    | with_reducible apply State.resetQueue_closed hc | with_reducible apply State.resetScout_closed hc
    | with_reducible apply State.resetSram_closed hc | dsimp only | split | exact Or.inl ‹_› | exact Or.inr rfl
    | with_reducible apply hc.other

theorem State.showPage_closed (hc : Closed A P) (kRegisters : A .registers) (kEvents : A .events) (kSent : A .sent)
    {s : State} (p : Page) (hs : P s) :
    P (s.showPage p) := by
  unfold State.showPage
  repeat first
    | with_reducible assumption | with_reducible apply State.showKnobs_closed hc
    | with_reducible apply State.showReady_closed hc | dsimp only | split | exact Or.inl ‹_› | exact Or.inr rfl
    | with_reducible apply hc.other

theorem State.resetPage_closed (hc : Closed A P) (kRegisters : A .registers) (kTime : A .time) (kIntake : A .intake)
    (kPlls : A .plls) (kPods : A .pods) (kFrames : A .frames) (kScouts : A .scouts) (kSequencers : A .sequencers)
    (kTake : A .take) (kStreams : A .streams) (kStores : A .stores) (kEvents : A .events) (kHost : A .host)
    (kTriggers : A .triggers) (kSidebands : A .sidebands) (kRing : A .ring) (kQueues : A .queues) (kSram : A .sram)
    (kMarch : A .march) (kDram : A .dram) (kChannels : A .channels) (kBoard : A .board) (kBoot : A .boot)
    (kSent : A .sent) {s : State} (p : Page) (hs : P s) :
    P (s.resetPage p) := by
  unfold State.resetPage
  repeat first
    | with_reducible assumption | with_reducible apply State.forgetSources_closed hc
    | with_reducible apply State.resetBlock_closed hc | with_reducible apply State.showPage_closed hc

theorem State.pageResetWrite_closed (hc : Closed A P) (kRegisters : A .registers) (kTime : A .time)
    (kIntake : A .intake) (kPlls : A .plls) (kPods : A .pods) (kFrames : A .frames) (kScouts : A .scouts)
    (kSequencers : A .sequencers) (kTake : A .take) (kStreams : A .streams) (kStores : A .stores)
    (kEvents : A .events) (kHost : A .host) (kTriggers : A .triggers) (kSidebands : A .sidebands) (kRing : A .ring)
    (kQueues : A .queues) (kSram : A .sram) (kMarch : A .march) (kDram : A .dram) (kChannels : A .channels)
    (kBoard : A .board) (kBoot : A .boot) (kSent : A .sent) {s : State} (p : Page) (hs : P s) :
    P (s.pageResetWrite p) := by
  unfold State.pageResetWrite
  repeat first
    | with_reducible assumption | with_reducible apply State.putF_closed hc
    | with_reducible apply State.resetPage_closed hc | with_reducible apply closed_ite | split

theorem State.resetPages_closed (hc : Closed A P) (kRegisters : A .registers) (kTime : A .time)
    (kIntake : A .intake) (kPlls : A .plls) (kPods : A .pods) (kFrames : A .frames) (kScouts : A .scouts)
    (kSequencers : A .sequencers) (kTake : A .take) (kStreams : A .streams) (kStores : A .stores)
    (kEvents : A .events) (kHost : A .host) (kTriggers : A .triggers) (kSidebands : A .sidebands) (kRing : A .ring)
    (kQueues : A .queues) (kSram : A .sram) (kMarch : A .march) (kDram : A .dram) (kChannels : A .channels)
    (kBoard : A .board) (kBoot : A .boot) (kSent : A .sent) {s : State} (l : List Page) (hs : P s) :
    P (s.resetPages l) := by
  unfold State.resetPages
  repeat first
    | with_reducible assumption | with_reducible apply State.putF_closed hc
    | with_reducible apply State.resetPage_closed hc | (with_reducible apply closed_foldl; rotate_left; intro _ _ _)
    | dsimp only

theorem State.emptySuper_closed (hc : Closed A P) (kRegisters : A .registers) (kStores : A .stores)
    (kEvents : A .events) (kQueues : A .queues) (kSram : A .sram) (kSent : A .sent) {s : State} (u : Nat) (hs : P s)
    :
    P (s.emptySuper u) := by
  unfold State.emptySuper
  repeat first
    | with_reducible assumption | with_reducible apply hc.setStore | with_reducible apply State.emptyQueue_closed hc
    | with_reducible apply State.workSram_closed hc | (with_reducible apply closed_foldl; rotate_left; intro _ _ _)
    | dsimp only | exact Or.inl ‹_› | exact Or.inr rfl | with_reducible apply hc.other

theorem State.softReset_closed (hc : Closed A P) (kRegisters : A .registers) (kTime : A .time) (kIntake : A .intake)
    (kPlls : A .plls) (kPods : A .pods) (kFrames : A .frames) (kScouts : A .scouts) (kSequencers : A .sequencers)
    (kTake : A .take) (kStreams : A .streams) (kStores : A .stores) (kEvents : A .events) (kHost : A .host)
    (kTriggers : A .triggers) (kSidebands : A .sidebands) (kRing : A .ring) (kQueues : A .queues) (kSram : A .sram)
    (kMarch : A .march) (kDram : A .dram) (kChannels : A .channels) (kBoard : A .board) (kBoot : A .boot)
    (kSent : A .sent) {s : State} (key : Nat) (hs : P s) :
    P (s.softReset key) := by
  unfold State.softReset
  repeat first
    | with_reducible assumption | with_reducible apply hc.clearRegs | with_reducible apply State.bump_closed hc
    | with_reducible apply State.dropTake_closed hc | with_reducible apply State.emptySuper_closed hc
    | with_reducible apply State.keepWords_closed hc | with_reducible apply State.putF_closed hc
    | with_reducible apply State.resetPages_closed hc | (with_reducible apply closed_foldl; rotate_left; intro _ _ _)
    | with_reducible apply closed_ite | dsimp only | split

theorem State.perstReset_closed (hc : Closed A P) (kRegisters : A .registers) (kTime : A .time)
    (kIntake : A .intake) (kPlls : A .plls) (kPods : A .pods) (kFrames : A .frames) (kScouts : A .scouts)
    (kSequencers : A .sequencers) (kTake : A .take) (kStreams : A .streams) (kStores : A .stores)
    (kEvents : A .events) (kHost : A .host) (kTriggers : A .triggers) (kSidebands : A .sidebands) (kRing : A .ring)
    (kQueues : A .queues) (kSram : A .sram) (kMarch : A .march) (kDram : A .dram) (kChannels : A .channels)
    (kBoard : A .board) (kBoot : A .boot) (kSent : A .sent) {s : State} (hs : P s) :
    P s.perstReset := by
  unfold State.perstReset
  repeat first
    | with_reducible assumption | with_reducible apply State.clearPage_closed hc
    | with_reducible apply State.emptyEvents_closed hc | with_reducible apply State.forgetSources_closed hc
    | with_reducible apply State.resetConfig_closed hc | with_reducible apply State.resetHive_closed hc
    | with_reducible apply State.resetPages_closed hc | with_reducible apply State.showAllReady_closed hc
    | dsimp only | exact Or.inl ‹_› | exact Or.inr rfl | with_reducible apply hc.other

theorem State.powerDown_closed (hc : Closed A P) (kAll : ∀ k, A k) {s : State} (hs : P s) : P s.powerDown := by
  unfold State.powerDown
  repeat first
    | with_reducible assumption | exact kAll _ | with_reducible apply hc.setWord | with_reducible apply hc.unpowered
    | (with_reducible apply closed_foldl; rotate_left; intro _ _ _) | dsimp only

/-! ### Sys2Proof/Machine/RingCmds.lean -/

theorem State.receiveCtrl_closed (hc : Closed A P) (kRegisters : A .registers) (kEvents : A .events)
    (kRing : A .ring) (kSent : A .sent) {s : State} (c : Copy) (source dest type tally arg : Nat)
    (f : State → State) (hf : ∀ t, P t → P (f t)) (hs : P s) :
    P (s.receiveCtrl c source dest type tally arg f) := by
  unfold State.receiveCtrl
  repeat first
    | with_reducible assumption | with_reducible apply State.receive_closed hc | with_reducible apply hf
    | with_reducible intro _ | with_reducible apply closed_ite | dsimp only | split

theorem State.epochGo_closed (hc : Closed A P) (kRegisters : A .registers) (kRing : A .ring) (kSent : A .sent)
    {s : State} (hs : P s) :
    P s.epochGo := by
  unfold State.epochGo
  repeat first
    | with_reducible assumption | with_reducible apply State.putF_closed hc
    | with_reducible apply State.sendEpoch_closed hc | with_reducible apply closed_ite | split

theorem State.startBypass_closed (hc : Closed A P) (kRegisters : A .registers) (kRing : A .ring) (kSent : A .sent)
    {s : State} (hs : P s) :
    P s.startBypass := by
  unfold State.startBypass
  repeat first
    | with_reducible assumption | with_reducible apply State.putF_closed hc
    | with_reducible apply State.sendCtrl_closed hc | with_reducible apply State.settleRing_closed hc
    | with_reducible apply closed_ite | dsimp only | split | exact Or.inl ‹_› | exact Or.inr rfl
    | with_reducible apply hc.other

theorem State.sendMail_closed (hc : Closed A P) (kRegisters : A .registers) (kRing : A .ring) (kSent : A .sent)
    {s : State} (hs : P s) :
    P s.sendMail := by
  unfold State.sendMail
  repeat first
    | with_reducible assumption | with_reducible apply State.putF_closed hc
    | with_reducible apply State.sendCtrl_closed hc | with_reducible apply closed_ite | split

theorem State.storeMail_closed (hc : Closed A P) (kRegisters : A .registers) (kEvents : A .events) (kSent : A .sent)
    {s : State} (source arg : Nat) (hs : P s) :
    P (s.storeMail source arg) := by
  unfold State.storeMail
  repeat first
    | with_reducible assumption | with_reducible apply State.putF_closed hc
    | with_reducible apply State.raise_closed hc | with_reducible apply closed_ite | dsimp only | split

/-! ### Sys2Proof/Machine/SramCmds.lean -/

theorem State.windowCheck_closed (hc : Closed A P) (kRegisters : A .registers) (kEvents : A .events)
    (kSram : A .sram) (kMarch : A .march) (kSent : A .sent) {s : State} (u word : Nat) (flaw : Option Bool)
    (hs : P s) :
    P (s.windowCheck u word flaw) := by
  unfold State.windowCheck
  repeat first
    | with_reducible assumption | with_reducible apply State.sramError_closed hc
    | with_reducible apply State.upsetSram_closed hc | with_reducible apply closed_ite | dsimp only | split

theorem State.windowWord_closed (hc : Closed A P) (kRegisters : A .registers) (kEvents : A .events)
    (kSram : A .sram) (kMarch : A .march) (kSent : A .sent) {s : State} (op : WindowOp) (u word : Nat)
    (l : List (Nat × Byte)) (flaws : List (Nat × Bool)) (hs : P s) :
    P (s.windowWord op u word l flaws) := by
  unfold State.windowWord
  repeat first
    | with_reducible assumption | with_reducible apply hc.setSramByte | with_reducible apply State.markSram_closed hc
    | with_reducible apply State.windowCheck_closed hc
    | (with_reducible apply closed_foldl; rotate_left; intro _ _ _) | with_reducible apply closed_ite | dsimp only
    | split

theorem State.windowWrite_closed (hc : Closed A P) (kRegisters : A .registers) (kEvents : A .events)
    (kSram : A .sram) (kMarch : A .march) (kSent : A .sent) {s : State} (op : WindowOp) (off : Nat)
    (bytes : List (Option Byte)) (poisoned : Bool) (flaws : List (Nat × Bool)) (hs : P s) :
    P (s.windowWrite op off bytes poisoned flaws) := by
  unfold State.windowWrite
  repeat first
    | with_reducible assumption | with_reducible apply State.badBar0_closed hc
    | with_reducible apply State.bump_closed hc | with_reducible apply State.windowWord_closed hc
    | (with_reducible apply closed_foldl; rotate_left; intro _ _ _) | with_reducible apply closed_ite | dsimp only
    | split | exact Or.inl ‹_› | exact Or.inr rfl | with_reducible apply hc.other

theorem State.windowRead_closed (hc : Closed A P) (kRegisters : A .registers) (kEvents : A .events)
    (kSram : A .sram) (kMarch : A .march) (kSent : A .sent) {s : State} (off len : Nat) (flaws : List (Nat × Bool))
    (hs : P s) :
    P (s.windowRead off len flaws) := by
  unfold State.windowRead
  repeat first
    | with_reducible assumption | with_reducible apply State.badBar0_closed hc
    | with_reducible apply State.emit_closed hc | with_reducible apply State.windowCheck_closed hc
    | with_reducible apply State.workSram_closed hc | (with_reducible apply closed_foldl; rotate_left; intro _ _ _)
    | with_reducible apply closed_ite | dsimp only | split | exact Or.inl ‹_› | exact Or.inr rfl
    | with_reducible apply hc.other

/-! ### Sys2Proof/Machine/Access.lean -/

theorem State.commitWrite_closed (hc : Closed A P) (kRegisters : A .registers) (kPlls : A .plls) (kBoard : A .board)
    {s : State} (p : Page) (commit discard : Bool) (hs : P s) :
    P (s.commitWrite p commit discard) := by
  unfold State.commitWrite
  repeat first
    | with_reducible assumption | with_reducible apply State.commitBoard_closed hc
    | with_reducible apply State.commitPll_closed hc | with_reducible apply State.discard_closed hc
    | with_reducible apply State.requestApply_closed hc | with_reducible apply closed_ite | split | exact Or.inl ‹_›
    | exact Or.inr rfl | with_reducible apply hc.other

theorem State.forceSources_closed (hc : Closed A P) (kRegisters : A .registers) (kEvents : A .events)
    (kSent : A .sent) {s : State} (l : List Nat) (hs : P s) :
    P (s.forceSources l) := by
  unfold State.forceSources
  repeat first
    | with_reducible assumption | with_reducible apply State.raiseAt_closed hc
    | (with_reducible apply closed_foldl; rotate_left; intro _ _ _) | dsimp only

theorem State.disableSources_closed (hc : Closed A P) (kEvents : A .events) {s : State} (l : List Nat) (hs : P s) :
    P (s.disableSources l) := by
  unfold State.disableSources
  repeat first
    | with_reducible assumption | dsimp only | exact Or.inl ‹_› | exact Or.inr rfl | with_reducible apply hc.other

theorem State.writeShadow_closed (hc : Closed A P) (kRegisters : A .registers) {s : State} (p : Page) (o : Nat)
    (w : Word) (hs : P s) :
    P (s.writeShadow p o w) := by
  unfold State.writeShadow
  repeat first
    | with_reducible assumption | with_reducible apply hc.setShadow | with_reducible apply State.putF_closed hc
    | with_reducible apply State.settleDirty_closed hc | with_reducible apply closed_ite | dsimp only | split

theorem State.foldPanic_closed (hc : Closed A P) (kRegisters : A .registers) (kChannels : A .channels) {s : State}
    (u k : Nat) (hs : P s) :
    P (s.foldPanic u k) := by
  unfold State.foldPanic
  repeat first
    | with_reducible assumption | with_reducible apply hc.setChan | with_reducible apply State.putF_closed hc
    | dsimp only | split | exact Or.inl ‹_› | exact Or.inr rfl | with_reducible apply hc.other

theorem State.storeWord_closed (hc : Closed A P) (kRegisters : A .registers) {s : State} (p : Page) (o : Nat)
    (w : Word) (hs : P s) :
    P (s.storeWord p o w) := by
  unfold State.storeWord
  repeat first
    | with_reducible assumption | with_reducible apply hc.setWord | with_reducible apply State.writeShadow_closed hc
    | dsimp only

theorem State.pageCtrlEffect_closed (hc : Closed A P) (kRegisters : A .registers) (kTime : A .time)
    (kIntake : A .intake) (kPlls : A .plls) (kPods : A .pods) (kFrames : A .frames) (kScouts : A .scouts)
    (kSequencers : A .sequencers) (kTake : A .take) (kStreams : A .streams) (kStores : A .stores)
    (kEvents : A .events) (kHost : A .host) (kTriggers : A .triggers) (kSidebands : A .sidebands) (kRing : A .ring)
    (kQueues : A .queues) (kSram : A .sram) (kMarch : A .march) (kDram : A .dram) (kChannels : A .channels)
    (kBoard : A .board) (kBoot : A .boot) (kSent : A .sent) {s : State} (p : Page) (w : Word) (hs : P s) :
    P (s.pageCtrlEffect p w) := by
  unfold State.pageCtrlEffect
  repeat first
    | with_reducible assumption | with_reducible apply State.pageResetWrite_closed hc
    | with_reducible apply State.settleGenerator_closed hc | with_reducible apply State.settleRing_closed hc
    | with_reducible apply closed_ite | dsimp only | split | exact Or.inl ‹_› | exact Or.inr rfl
    | with_reducible apply hc.other

theorem State.ringCtrlEffect_closed (hc : Closed A P) (kRegisters : A .registers) (kEvents : A .events)
    (kHost : A .host) (kSent : A .sent) {s : State} (w : Word) (hs : P s) :
    P (s.ringCtrlEffect w) := by
  unfold State.ringCtrlEffect
  repeat first
    | with_reducible assumption | with_reducible apply State.disableCmd_closed hc
    | with_reducible apply State.disableCpl_closed hc | with_reducible apply State.disableDrn_closed hc
    | with_reducible apply State.enableCmd_closed hc | with_reducible apply State.enableCpl_closed hc
    | with_reducible apply State.enableDrn_closed hc | with_reducible apply closed_ite | dsimp only | split

theorem State.bypassEffect_closed (hc : Closed A P) (kRegisters : A .registers) (kRing : A .ring) (kSent : A .sent)
    {s : State} (b : Bool) (hs : P s) :
    P (s.bypassEffect b) := by
  unfold State.bypassEffect
  repeat first
    | with_reducible assumption | with_reducible apply State.putF_closed hc
    | with_reducible apply State.settleRing_closed hc | with_reducible apply State.startBypass_closed hc
    | with_reducible apply closed_ite | split

theorem State.blockEffect_closed (hc : Closed A P) (kRegisters : A .registers) (kTime : A .time)
    (kIntake : A .intake) (kPlls : A .plls) (kPods : A .pods) (kFrames : A .frames) (kScouts : A .scouts)
    (kSequencers : A .sequencers) (kTake : A .take) (kStreams : A .streams) (kStores : A .stores)
    (kEvents : A .events) (kHost : A .host) (kTriggers : A .triggers) (kSidebands : A .sidebands) (kRing : A .ring)
    (kQueues : A .queues) (kSram : A .sram) (kMarch : A .march) (kDram : A .dram) (kChannels : A .channels)
    (kBoard : A .board) (kReeve : A .reeve) (kBoot : A .boot) (kSent : A .sent) {s : State} (p : Page) (o : Nat)
    (w : Word) (hs : P s) :
    P (s.blockEffect p o w) := by
  unfold State.blockEffect
  repeat first
    | with_reducible assumption | with_reducible apply State.auxGo_closed hc
    | with_reducible apply State.bypassEffect_closed hc | with_reducible apply State.disableEvents_closed hc
    | with_reducible apply State.disableSources_closed hc | with_reducible apply State.enableEvents_closed hc
    | with_reducible apply State.epochGo_closed hc | with_reducible apply State.forceSources_closed hc
    | with_reducible apply State.forceTrigger_closed hc | with_reducible apply State.freeEvents_closed hc
    | with_reducible apply State.loadWear_closed hc | with_reducible apply State.marchStart_closed hc
    | with_reducible apply State.podCommandSend_closed hc | with_reducible apply State.postTally_closed hc
    | with_reducible apply State.requestLoad_closed hc | with_reducible apply State.retrain_closed hc
    | with_reducible apply State.ringCtrlEffect_closed hc | with_reducible apply State.sendMail_closed hc
    | with_reducible apply State.serveVectors_closed hc | with_reducible apply State.settleHif_closed hc
    | with_reducible apply State.softReset_closed hc | with_reducible apply closed_ite | split | exact Or.inl ‹_›
    | exact Or.inr rfl | with_reducible apply hc.other

theorem State.writeEffect_closed (hc : Closed A P) (kRegisters : A .registers) (kTime : A .time)
    (kIntake : A .intake) (kPlls : A .plls) (kPods : A .pods) (kFrames : A .frames) (kScouts : A .scouts)
    (kSequencers : A .sequencers) (kTake : A .take) (kStreams : A .streams) (kStores : A .stores)
    (kEvents : A .events) (kHost : A .host) (kTriggers : A .triggers) (kSidebands : A .sidebands) (kRing : A .ring)
    (kQueues : A .queues) (kSram : A .sram) (kMarch : A .march) (kDram : A .dram) (kChannels : A .channels)
    (kBoard : A .board) (kReeve : A .reeve) (kBoot : A .boot) (kSent : A .sent) {s : State} (p : Page) (o : Nat)
    (w : Word) (hs : P s) :
    P (s.writeEffect p o w) := by
  unfold State.writeEffect
  repeat first
    | with_reducible assumption | with_reducible apply State.blockEffect_closed hc
    | with_reducible apply State.commitWrite_closed hc | with_reducible apply State.disableSources_closed hc
    | with_reducible apply State.forceSources_closed hc | with_reducible apply State.pageCtrlEffect_closed hc
    | with_reducible apply closed_ite | split

theorem State.applyWrite_closed (hc : Closed A P) (kRegisters : A .registers) (kTime : A .time)
    (kIntake : A .intake) (kPlls : A .plls) (kPods : A .pods) (kFrames : A .frames) (kScouts : A .scouts)
    (kSequencers : A .sequencers) (kTake : A .take) (kStreams : A .streams) (kStores : A .stores)
    (kEvents : A .events) (kHost : A .host) (kTriggers : A .triggers) (kSidebands : A .sidebands) (kRing : A .ring)
    (kQueues : A .queues) (kSram : A .sram) (kMarch : A .march) (kDram : A .dram) (kChannels : A .channels)
    (kBoard : A .board) (kReeve : A .reeve) (kBoot : A .boot) (kSent : A .sent) {s : State} (p : Page) (o : Nat)
    (w : Word) (hs : P s) :
    P (s.applyWrite p o w) := by
  unfold State.applyWrite
  repeat first
    | with_reducible assumption | with_reducible apply State.foldPanic_closed hc
    | with_reducible apply State.storeWord_closed hc | with_reducible apply State.writeEffect_closed hc
    | with_reducible apply closed_ite | dsimp only | split | exact Or.inl ‹_› | exact Or.inr rfl
    | with_reducible apply hc.other

theorem State.wordWrite_closed (hc : Closed A P) (kRegisters : A .registers) (kTime : A .time) (kIntake : A .intake)
    (kPlls : A .plls) (kPods : A .pods) (kFrames : A .frames) (kScouts : A .scouts) (kSequencers : A .sequencers)
    (kTake : A .take) (kStreams : A .streams) (kStores : A .stores) (kEvents : A .events) (kHost : A .host)
    (kTriggers : A .triggers) (kSidebands : A .sidebands) (kRing : A .ring) (kQueues : A .queues) (kSram : A .sram)
    (kMarch : A .march) (kDram : A .dram) (kChannels : A .channels) (kBoard : A .board) (kReeve : A .reeve)
    (kBoot : A .boot) (kSent : A .sent) {s : State} (p : Page) (o : Nat) (w : Word) (hs : P s) :
    P (s.wordWrite p o w) := by
  unfold State.wordWrite
  repeat first
    | with_reducible assumption | with_reducible apply hc.holdWord | with_reducible apply hc.unhold
    | with_reducible apply State.applyWrite_closed hc | with_reducible apply closed_ite | dsimp only | split
    | exact Or.inl ‹_› | exact Or.inr rfl | with_reducible apply hc.other

theorem State.writeAt_closed (hc : Closed A P) (kRegisters : A .registers) (kTime : A .time) (kIntake : A .intake)
    (kPlls : A .plls) (kPods : A .pods) (kFrames : A .frames) (kScouts : A .scouts) (kSequencers : A .sequencers)
    (kTake : A .take) (kStreams : A .streams) (kStores : A .stores) (kEvents : A .events) (kHost : A .host)
    (kTriggers : A .triggers) (kSidebands : A .sidebands) (kRing : A .ring) (kQueues : A .queues) (kSram : A .sram)
    (kMarch : A .march) (kDram : A .dram) (kChannels : A .channels) (kBoard : A .board) (kReeve : A .reeve)
    (kBoot : A .boot) (kSent : A .sent) {s : State} (a : Nat) (w : Word) (hs : P s) :
    P (s.writeAt a w) := by
  unfold State.writeAt
  repeat first
    | with_reducible assumption | with_reducible apply State.wordWrite_closed hc | with_reducible apply closed_ite
    | split | exact Or.inl ‹_› | exact Or.inr rfl | with_reducible apply hc.other

theorem State.hostWrite_closed (hc : Closed A P) (kRegisters : A .registers) (kTime : A .time) (kIntake : A .intake)
    (kPlls : A .plls) (kPods : A .pods) (kFrames : A .frames) (kScouts : A .scouts) (kSequencers : A .sequencers)
    (kTake : A .take) (kStreams : A .streams) (kStores : A .stores) (kEvents : A .events) (kHost : A .host)
    (kTriggers : A .triggers) (kSidebands : A .sidebands) (kRing : A .ring) (kQueues : A .queues) (kSram : A .sram)
    (kMarch : A .march) (kDram : A .dram) (kChannels : A .channels) (kBoard : A .board) (kReeve : A .reeve)
    (kBoot : A .boot) (kSent : A .sent) {s : State} (a : Nat) (bytes : List Byte) (poisoned : Bool) (hs : P s) :
    P (s.hostWrite a bytes poisoned) := by
  unfold State.hostWrite
  repeat first
    | with_reducible assumption | with_reducible apply State.badBar0_closed hc
    | with_reducible apply State.windowWrite_closed hc | with_reducible apply State.writeAt_closed hc
    | (with_reducible apply closed_foldl; rotate_left; intro _ _ _) | with_reducible apply closed_ite | dsimp only
    | split

theorem State.sensePins_closed (hc : Closed A P) (kRegisters : A .registers) (kSent : A .sent) {s : State}
    (hs : P s) :
    P s.sensePins := by
  unfold State.sensePins
  repeat first
    | with_reducible assumption | with_reducible apply State.drawFree_closed hc
    | with_reducible apply State.putF_closed hc | dsimp only

theorem State.sensePlace_closed (hc : Closed A P) (kRegisters : A .registers) (kSent : A .sent) {s : State}
    (u : Nat) (hs : P s) :
    P (s.sensePlace u) := by
  unfold State.sensePlace
  repeat first
    | with_reducible assumption | with_reducible apply State.drawFree_closed hc
    | with_reducible apply State.putF_closed hc | with_reducible apply closed_ite | dsimp only | split

theorem State.showGrants_closed (hc : Closed A P) (kRegisters : A .registers) {s : State} (hs : P s) :
    P s.showGrants := by
  unfold State.showGrants
  repeat first
    | with_reducible assumption | with_reducible apply State.putF_closed hc
    | (with_reducible apply closed_foldl; rotate_left; intro _ _ _) | dsimp only

theorem State.showLtr_closed (hc : Closed A P) (kRegisters : A .registers) {s : State} (u k : Nat) (hs : P s) :
    P (s.showLtr u k) := by
  unfold State.showLtr
  repeat first
    | with_reducible assumption | with_reducible apply State.putF_closed hc | dsimp only

theorem State.showPll_closed (hc : Closed A P) (kRegisters : A .registers) (kSent : A .sent) {s : State}
    (p : Page) (o : Nat) (hs : P s) :
    P (s.showPll p o) := by
  unfold State.showPll
  repeat first
    | with_reducible assumption | with_reducible apply State.putF_closed hc
    | with_reducible apply State.setPllState_closed hc | with_reducible apply State.drawFree_closed hc
    | with_reducible apply closed_ite | dsimp only | split

theorem State.showWaiting_closed (hc : Closed A P) (kRegisters : A .registers) {s : State} (hs : P s) :
    P s.showWaiting := by
  unfold State.showWaiting
  repeat first
    | with_reducible assumption | with_reducible apply State.putF_closed hc | dsimp only

theorem State.refresh_closed (hc : Closed A P) (kRegisters : A .registers) (kChannels : A .channels)
    (kBoard : A .board) (kSent : A .sent) {s : State} (p : Page) (o : Nat) (hs : P s) :
    P (s.refresh p o) := by
  unfold State.refresh
  repeat first
    | with_reducible assumption | with_reducible apply hc.setWord | with_reducible apply State.foldPanic_closed hc
    | with_reducible apply State.putF_closed hc | with_reducible apply State.putPair_closed hc
    | with_reducible apply State.sensePins_closed hc | with_reducible apply State.sensePlace_closed hc
    | with_reducible apply State.showBoard_closed hc | with_reducible apply State.showWaiting_closed hc | with_reducible apply State.showPll_closed hc
    | with_reducible apply State.showGrants_closed hc | with_reducible apply State.showLtr_closed hc
    | with_reducible apply closed_ite | split | exact Or.inl ‹_› | exact Or.inr rfl | with_reducible apply hc.other

theorem State.pageRead_closed (hc : Closed A P) (kRegisters : A .registers) (kChannels : A .channels)
    (kBoard : A .board) (kSent : A .sent) {s : State} (p : Page) (o : Nat) (hs : P s) :
    P (s.pageRead p o).2 := by
  unfold State.pageRead
  repeat first
    | with_reducible assumption | with_reducible apply hc.latchWord | with_reducible apply hc.unlatch
    | with_reducible apply State.refresh_closed hc | with_reducible apply closed_ite | dsimp only | split
    | exact Or.inl ‹_› | exact Or.inr rfl | with_reducible apply hc.other

theorem State.readAt_closed (hc : Closed A P) (kRegisters : A .registers) (kChannels : A .channels)
    (kBoard : A .board) (kSent : A .sent) {s : State} (a : Nat) (hs : P s) :
    P (s.readAt a).2 := by
  unfold State.readAt
  repeat first
    | with_reducible assumption | with_reducible apply State.pageRead_closed hc | with_reducible apply closed_ite
    | dsimp only | split | exact Or.inl ‹_› | exact Or.inr rfl | with_reducible apply hc.other

theorem State.readWords_closed (hc : Closed A P) (kRegisters : A .registers) (kChannels : A .channels)
    (kBoard : A .board) (kSent : A .sent) {s : State} (a : Nat) (n : Nat) (hs : P s) :
    P (s.readWords a n).2 := by
  induction n generalizing s a with
  | zero => exact hs
  | succ n ih =>
    unfold State.readWords
    repeat first
      | with_reducible assumption | with_reducible apply State.readAt_closed hc | with_reducible apply ih
      | dsimp only | split

theorem State.hostRead_closed (hc : Closed A P) (kRegisters : A .registers) (kEvents : A .events) (kSram : A .sram)
    (kMarch : A .march) (kChannels : A .channels) (kBoard : A .board) (kSent : A .sent) {s : State} (a len : Nat)
    (hs : P s) :
    P (s.hostRead a len) := by
  unfold State.hostRead
  repeat first
    | with_reducible assumption | with_reducible apply State.emit_closed hc
    | with_reducible apply State.readWords_closed hc | with_reducible apply State.windowRead_closed hc
    | with_reducible apply closed_ite | dsimp only | split

/-! ### Sys2Proof/Machine/AccessCmds.lean -/

theorem State.onPage_closed (hc : Closed A P) (kRegisters : A .registers) {s : State} {t : State} (p : Page)
    (hs : P s) (hs1 : P t) :
    nextHas P (s.onPage p t) := by
  unfold State.onPage
  repeat first
    | with_reducible assumption | with_reducible apply nextHas_next | with_reducible apply State.finish_closed hc
    | with_reducible apply closed_ite | dsimp only | split

/-! ### Sys2Proof/Machine/BootCmds.lean -/

theorem State.railsUp_closed (hc : Closed A P) (kRegisters : A .registers) {s : State} (hs : P s) : P s.railsUp := by
  unfold State.railsUp
  repeat first
    | with_reducible assumption | with_reducible apply State.putF_closed hc | dsimp only

theorem State.startAfresh_closed (hc : Closed A P) (kRegisters : A .registers) (kReeve : A .reeve) (kBoot : A .boot)
    {s : State} (straps : List Nat) (kind : Nat) (hs : P s) :
    P (s.startAfresh straps kind) := by
  unfold State.startAfresh
  repeat first
    | with_reducible assumption | with_reducible apply State.bump_closed hc
    | with_reducible apply State.putF_closed hc | dsimp only | exact Or.inl ‹_› | exact Or.inr rfl
    | with_reducible apply hc.other

theorem State.endStreams_closed (hc : Closed A P) (kRegisters : A .registers) (kStreams : A .streams)
    (kStores : A .stores) (kEvents : A .events) (kSent : A .sent) {s : State} (u t : Nat) (hs : P s) :
    P (s.endStreams u t) := by
  unfold State.endStreams
  repeat first
    | with_reducible assumption | with_reducible apply hc.setStream
    | with_reducible apply State.closeStream_closed hc
    | (with_reducible apply closed_foldl; rotate_left; intro _ _ _) | with_reducible apply closed_ite | dsimp only
    | split | exact Or.inl ‹_› | exact Or.inr rfl | with_reducible apply hc.other

/-! ### Sys2Proof/Machine/CellCmds.lean -/

theorem State.onFrame_closed (hc : Closed A P) (kRegisters : A .registers) (kPods : A .pods) (kFrames : A .frames)
    (kScouts : A .scouts) (kSequencers : A .sequencers) (kTake : A .take) (kStreams : A .streams)
    (kStores : A .stores) (kEvents : A .events) (kTriggers : A .triggers) (kRing : A .ring) (kSent : A .sent)
    {s : State} {t : State} (u f : Nat) (hs : P s) (hs1 : P t) :
    nextHas P (s.onFrame u f t) := by
  unfold State.onFrame
  repeat first
    | with_reducible assumption | with_reducible apply nextHas_next | with_reducible apply State.catchUp_closed hc
    | with_reducible apply State.on_closed hc | with_reducible apply State.runEval_closed hc
    | with_reducible apply State.settleSeqs_closed hc | dsimp only | split

theorem State.snapBefore_closed (hc : Closed A P) (kStreams : A .streams) {s : State} (u k : Nat) (level : Bool)
    (hs : P s) :
    P (s.snapBefore u k level) := by
  unfold State.snapBefore
  repeat first
    | with_reducible assumption | with_reducible apply hc.setStream | with_reducible apply closed_ite | dsimp only
    | split | exact Or.inl ‹_› | exact Or.inr rfl | with_reducible apply hc.other

theorem State.keepEdge_closed (hc : Closed A P) (kScouts : A .scouts) (kStreams : A .streams) {s : State}
    (u k t : Nat) (level : Bool) (hs : P s) :
    P (s.keepEdge u k t level) := by
  unfold State.keepEdge
  repeat first
    | with_reducible assumption | with_reducible apply hc.setScout | with_reducible apply State.snapBefore_closed hc
    | with_reducible apply closed_ite | dsimp only | split | exact Or.inl ‹_› | exact Or.inr rfl
    | with_reducible apply hc.other

/-! ### Sys2Proof/Machine/PowerCmds.lean -/

theorem State.grantSlot_closed (hc : Closed A P) (kRegisters : A .registers) (kTake : A .take)
    (kChannels : A .channels) {s : State} (u k : Nat) (hs : P s) :
    P (s.grantSlot u k) := by
  unfold State.grantSlot
  repeat first
    | with_reducible assumption | with_reducible apply hc.setChan | with_reducible apply State.bump_closed hc
    | with_reducible apply State.knob_closed hc | with_reducible apply State.putF_closed hc
    | with_reducible apply closed_ite | dsimp only | split | exact Or.inl ‹_› | exact Or.inr rfl
    | with_reducible apply hc.other

theorem State.ivrStop_closed (hc : Closed A P) (kRegisters : A .registers) (kPlls : A .plls) (kTake : A .take)
    (kEvents : A .events) (kRing : A .ring) (kBoot : A .boot) (kSent : A .sent) {s : State} (source cause : Nat)
    (hs : P s) :
    P (s.ivrStop source cause) := by
  unfold State.ivrStop
  repeat first
    | with_reducible assumption | exact nextHas_fault _ | with_reducible apply State.faultStop_closed hc
    | with_reducible apply State.railsOffSoon_closed hc | with_reducible apply State.raise_closed hc

theorem State.losePower_closed (hc : Closed A P) (kAll : ∀ k, A k) {s : State} (hs : P s) : P s.losePower := by
  unfold State.losePower
  repeat first
    | with_reducible assumption | exact kAll _ | with_reducible apply State.powerDown_closed hc
    | with_reducible apply State.putF_closed hc | with_reducible apply closed_ite | dsimp only | split

/-! ### Sys2Proof/Machine/PressCmds.lean -/

theorem State.pressLevel_closed (hc : Closed A P) (kRegisters : A .registers) (kStores : A .stores)
    (kEvents : A .events) (kSent : A .sent) {s : State} (u : Nat) (isF table : Bool) (hs : P s) :
    P (s.pressLevel u isF table).2 := by
  unfold State.pressLevel
  repeat first
    | with_reducible assumption | with_reducible apply hc.setStore | with_reducible apply State.bump_closed hc
    | with_reducible apply State.putF_closed hc | with_reducible apply State.raise_closed hc
    | with_reducible apply closed_ite | dsimp only | split | exact Or.inl ‹_› | exact Or.inr rfl
    | with_reducible apply hc.other

theorem State.countOut_closed (hc : Closed A P) (kRegisters : A .registers) {s : State} (u words : Nat) (hs : P s) :
    P (s.countOut u words) := by
  unfold State.countOut
  repeat first
    | with_reducible assumption | with_reducible apply State.addPair_closed hc

theorem State.storeRaw_closed (hc : Closed A P) (kRegisters : A .registers) (kStreams : A .streams)
    (kStores : A .stores) {s : State} (u : Nat) (c : Coded) (lost : Option (List (Nat × List Nat × List Nat)) )
    (poison : List Nat) (x0 : Nat) (x1 : List CutBlock) (hs : P s) :
    P (s.storeRaw u c lost poison x0 x1) := by
  induction x1 generalizing s u c lost poison x0 with
  | nil => exact hs
  | cons a l ih =>
    unfold State.storeRaw
    repeat first
      | with_reducible assumption | with_reducible apply State.countOut_closed hc
      | with_reducible apply State.writePiece_closed hc | with_reducible apply ih | with_reducible apply closed_ite
      | dsimp only | split | exact Or.inl ‹_› | exact Or.inr rfl | with_reducible apply hc.other

theorem State.pressFlaws_closed (hc : Closed A P) (kRegisters : A .registers) (kEvents : A .events)
    (kSent : A .sent) {s : State} (u : Nat) (l : List (Nat × Option Nat)) (hs : P s) :
    P (s.pressFlaws u l) := by
  unfold State.pressFlaws
  repeat first
    | with_reducible assumption | with_reducible apply State.sramError_closed hc
    | (with_reducible apply closed_foldl; rotate_left; intro _ _ _) | dsimp only

theorem State.pressOne_closed (hc : Closed A P) (kRegisters : A .registers) (kStreams : A .streams)
    (kStores : A .stores) (kEvents : A .events) (kSent : A .sent) {s : State} (u : Nat) (b : CutBlock)
    (lengths : List Nat) (coded : Option (List Nat)) (flaws : List (Nat × Option Nat)) (hs : P s) :
    P (s.pressOne u b lengths coded flaws) := by
  unfold State.pressOne
  repeat first
    | with_reducible assumption | with_reducible apply State.addPair_closed hc
    | with_reducible apply State.bump_closed hc | with_reducible apply State.countOut_closed hc
    | with_reducible apply State.pressFlaws_closed hc | with_reducible apply State.pressLevel_closed hc
    | with_reducible apply State.putF_closed hc | with_reducible apply State.raise_closed hc
    | with_reducible apply State.storeRaw_closed hc | with_reducible apply State.writePiece_closed hc
    | with_reducible apply closed_ite | dsimp only | split | exact Or.inl ‹_› | exact Or.inr rfl
    | with_reducible apply hc.other

/-! ### Sys2Proof/Machine/TakeCmds.lean -/

theorem State.showPlan_closed (hc : Closed A P) (kRegisters : A .registers) {s : State} (refused : Bool) (hs : P s)
    :
    P (s.showPlan refused) := by
  unfold State.showPlan
  repeat first
    | with_reducible assumption | with_reducible apply State.putF_closed hc

theorem State.refuseArm_closed (hc : Closed A P) (kRegisters : A .registers) (kEvents : A .events) (kHost : A .host)
    (kSent : A .sent) {s : State} (c : HostCmd) (e : Nat × Nat) (hs : P s) :
    P (s.refuseArm c e) := by
  unfold State.refuseArm
  repeat first
    | with_reducible assumption | with_reducible apply State.endCommand_closed hc
    | with_reducible apply State.putF_closed hc | with_reducible apply State.raise_closed hc | dsimp only

theorem State.openStore_closed (hc : Closed A P) (kStores : A .stores) {s : State} (u : Nat) (hs : P s) :
    P (s.openStore u) := by
  unfold State.openStore
  repeat first
    | with_reducible assumption | with_reducible apply hc.setStore | with_reducible apply closed_ite | dsimp only
    | split | exact Or.inl ‹_› | exact Or.inr rfl | with_reducible apply hc.other

theorem State.clearAtArm_closed (hc : Closed A P) (kRegisters : A .registers) {s : State} (hs : P s) :
    P s.clearAtArm := by
  unfold State.clearAtArm
  repeat first
    | with_reducible assumption | with_reducible apply State.putF_closed hc
    | with_reducible apply State.settlePeak_closed hc | (with_reducible apply closed_foldl; rotate_left; intro _ _ _)
    | with_reducible apply closed_ite | dsimp only | split

theorem State.noteLossy_closed (hc : Closed A P) (kRegisters : A .registers) (kEvents : A .events) (kSent : A .sent)
    {s : State} (hs : P s) :
    P s.noteLossy := by
  unfold State.noteLossy
  repeat first
    | with_reducible assumption | with_reducible apply State.putF_closed hc
    | with_reducible apply State.raise_closed hc | (with_reducible apply closed_foldl; rotate_left; intro _ _ _)
    | with_reducible apply closed_ite | dsimp only | split

theorem State.acceptArm_closed (hc : Closed A P) (kRegisters : A .registers) (kIntake : A .intake) (kPods : A .pods)
    (kFrames : A .frames) (kScouts : A .scouts) (kTake : A .take) (kStreams : A .streams) (kStores : A .stores)
    (kEvents : A .events) (kRing : A .ring) (kQueues : A .queues) (kDram : A .dram) (kChannels : A .channels)
    (kBoard : A .board) (kReeve : A .reeve) (kSent : A .sent) {s : State} (id : Nat) (hs : P s) :
    P (s.acceptArm id) := by
  unfold State.acceptArm
  repeat first
    | with_reducible assumption | with_reducible apply hc.setStream | with_reducible apply State.accepted_closed hc
    | with_reducible apply State.applyAtArm_closed hc | with_reducible apply State.clearAtArm_closed hc
    | with_reducible apply State.grantTake_closed hc | with_reducible apply State.leaveSelfRefresh_closed hc
    | with_reducible apply State.noteLossy_closed hc | with_reducible apply State.openStore_closed hc
    | with_reducible apply State.putF_closed hc | with_reducible apply State.putPair_closed hc
    | with_reducible apply State.raise_closed hc | with_reducible apply State.setTakeState_closed hc
    | with_reducible apply State.showStore_closed hc | (with_reducible apply closed_foldl; rotate_left; intro _ _ _)
    | dsimp only | exact Or.inl ‹_› | exact Or.inr rfl | with_reducible apply hc.other

theorem State.arm_closed (hc : Closed A P) (kRegisters : A .registers) (kIntake : A .intake) (kPods : A .pods)
    (kFrames : A .frames) (kScouts : A .scouts) (kTake : A .take) (kStreams : A .streams) (kStores : A .stores)
    (kEvents : A .events) (kHost : A .host) (kRing : A .ring) (kQueues : A .queues) (kDram : A .dram)
    (kChannels : A .channels) (kBoard : A .board) (kReeve : A .reeve) (kSent : A .sent) {s : State} (c : HostCmd)
    (hs : P s) :
    P (s.arm c) := by
  unfold State.arm
  repeat first
    | with_reducible assumption | with_reducible apply State.acceptArm_closed hc
    | with_reducible apply State.endCommand_closed hc | with_reducible apply State.refuseArm_closed hc
    | with_reducible apply State.showPlan_closed hc | with_reducible apply closed_ite | dsimp only | split
    | exact Or.inl ‹_› | exact Or.inr rfl | with_reducible apply hc.other

theorem State.startScouts_closed (hc : Closed A P) (kRegisters : A .registers) (kScouts : A .scouts)
    (kStreams : A .streams) {s : State} (u : Nat) (hs : P s) :
    P (s.startScouts u) := by
  unfold State.startScouts
  repeat first
    | with_reducible assumption | with_reducible apply hc.setScout | with_reducible apply hc.setStream
    | with_reducible apply State.setSuspend_closed hc | (with_reducible apply closed_foldl; rotate_left; intro _ _ _)
    | with_reducible apply closed_ite | dsimp only | split | exact Or.inl ‹_› | exact Or.inr rfl
    | with_reducible apply hc.other

theorem State.beginTake_closed (hc : Closed A P) (kRegisters : A .registers) (kIntake : A .intake)
    (kScouts : A .scouts) (kSequencers : A .sequencers) (kTake : A .take) (kStreams : A .streams)
    (kStores : A .stores) (kEvents : A .events) (kTriggers : A .triggers) (kRing : A .ring) (kSram : A .sram)
    (kReeve : A .reeve) (kSent : A .sent) {s : State} (hs : P s) :
    P s.beginTake := by
  unfold State.beginTake
  repeat first
    | with_reducible assumption | with_reducible apply hc.setStream | with_reducible apply State.accepted_closed hc
    | with_reducible apply State.beginStoreLoss_closed hc | with_reducible apply State.clearFlags_closed hc
    | with_reducible apply State.holeBegin_closed hc | with_reducible apply State.putF_closed hc
    | with_reducible apply State.putPair_closed hc | with_reducible apply State.setTakeState_closed hc
    | with_reducible apply State.showStore_closed hc | with_reducible apply State.startScouts_closed hc
    | with_reducible apply State.startSeqs_closed hc | with_reducible apply State.systemMark_closed hc
    | with_reducible apply State.workSram_closed hc | (with_reducible apply closed_foldl; rotate_left; intro _ _ _)
    | with_reducible apply closed_ite | dsimp only | split | exact Or.inl ‹_› | exact Or.inr rfl
    | with_reducible apply hc.other

theorem State.endSegment_closed (hc : Closed A P) (kRegisters : A .registers) (kPods : A .pods)
    (kFrames : A .frames) (kScouts : A .scouts) (kTake : A .take) (kStreams : A .streams) (kStores : A .stores)
    (kEvents : A .events) (kSent : A .sent) {s : State} (n ending : Nat) (final : Bool) (hs : P s) :
    P (s.endSegment n ending final) := by
  unfold State.endSegment
  repeat first
    | with_reducible assumption | with_reducible apply State.closeStreams_closed hc
    | with_reducible apply State.cutMark_closed hc | with_reducible apply State.oweSegments_closed hc
    | with_reducible apply State.raise_closed hc | with_reducible apply closed_ite | dsimp only | split

theorem State.endTake_closed (hc : Closed A P) (kRegisters : A .registers) (kPlls : A .plls) (kPods : A .pods)
    (kFrames : A .frames) (kScouts : A .scouts) (kSequencers : A .sequencers) (kTake : A .take)
    (kStreams : A .streams) (kStores : A .stores) (kEvents : A .events) (kTriggers : A .triggers)
    (kSidebands : A .sidebands) (kRing : A .ring) (kSent : A .sent) {s : State} (n reason : Nat) (hs : P s) :
    P (s.endTake n reason) := by
  unfold State.endTake
  repeat first
    | with_reducible assumption | with_reducible apply hc.setStore | with_reducible apply hc.setStream
    | with_reducible apply State.closeMarks_closed hc | with_reducible apply State.closeRuns_closed hc
    | with_reducible apply State.endSegment_closed hc | with_reducible apply State.endStoreLoss_closed hc
    | with_reducible apply State.enterStopped_closed hc | with_reducible apply State.learn_closed hc
    | with_reducible apply State.putPair_closed hc | with_reducible apply State.settleSeqs_closed hc
    | with_reducible apply State.systemMark_closed hc | (with_reducible apply closed_foldl; rotate_left; intro _ _ _)
    | with_reducible apply closed_ite | dsimp only | split | exact Or.inl ‹_› | exact Or.inr rfl
    | with_reducible apply hc.other

theorem State.writeSegment_closed (hc : Closed A P) (kTake : A .take) (kStreams : A .streams) (kStores : A .stores)
    {s : State} (u : Nat) (hs : P s) :
    P (s.writeSegment u) := by
  unfold State.writeSegment
  repeat first
    | with_reducible assumption | with_reducible apply hc.setStore | with_reducible apply State.closeMarks_closed hc
    | with_reducible apply State.systemMark_closed hc | with_reducible apply closed_ite | dsimp only | split
    | exact Or.inl ‹_› | exact Or.inr rfl | with_reducible apply hc.other

theorem State.cutMarkDue_closed (hc : Closed A P) (kStreams : A .streams) (kStores : A .stores) {s : State}
    (hs : P s) :
    P s.cutMarkDue := by
  unfold State.cutMarkDue
  repeat first
    | with_reducible assumption | with_reducible apply State.cutMarkAt_closed hc | with_reducible apply closed_ite
    | dsimp only | split

/-! ### Sys2Proof/Machine/Idle.lean -/

theorem State.settleBeat_closed (hc : Closed A P) (kRegisters : A .registers) (kPods : A .pods)
    (kFrames : A .frames) (kScouts : A .scouts) (kSequencers : A .sequencers) (kTake : A .take)
    (kStreams : A .streams) (kStores : A .stores) (kEvents : A .events) (kTriggers : A .triggers) (kRing : A .ring)
    (kSent : A .sent) {s : State} (hs : P s) :
    P s.settleBeat := by
  unfold State.settleBeat
  repeat first
    | with_reducible assumption | with_reducible apply State.catchUpAll_closed hc
    | with_reducible apply State.formTo_closed hc | with_reducible apply State.settleSeqs_closed hc
    | (with_reducible apply closed_foldl; rotate_left; intro _ _ _) | dsimp only

theorem State.idle_closed (hc : Closed A P) (kRegisters : A .registers) (kTime : A .time) (kPods : A .pods)
    (kFrames : A .frames) (kScouts : A .scouts) (kSequencers : A .sequencers) (kTake : A .take)
    (kStreams : A .streams) (kStores : A .stores) (kEvents : A .events) (kTriggers : A .triggers) (kRing : A .ring)
    (kSent : A .sent) {s : State} (hs : P s) :
    P s.idle := by
  unfold State.idle
  repeat first
    | with_reducible assumption | with_reducible apply hc.tick | with_reducible apply State.closeMarks_closed hc
    | with_reducible apply State.drainSystem_closed hc | with_reducible apply State.settleBeat_closed hc
    | with_reducible apply State.settleHolds_closed hc | with_reducible apply closed_ite | dsimp only | split

end Sys2Proof.Machine
end

