-- ==== Sys2Proof/Laws/ClosedCommands.lean ====
section
/-!
SUPPORT. Each command keeps what the primitive updates of its kinds of state keep (Sys2Proof/Laws/Closed.lean): what holds of
the state and is kept by those updates holds of the next state that the command answers.
-/
namespace Sys2Proof.Machine

variable {A : StateKind → Prop} {P : State → Prop}

/-! ### Sys2Proof/Machine/BoardCmds.lean -/

theorem execBoardApply_closed (hc : Closed A P) (kRegisters : A .registers) (kTime : A .time) (kPlls : A .plls)
    (kEvents : A .events) (kBoard : A .board) (kSent : A .sent) {s : State} (hs : P s) :
    nextHas P (execBoardApply s) := by
  unfold execBoardApply
  repeat first
    | with_reducible assumption | with_reducible apply nextHas_next | with_reducible apply State.applyBoard_closed hc
    | with_reducible apply State.endActive_closed hc | with_reducible apply State.onBoard_closed hc
    | with_reducible apply closed_ite | dsimp only | split

theorem execFrameStart_closed (hc : Closed A P) (kRegisters : A .registers) (kTime : A .time) (kEvents : A .events)
    (kBoard : A .board) (kSent : A .sent) {s : State} (hs : P s) :
    nextHas P (execFrameStart s) := by
  unfold execFrameStart
  repeat first
    | with_reducible assumption | with_reducible apply nextHas_next | with_reducible apply State.advanceTo_closed hc
    | with_reducible apply State.beginFrame_closed hc | with_reducible apply State.onBoard_closed hc
    | with_reducible apply closed_ite | dsimp only | split | exact Or.inl ‹_› | exact Or.inr rfl
    | with_reducible apply hc.other

theorem execFrameCrc_closed (hc : Closed A P) (kRegisters : A .registers) (kTime : A .time) (kPlls : A .plls)
    (kEvents : A .events) (kBoard : A .board) (kSent : A .sent) {s : State} (readA readB : Nat) (hs : P s) :
    nextHas P (execFrameCrc readA readB s) := by
  unfold execFrameCrc
  repeat first
    | with_reducible assumption | with_reducible apply nextHas_next | with_reducible apply State.bump_closed hc
    | with_reducible apply State.endActive_closed hc | with_reducible apply State.onBoard_closed hc
    | with_reducible apply State.putF_closed hc | with_reducible apply State.raise_closed hc
    | with_reducible apply State.setBoard_closed hc | with_reducible apply closed_ite | dsimp only | split
    | exact Or.inl ‹_› | exact Or.inr rfl | with_reducible apply hc.other

theorem execLowered_closed (hc : Closed A P) (kRegisters : A .registers) (kBoard : A .board) {s : State} (hs : P s)
    :
    nextHas P (execLowered s) := by
  unfold execLowered
  repeat first
    | with_reducible assumption | with_reducible apply nextHas_next | with_reducible apply State.onBoard_closed hc
    | with_reducible apply State.putF_closed hc | with_reducible apply closed_ite | dsimp only | split

theorem execTe_closed (hc : Closed A P) (kRegisters : A .registers) (kTime : A .time) (kBoard : A .board)
    {s : State} (input : Nat) (rising : Bool) (tick : Nat) (hs : P s) :
    nextHas P (execTe input rising tick s) := by
  unfold execTe
  repeat first
    | with_reducible assumption | with_reducible apply nextHas_next | with_reducible apply hc.tick
    | with_reducible apply State.advanceTo_closed hc | with_reducible apply State.onBoard_closed hc
    | with_reducible apply State.setBoard_closed hc | with_reducible apply closed_ite | dsimp only | split
    | exact Or.inl ‹_› | exact Or.inr rfl | with_reducible apply hc.other

theorem execTeMiss_closed (hc : Closed A P) (kRegisters : A .registers) (kTime : A .time) (kEvents : A .events)
    (kBoard : A .board) (kSent : A .sent) {s : State} (hs : P s) :
    nextHas P (execTeMiss s) := by
  unfold execTeMiss
  repeat first
    | with_reducible assumption | with_reducible apply nextHas_next | with_reducible apply State.advanceTo_closed hc
    | with_reducible apply State.bump_closed hc | with_reducible apply State.onBoard_closed hc
    | with_reducible apply State.raise_closed hc | with_reducible apply State.setBoard_closed hc
    | with_reducible apply closed_ite | dsimp only | split | exact Or.inl ‹_› | exact Or.inr rfl
    | with_reducible apply hc.other

theorem execLineBufferFetch_closed (hc : Closed A P) (kRegisters : A .registers) (kTime : A .time)
    (kStores : A .stores) (kEvents : A .events) (kQueues : A .queues) (kDram : A .dram) (kChannels : A .channels)
    (kBoard : A .board) (kSent : A .sent) {s : State} (hs : P s) :
    nextHas P (execLineBufferFetch s) := by
  unfold execLineBufferFetch
  repeat first
    | with_reducible assumption | with_reducible apply nextHas_next | with_reducible apply State.fetchLines_closed hc
    | with_reducible apply State.onBoard_closed hc | with_reducible apply closed_ite | dsimp only | split

theorem execUnderrun_closed (hc : Closed A P) (kRegisters : A .registers) (kTime : A .time) (kEvents : A .events)
    (kBoard : A .board) (kSent : A .sent) {s : State} (line pixel : Nat) (hs : P s) :
    nextHas P (execUnderrun line pixel s) := by
  unfold execUnderrun
  repeat first
    | with_reducible assumption | with_reducible apply nextHas_next | with_reducible apply State.advanceTo_closed hc
    | with_reducible apply State.bump_closed hc | with_reducible apply State.onBoard_closed hc
    | with_reducible apply State.raise_closed hc | with_reducible apply State.setBoard_closed hc
    | with_reducible apply closed_ite | dsimp only | split | exact Or.inl ‹_› | exact Or.inr rfl
    | with_reducible apply hc.other

theorem execEdpTrainingDone_closed (hc : Closed A P) (kRegisters : A .registers) (kEvents : A .events)
    (kBoard : A .board) (kSent : A .sent) {s : State} (port : Nat) (good : Bool) (hs : P s) :
    nextHas P (execEdpTrainingDone port good s) := by
  unfold execEdpTrainingDone
  repeat first
    | with_reducible assumption | with_reducible apply nextHas_next | with_reducible apply State.onBoard_closed hc
    | with_reducible apply State.raise_closed hc | with_reducible apply State.setOut_closed hc
    | with_reducible apply State.showOut_closed hc | with_reducible apply State.stage_closed hc
    | with_reducible apply closed_ite | dsimp only | split

theorem execEdpTrainRetry_closed (hc : Closed A P) (kRegisters : A .registers) (kTime : A .time) (kBoard : A .board)
    {s : State} (port : Nat) (hs : P s) :
    nextHas P (execEdpTrainRetry port s) := by
  unfold execEdpTrainRetry
  repeat first
    | with_reducible assumption | with_reducible apply nextHas_next | with_reducible apply State.advanceTo_closed hc
    | with_reducible apply State.onBoard_closed hc | with_reducible apply State.setOut_closed hc
    | with_reducible apply State.stage_closed hc | with_reducible apply closed_ite | dsimp only | split
    | exact Or.inl ‹_› | exact Or.inr rfl | with_reducible apply hc.other

theorem execLaneStatusPoll_closed (hc : Closed A P) (kRegisters : A .registers) (kTime : A .time)
    (kEvents : A .events) (kBoard : A .board) (kSent : A .sent) {s : State} (port : Nat) (lost : Bool) (hs : P s) :
    nextHas P (execLaneStatusPoll port lost s) := by
  unfold execLaneStatusPoll
  repeat first
    | with_reducible assumption | with_reducible apply nextHas_next | with_reducible apply State.advanceTo_closed hc
    | with_reducible apply State.bump_closed hc | with_reducible apply State.onBoard_closed hc
    | with_reducible apply State.raise_closed hc | with_reducible apply State.setOut_closed hc
    | with_reducible apply State.showOut_closed hc | with_reducible apply State.stage_closed hc
    | with_reducible apply closed_ite | dsimp only | split | exact Or.inl ‹_› | exact Or.inr rfl
    | with_reducible apply hc.other

theorem execAuxGo_closed (hc : Closed A P) (kRegisters : A .registers) (kBoard : A .board) (kSent : A .sent)
    {s : State} (port kind lenM1 addr : Nat) (hs : P s) :
    nextHas P (execAuxGo port kind lenM1 addr s) := by
  unfold execAuxGo
  repeat first
    | with_reducible assumption | with_reducible apply nextHas_next | with_reducible apply State.auxGo_closed hc
    | with_reducible apply State.onBoard_closed hc | with_reducible apply State.putF_closed hc | dsimp only | split

theorem execAuxDone_closed (hc : Closed A P) (kRegisters : A .registers) (kBoard : A .board) {s : State}
    (result : Nat) (bytes : List Byte) (hs : P s) :
    nextHas P (execAuxDone result bytes s) := by
  unfold execAuxDone
  repeat first
    | with_reducible assumption | with_reducible apply nextHas_next | with_reducible apply State.onBoard_closed hc
    | with_reducible apply State.putF_closed hc | (with_reducible apply closed_foldl; rotate_left; intro _ _ _)
    | with_reducible apply closed_ite | dsimp only | split

theorem execPainterColumn_closed (hc : Closed A P) (kRegisters : A .registers) (kTime : A .time) (kPods : A .pods)
    (kFrames : A .frames) (kScouts : A .scouts) (kSequencers : A .sequencers) (kTake : A .take)
    (kStreams : A .streams) (kStores : A .stores) (kEvents : A .events) (kTriggers : A .triggers) (kRing : A .ring)
    (kBoard : A .board) (kSent : A .sent) {s : State} (k : Nat) (hs : P s) :
    nextHas P (execPainterColumn k s) := by
  unfold execPainterColumn
  repeat first
    | with_reducible assumption | with_reducible apply nextHas_next | with_reducible apply State.advanceTo_closed hc
    | with_reducible apply State.catchUpAll_closed hc | with_reducible apply State.onBoard_closed hc
    | with_reducible apply State.paintColumn_closed hc | with_reducible apply State.settleSeqs_closed hc
    | (with_reducible apply closed_foldl; rotate_left; intro _ _ _) | with_reducible apply closed_ite | dsimp only
    | split

/-! ### Sys2Proof/Machine/QueueCmds.lean -/

theorem execQueuePush_closed (hc : Closed A P) (kRegisters : A .registers) (kStreams : A .streams)
    (kStores : A .stores) (kEvents : A .events) (kQueues : A .queues) (kSram : A .sram) (kChannels : A .channels)
    (kSent : A .sent) {s : State} (q : QueueId) (words : List DWord) (left beat : Nat) (hs : P s) :
    nextHas P (execQueuePush q words left beat s) := by
  unfold execQueuePush
  repeat first
    | with_reducible assumption | with_reducible apply nextHas_next
    | with_reducible apply State.enqueueEvent_closed hc | with_reducible apply State.on_closed hc
    | with_reducible apply State.pushBlock_closed hc | with_reducible apply State.pushPacket_closed hc
    | with_reducible apply closed_ite | dsimp only | split | exact Or.inl ‹_› | exact Or.inr rfl
    | with_reducible apply hc.other

theorem execDramWriterPop_closed (hc : Closed A P) (kRegisters : A .registers) (kTake : A .take)
    (kStores : A .stores) (kEvents : A .events) (kHost : A .host) (kQueues : A .queues) (kChannels : A .channels)
    (kSent : A .sent) {s : State} (u : Nat) (corrected uncorrectable : Nat) (hs : P s) :
    nextHas P (execDramWriterPop u corrected uncorrectable s) := by
  unfold execDramWriterPop
  repeat first
    | with_reducible assumption | with_reducible apply nextHas_next | with_reducible apply hc.setStore
    | with_reducible apply State.noteTorn_closed hc | with_reducible apply State.on_closed hc
    | with_reducible apply State.placeBlock_closed hc | with_reducible apply State.popBlock_closed hc
    | with_reducible apply State.settlePanic_closed hc | with_reducible apply State.takeSlot_closed hc
    | with_reducible apply State.upsetBytes_closed hc | with_reducible apply closed_ite | dsimp only | split
    | exact Or.inl ‹_› | exact Or.inr rfl | with_reducible apply hc.other

theorem execQueuePop_closed (hc : Closed A P) (kRegisters : A .registers) (kStores : A .stores)
    (kEvents : A .events) (kQueues : A .queues) (kChannels : A .channels) (kSent : A .sent) {s : State}
    (q : QueueId) (corrected uncorrectable : Nat) (hs : P s) :
    nextHas P (execQueuePop q corrected uncorrectable s) := by
  unfold execQueuePop
  repeat first
    | with_reducible assumption | with_reducible apply nextHas_next | with_reducible apply State.on_closed hc
    | with_reducible apply State.pop_closed hc | with_reducible apply State.popEntry_closed hc
    | with_reducible apply State.settlePanic_closed hc | with_reducible apply State.writeEvent_closed hc
    | with_reducible apply closed_ite | dsimp only | split | exact Or.inl ‹_› | exact Or.inr rfl
    | with_reducible apply hc.other

/-! ### Sys2Proof/Machine/DramCmds.lean -/

theorem execDramAccess_closed (hc : Closed A P) (kRegisters : A .registers) (kStores : A .stores)
    (kEvents : A .events) (kHost : A .host) (kQueues : A .queues) (kDram : A .dram) (kChannels : A .channels)
    (kBoard : A .board) (kSent : A .sent) {s : State} (u k sub : Nat) (write : Bool) (port piece : Nat)
    (flaws : List (Nat × Nat)) (strobe : Nat) (hs : P s) :
    nextHas P (execDramAccess u k sub write port piece flaws strobe s) := by
  unfold execDramAccess
  repeat first
    | with_reducible assumption | with_reducible apply nextHas_next | with_reducible apply State.accessRead_closed hc
    | with_reducible apply State.accessWrite_closed hc | with_reducible apply State.on_closed hc
    | with_reducible apply closed_ite | dsimp only | split

theorem execPortHeld_closed (hc : Closed A P) (kRegisters : A .registers) (kEvents : A .events)
    (kChannels : A .channels) (kSent : A .sent) {s : State} (u k sub port bank : Nat) (hs : P s) :
    nextHas P (execPortHeld u k sub port bank s) := by
  unfold execPortHeld
  repeat first
    | with_reducible assumption | with_reducible apply nextHas_next | with_reducible apply State.holdPort_closed hc
    | with_reducible apply State.on_closed hc | with_reducible apply closed_ite | dsimp only | split

theorem execActWindow_closed (hc : Closed A P) (kRegisters : A .registers) (kTime : A .time)
    (kChannels : A .channels) {s : State} (u k : Nat) (hs : P s) :
    nextHas P (execActWindow u k s) := by
  unfold execActWindow
  repeat first
    | with_reducible assumption | with_reducible apply nextHas_next | with_reducible apply hc.setChan
    | with_reducible apply State.advanceTo_closed hc | with_reducible apply State.on_closed hc | dsimp only | split
    | exact Or.inl ‹_› | exact Or.inr rfl | with_reducible apply hc.other

theorem execRhTableClear_closed (hc : Closed A P) (kRegisters : A .registers) (kChannels : A .channels) {s : State}
    (u k : Nat) (hs : P s) :
    nextHas P (execRhTableClear u k s) := by
  unfold execRhTableClear
  repeat first
    | with_reducible assumption | with_reducible apply nextHas_next | with_reducible apply hc.setChan
    | with_reducible apply State.on_closed hc | dsimp only | split | exact Or.inl ‹_› | exact Or.inr rfl
    | with_reducible apply hc.other

theorem execNeighbourRefresh_closed (hc : Closed A P) (kRegisters : A .registers) (kChannels : A .channels)
    (kSent : A .sent) {s : State} (u k sub bank row : Nat) (hs : P s) :
    nextHas P (execNeighbourRefresh u k sub bank row s) := by
  unfold execNeighbourRefresh
  repeat first
    | with_reducible assumption | with_reducible apply nextHas_next | with_reducible apply State.on_closed hc
    | with_reducible apply State.refreshNeighbours_closed hc | with_reducible apply closed_ite | dsimp only | split

theorem execRefresh_closed (hc : Closed A P) (kRegisters : A .registers) (kEvents : A .events)
    (kChannels : A .channels) (kSent : A .sent) {s : State} (u k : Nat) (hs : P s) :
    nextHas P (execRefresh u k s) := by
  unfold execRefresh
  repeat first
    | with_reducible assumption | with_reducible apply nextHas_next | with_reducible apply State.bump_closed hc
    | with_reducible apply State.issueRefresh_closed hc | with_reducible apply State.on_closed hc
    | with_reducible apply State.putF_closed hc | with_reducible apply State.raise_closed hc
    | with_reducible apply State.startInterval_closed hc | with_reducible apply closed_ite | dsimp only | split

theorem execMr4Read_closed (hc : Closed A P) (kRegisters : A .registers) (kEvents : A .events)
    (kChannels : A .channels) (kSent : A .sent) {s : State} (u k code : Nat) (above : Bool) (hs : P s) :
    nextHas P (execMr4Read u k code above s) := by
  unfold execMr4Read
  repeat first
    | with_reducible assumption | with_reducible apply nextHas_next | with_reducible apply hc.setChan
    | with_reducible apply State.on_closed hc | with_reducible apply State.putF_closed hc
    | with_reducible apply State.raise_closed hc | with_reducible apply State.requestSlot_closed hc
    | with_reducible apply closed_ite | dsimp only | split | exact Or.inl ‹_› | exact Or.inr rfl
    | with_reducible apply hc.other

theorem execPowerDown_closed (hc : Closed A P) (kRegisters : A .registers) (kChannels : A .channels)
    (kSent : A .sent) {s : State} (u k sub rank : Nat) (hs : P s) :
    nextHas P (execPowerDown u k sub rank s) := by
  unfold execPowerDown
  repeat first
    | with_reducible assumption | with_reducible apply nextHas_next | with_reducible apply hc.setChan
    | with_reducible apply State.emit_closed hc | with_reducible apply State.on_closed hc
    | with_reducible apply closed_ite | dsimp only | split | exact Or.inl ‹_› | exact Or.inr rfl
    | with_reducible apply hc.other

theorem execSelfRefreshEntry_closed (hc : Closed A P) (kRegisters : A .registers) (kTime : A .time)
    (kSent : A .sent) {s : State} (u k : Nat) (hs : P s) :
    nextHas P (execSelfRefreshEntry u k s) := by
  unfold execSelfRefreshEntry
  repeat first
    | with_reducible assumption | with_reducible apply nextHas_next | with_reducible apply State.advanceTo_closed hc
    | with_reducible apply State.emit_closed hc | with_reducible apply State.on_closed hc
    | with_reducible apply State.putF_closed hc | with_reducible apply closed_ite | dsimp only | split

theorem execSelfRefreshExit_closed (hc : Closed A P) (kRegisters : A .registers) (kChannels : A .channels)
    (kSent : A .sent) {s : State} (u k : Nat) (hs : P s) :
    nextHas P (execSelfRefreshExit u k s) := by
  unfold execSelfRefreshExit
  repeat first
    | with_reducible assumption | with_reducible apply nextHas_next
    | with_reducible apply State.leaveSelfRefresh_closed hc | with_reducible apply State.on_closed hc | dsimp only
    | split

theorem execScrubRead_closed (hc : Closed A P) (kRegisters : A .registers) (kStores : A .stores)
    (kEvents : A .events) (kHost : A .host) (kQueues : A .queues) (kDram : A .dram) (kChannels : A .channels)
    (kBoard : A .board) (kSent : A .sent) {s : State} (u k sub : Nat) (flaws : List (Nat × Nat)) (hs : P s) :
    nextHas P (execScrubRead u k sub flaws s) := by
  unfold execScrubRead
  repeat first
    | with_reducible assumption | with_reducible apply nextHas_next | with_reducible apply hc.setChan
    | with_reducible apply State.accessRead_closed hc | with_reducible apply State.on_closed hc
    | with_reducible apply closed_ite | dsimp only | split | exact Or.inl ‹_› | exact Or.inr rfl
    | with_reducible apply hc.other

theorem execRetrain_closed (hc : Closed A P) (kRegisters : A .registers) (kStores : A .stores) (kEvents : A .events)
    (kDram : A .dram) (kChannels : A .channels) (kBoard : A .board) (kSent : A .sent) {s : State} (u k : Nat)
    (hs : P s) :
    nextHas P (execRetrain u k s) := by
  unfold execRetrain
  repeat first
    | with_reducible assumption | with_reducible apply nextHas_next | with_reducible apply State.on_closed hc
    | with_reducible apply State.retrain_closed hc | dsimp only | split

theorem execTrainingStepDone_closed (hc : Closed A P) (kRegisters : A .registers) (kPlls : A .plls)
    (kStores : A .stores) (kEvents : A .events) (kQueues : A .queues) (kSram : A .sram) (kMarch : A .march)
    (kDram : A .dram) (kChannels : A .channels) (kBoard : A .board) (kBoot : A .boot) (kSent : A .sent) {s : State}
    (u k : Nat) (r : StepResult) (hs : P s) :
    nextHas P (execTrainingStepDone u k r s) := by
  unfold execTrainingStepDone
  repeat first
    | with_reducible assumption | with_reducible apply nextHas_next | with_reducible apply State.identify_closed hc
    | with_reducible apply State.nextPeriodic_closed hc | with_reducible apply State.nextStep_closed hc
    | with_reducible apply State.noSetting_closed hc | with_reducible apply State.on_closed hc
    | with_reducible apply State.setChanState_closed hc | with_reducible apply State.settleBoot_closed hc
    | with_reducible apply closed_ite | dsimp only | split | exact Or.inl ‹_› | exact Or.inr rfl
    | with_reducible apply hc.other

theorem execClearingDone_closed (hc : Closed A P) (kRegisters : A .registers) (kStores : A .stores)
    (kEvents : A .events) (kQueues : A .queues) (kSram : A .sram) (kMarch : A .march) (kDram : A .dram)
    (kChannels : A .channels) (kBoard : A .board) (kBoot : A .boot) (kSent : A .sent) {s : State} (u k : Nat)
    (hs : P s) :
    nextHas P (execClearingDone u k s) := by
  unfold execClearingDone
  repeat first
    | with_reducible assumption | with_reducible apply nextHas_next | with_reducible apply hc.setChan
    | with_reducible apply State.on_closed hc | with_reducible apply State.raise_closed hc
    | with_reducible apply State.setChanState_closed hc | with_reducible apply State.settleBoot_closed hc
    | with_reducible apply State.settleLayout_closed hc | with_reducible apply State.settleWm_closed hc
    | with_reducible apply State.settlePanicOf_closed hc | with_reducible apply State.zeroDram_closed hc
    | with_reducible apply closed_ite | dsimp only | split
    | exact Or.inl ‹_› | exact Or.inr rfl | with_reducible apply hc.other

theorem execPeriodicRetrain_closed (hc : Closed A P) (kRegisters : A .registers) (kChannels : A .channels)
    {s : State} (u k : Nat) (hs : P s) :
    nextHas P (execPeriodicRetrain u k s) := by
  unfold execPeriodicRetrain
  repeat first
    | with_reducible assumption | with_reducible apply nextHas_next | with_reducible apply State.on_closed hc
    | with_reducible apply State.requestSlot_closed hc | with_reducible apply closed_ite | dsimp only | split

theorem execPeriodicStepAbandon_closed (hc : Closed A P) (kRegisters : A .registers) (kChannels : A .channels)
    {s : State} (u k : Nat) (hs : P s) :
    nextHas P (execPeriodicStepAbandon u k s) := by
  unfold execPeriodicStepAbandon
  repeat first
    | with_reducible assumption | with_reducible apply nextHas_next
    | with_reducible apply State.abandonPeriodic_closed hc | with_reducible apply State.on_closed hc | dsimp only
    | split

theorem execFrequencyChangeRelease_closed (hc : Closed A P) (kRegisters : A .registers) (kPlls : A .plls)
    (kChannels : A .channels) {s : State} (p : Page) (hs : P s) :
    nextHas P (execFrequencyChangeRelease p s) := by
  unfold execFrequencyChangeRelease
  repeat first
    | with_reducible assumption | with_reducible apply nextHas_next
    | with_reducible apply State.abandonUnder_closed hc | with_reducible apply State.applyPll_closed hc
    | with_reducible apply State.on_closed hc | with_reducible apply State.putF_closed hc
    | with_reducible apply closed_ite | dsimp only | split

theorem execAlertN_closed (hc : Closed A P) (kRegisters : A .registers) (kStores : A .stores) (kEvents : A .events)
    (kQueues : A .queues) (kDram : A .dram) (kChannels : A .channels) (kBoard : A .board) (kSent : A .sent)
    {s : State} (u k : Nat) (hs : P s) :
    nextHas P (execAlertN u k s) := by
  unfold execAlertN
  repeat first
    | with_reducible assumption | with_reducible apply nextHas_next | with_reducible apply hc.setChan
    | with_reducible apply State.abandonPeriodic_closed hc | with_reducible apply State.bump_closed hc
    | with_reducible apply State.failChannel_closed hc | with_reducible apply State.on_closed hc
    | with_reducible apply closed_ite | dsimp only | split | exact Or.inl ‹_› | exact Or.inr rfl
    | with_reducible apply hc.other

theorem execAlertNRelease_closed (hc : Closed A P) (kRegisters : A .registers) (kEvents : A .events)
    (kChannels : A .channels) (kSent : A .sent) {s : State} (u k : Nat) (hs : P s) :
    nextHas P (execAlertNRelease u k s) := by
  unfold execAlertNRelease
  repeat first
    | with_reducible assumption | with_reducible apply nextHas_next | with_reducible apply hc.setChan
    | with_reducible apply State.bump_closed hc | with_reducible apply State.emit_closed hc
    | with_reducible apply State.on_closed hc | with_reducible apply State.raise_closed hc
    | with_reducible apply State.replaySub_closed hc | with_reducible apply closed_ite | dsimp only | split
    | exact Or.inl ‹_› | exact Or.inr rfl | with_reducible apply hc.other

theorem execCommandAcknowledged_closed (hc : Closed A P) (kRegisters : A .registers) (kChannels : A .channels)
    {s : State} (u k sub : Nat) (hs : P s) :
    nextHas P (execCommandAcknowledged u k sub s) := by
  unfold execCommandAcknowledged
  repeat first
    | with_reducible assumption | with_reducible apply nextHas_next | with_reducible apply hc.setChan
    | with_reducible apply State.on_closed hc | with_reducible apply closed_ite | dsimp only | split
    | exact Or.inl ‹_› | exact Or.inr rfl | with_reducible apply hc.other

theorem execLayoutSwitch_closed (hc : Closed A P) (kRegisters : A .registers) (kTake : A .take)
    (kStores : A .stores) (kEvents : A .events) (kDram : A .dram) (kChannels : A .channels) (kBoard : A .board)
    (kSent : A .sent) {s : State} (u : Nat) (hs : P s) :
    nextHas P (execLayoutSwitch u s) := by
  unfold execLayoutSwitch
  repeat first
    | with_reducible assumption | with_reducible apply nextHas_next | with_reducible apply hc.setStore
    | with_reducible apply State.dropRequests_closed hc | with_reducible apply State.on_closed hc
    | with_reducible apply State.settleLayout_closed hc | with_reducible apply State.switchStore_closed hc
    | with_reducible apply closed_ite | dsimp only | split | exact Or.inl ‹_› | exact Or.inr rfl
    | with_reducible apply hc.other

/-! ### Sys2Proof/Machine/EventCmds.lean -/

theorem execEventEnqueue_closed (hc : Closed A P) (kRegisters : A .registers) (kEvents : A .events)
    (kQueues : A .queues) (kSram : A .sram) (kSent : A .sent) {s : State} (origin : Nat) (hs : P s) :
    nextHas P (execEventEnqueue origin s) := by
  unfold execEventEnqueue
  repeat first
    | with_reducible assumption | with_reducible apply nextHas_next
    | with_reducible apply State.enqueueEvent_closed hc | with_reducible apply State.finish_closed hc | dsimp only
    | split

theorem execEventRingWrite_closed (hc : Closed A P) (kRegisters : A .registers) (kEvents : A .events)
    (kQueues : A .queues) (kSent : A .sent) {s : State} (corrected uncorrectable : Nat) (hs : P s) :
    nextHas P (execEventRingWrite corrected uncorrectable s) := by
  unfold execEventRingWrite
  repeat first
    | with_reducible assumption | with_reducible apply nextHas_next | with_reducible apply State.finish_closed hc
    | with_reducible apply State.writeEvent_closed hc | dsimp only | split

theorem execIrqModExpire_closed (hc : Closed A P) (kRegisters : A .registers) (kTime : A .time)
    (kEvents : A .events) (kSent : A .sent) {s : State} (vector : Nat) (hs : P s) :
    nextHas P (execIrqModExpire vector s) := by
  unfold execIrqModExpire
  repeat first
    | with_reducible assumption | with_reducible apply nextHas_next | with_reducible apply State.advanceTo_closed hc
    | with_reducible apply State.serveVector_closed hc | dsimp only | split | exact Or.inl ‹_› | exact Or.inr rfl
    | with_reducible apply hc.other

theorem execRecordsLost_closed (hc : Closed A P) (kRegisters : A .registers) (kEvents : A .events)
    (kQueues : A .queues) (kSram : A .sram) (kSent : A .sent) {s : State} (hs : P s) :
    nextHas P (execRecordsLost s) := by
  unfold execRecordsLost
  repeat first
    | with_reducible assumption | with_reducible apply nextHas_next | with_reducible apply State.finish_closed hc
    | with_reducible apply State.reportLost_closed hc | dsimp only | split

theorem execHoldoffEnd_closed (hc : Closed A P) (kTime : A .time) (kEvents : A .events) {s : State} (source : Nat)
    (hs : P s) :
    nextHas P (execHoldoffEnd source s) := by
  unfold execHoldoffEnd
  repeat first
    | with_reducible assumption | with_reducible apply nextHas_next | with_reducible apply State.advanceTo_closed hc
    | with_reducible apply State.flushUnrec_closed hc | dsimp only | split | exact Or.inl ‹_› | exact Or.inr rfl
    | with_reducible apply hc.other

theorem execEventsEnSet_closed (hc : Closed A P) (kRegisters : A .registers) (kEvents : A .events) (kSent : A .sent)
    {s : State} (hs : P s) :
    nextHas P (execEventsEnSet s) := by
  unfold execEventsEnSet
  repeat first
    | with_reducible assumption | with_reducible apply nextHas_next
    | with_reducible apply State.enableEvents_closed hc | dsimp only | split

theorem execEventsEnClear_closed (hc : Closed A P) (kRegisters : A .registers) {s : State} (hs : P s) :
    nextHas P (execEventsEnClear s) := by
  unfold execEventsEnClear
  repeat first
    | with_reducible assumption | with_reducible apply nextHas_next
    | with_reducible apply State.disableEvents_closed hc | dsimp only | split

theorem execEventsFreed_closed (hc : Closed A P) (kRegisters : A .registers) (kEvents : A .events) (kSent : A .sent)
    {s : State} (tally : Nat) (hs : P s) :
    nextHas P (execEventsFreed tally s) := by
  unfold execEventsFreed
  repeat first
    | with_reducible assumption | with_reducible apply nextHas_next | with_reducible apply State.freeEvents_closed hc
    | dsimp only | split

/-! ### Sys2Proof/Machine/HostCmds.lean -/

theorem execBar2Read_closed (hc : Closed A P) (kRegisters : A .registers) (kEvents : A .events)
    (kChannels : A .channels) (kSent : A .sent) {s : State} (off len : Nat) (hs : P s) :
    nextHas P (execBar2Read off len s) := by
  unfold execBar2Read
  repeat first
    | with_reducible assumption | with_reducible apply nextHas_next | exact nextHas_fault _
    | with_reducible apply State.bar2Read_closed hc | with_reducible apply closed_ite | dsimp only | split

theorem execBar2Write_closed (hc : Closed A P) (kRegisters : A .registers) (kStores : A .stores)
    (kEvents : A .events) (kChannels : A .channels) (kBoard : A .board) (kSent : A .sent) {s : State} (off : Nat)
    (bytes : List Byte) (poisoned : Bool) (hs : P s) :
    nextHas P (execBar2Write off bytes poisoned s) := by
  unfold execBar2Write
  repeat first
    | with_reducible assumption | with_reducible apply nextHas_next | exact nextHas_fault _
    | with_reducible apply State.bar2Write_closed hc | with_reducible apply State.endLowering_closed hc
    | with_reducible apply closed_ite | dsimp only | split

theorem execReqMajor_closed (hc : Closed A P) (kRegisters : A .registers) {s : State} (major : Nat) (hs : P s) :
    nextHas P (execReqMajor major s) := by
  unfold execReqMajor
  repeat first
    | with_reducible assumption | with_reducible apply nextHas_next | with_reducible apply State.requestHif_closed hc
    | dsimp only | split

theorem execCmdEnSet_closed (hc : Closed A P) (kRegisters : A .registers) (kHost : A .host) {s : State} (hs : P s) :
    nextHas P (execCmdEnSet s) := by
  unfold execCmdEnSet
  repeat first
    | with_reducible assumption | with_reducible apply nextHas_next | with_reducible apply State.enableCmd_closed hc
    | dsimp only | split

theorem execCmdEnClear_closed (hc : Closed A P) (kRegisters : A .registers) (kHost : A .host) {s : State} (hs : P s)
    :
    nextHas P (execCmdEnClear s) := by
  unfold execCmdEnClear
  repeat first
    | with_reducible assumption | with_reducible apply nextHas_next | with_reducible apply State.disableCmd_closed hc
    | dsimp only | split

theorem execDrnEnSet_closed (hc : Closed A P) (kRegisters : A .registers) (kEvents : A .events) (kHost : A .host)
    (kSent : A .sent) {s : State} (hs : P s) :
    nextHas P (execDrnEnSet s) := by
  unfold execDrnEnSet
  repeat first
    | with_reducible assumption | with_reducible apply nextHas_next | with_reducible apply State.enableDrn_closed hc
    | dsimp only | split

theorem execDrnEnClear_closed (hc : Closed A P) (kRegisters : A .registers) (kEvents : A .events) (kHost : A .host)
    (kSent : A .sent) {s : State} (hs : P s) :
    nextHas P (execDrnEnClear s) := by
  unfold execDrnEnClear
  repeat first
    | with_reducible assumption | with_reducible apply nextHas_next | with_reducible apply State.disableDrn_closed hc
    | dsimp only | split

theorem execCplEnSet_closed (hc : Closed A P) (kRegisters : A .registers) {s : State} (hs : P s) :
    nextHas P (execCplEnSet s) := by
  unfold execCplEnSet
  repeat first
    | with_reducible assumption | with_reducible apply nextHas_next | with_reducible apply State.enableCpl_closed hc
    | dsimp only | split

theorem execCplEnClear_closed (hc : Closed A P) (kRegisters : A .registers) (kHost : A .host) {s : State} (hs : P s)
    :
    nextHas P (execCplEnClear s) := by
  unfold execCplEnClear
  repeat first
    | with_reducible assumption | with_reducible apply nextHas_next | with_reducible apply State.disableCpl_closed hc
    | dsimp only | split

theorem execHostCmdPosted_closed (hc : Closed A P) (kRegisters : A .registers) (kEvents : A .events)
    (kSent : A .sent) {s : State} (tally : Nat) (hs : P s) :
    nextHas P (execHostCmdPosted tally s) := by
  unfold execHostCmdPosted
  repeat first
    | with_reducible assumption | with_reducible apply nextHas_next | with_reducible apply State.postTally_closed hc
    | dsimp only | split

theorem execHostDrnPosted_closed (hc : Closed A P) (kRegisters : A .registers) (kEvents : A .events)
    (kSent : A .sent) {s : State} (tally : Nat) (hs : P s) :
    nextHas P (execHostDrnPosted tally s) := by
  unfold execHostDrnPosted
  repeat first
    | with_reducible assumption | with_reducible apply nextHas_next | with_reducible apply State.postTally_closed hc
    | dsimp only | split

theorem execHostCplFreed_closed (hc : Closed A P) (kRegisters : A .registers) {s : State} (tally : Nat) (hs : P s) :
    nextHas P (execHostCplFreed tally s) := by
  unfold execHostCplFreed
  repeat first
    | with_reducible assumption | with_reducible apply nextHas_next | with_reducible apply State.putF_closed hc
    | dsimp only | split

theorem execCommandFetch_closed (hc : Closed A P) (kRegisters : A .registers) (kEvents : A .events)
    (kHost : A .host) (kSent : A .sent) {s : State} (bytes : List Byte) (hs : P s) :
    nextHas P (execCommandFetch bytes s) := by
  unfold execCommandFetch
  repeat first
    | with_reducible assumption | with_reducible apply nextHas_next
    | with_reducible apply State.fetchCommand_closed hc | dsimp only | split

theorem execDrainDescriptorFetch_closed (hc : Closed A P) (kRegisters : A .registers) (kEvents : A .events)
    (kHost : A .host) (kChannels : A .channels) (kSent : A .sent) {s : State} (bytes : List Byte) (hs : P s) :
    nextHas P (execDrainDescriptorFetch bytes s) := by
  unfold execDrainDescriptorFetch
  repeat first
    | with_reducible assumption | with_reducible apply nextHas_next | with_reducible apply State.fetchDrain_closed hc
    | dsimp only | split

theorem execFetchTimeout_closed (hc : Closed A P) (kRegisters : A .registers) (kEvents : A .events)
    (kSent : A .sent) {s : State} (drain : Bool) (hs : P s) :
    nextHas P (execFetchTimeout drain s) := by
  unfold execFetchTimeout
  repeat first
    | with_reducible assumption | with_reducible apply nextHas_next | with_reducible apply State.haltRing_closed hc
    | with_reducible apply closed_ite | dsimp only | split

theorem execCompletionWrite_closed (hc : Closed A P) (kRegisters : A .registers) (kEvents : A .events)
    (kHost : A .host) (kSent : A .sent) {s : State} (hs : P s) :
    nextHas P (execCompletionWrite s) := by
  unfold execCompletionWrite
  repeat first
    | with_reducible assumption | with_reducible apply nextHas_next | with_reducible apply State.writeCpl_closed hc
    | dsimp only | split

theorem execNop_closed (hc : Closed A P) (kRegisters : A .registers) (kEvents : A .events) (kHost : A .host)
    (kSent : A .sent) {s : State} (hs : P s) :
    nextHas P (execNop s) := by
  unfold execNop
  repeat first
    | with_reducible assumption | with_reducible apply nextHas_next | with_reducible apply State.endCommand_closed hc
    | with_reducible apply State.runCommand_closed hc | with_reducible intro _ | dsimp only | split

theorem execStatusCommand_closed (hc : Closed A P) (kRegisters : A .registers) (kEvents : A .events)
    (kHost : A .host) (kSent : A .sent) {s : State} (hs : P s) :
    nextHas P (execStatusCommand s) := by
  unfold execStatusCommand
  repeat first
    | with_reducible assumption | with_reducible apply nextHas_next | with_reducible apply State.endCommand_closed hc
    | with_reducible apply State.runCommand_closed hc | with_reducible intro _ | dsimp only | split

theorem execFence_closed (hc : Closed A P) (kRegisters : A .registers) (kEvents : A .events) (kHost : A .host)
    (kSent : A .sent) {s : State} (hs : P s) :
    nextHas P (execFence s) := by
  unfold execFence
  repeat first
    | with_reducible assumption | with_reducible apply nextHas_next | with_reducible apply State.runCommand_closed hc
    | with_reducible apply State.settleFence_closed hc | with_reducible apply State.settleTally_closed hc
    | with_reducible intro _ | dsimp only | split | exact Or.inl ‹_› | exact Or.inr rfl
    | with_reducible apply hc.other

theorem execDrainAbort_closed (hc : Closed A P) (kRegisters : A .registers) (kEvents : A .events) (kHost : A .host)
    (kSent : A .sent) {s : State} (hs : P s) :
    nextHas P (execDrainAbort s) := by
  unfold execDrainAbort
  repeat first
    | with_reducible assumption | with_reducible apply nextHas_next | with_reducible apply State.endCommand_closed hc
    | with_reducible apply State.endDrain_closed hc | with_reducible apply State.runCommand_closed hc
    | (with_reducible apply closed_foldl; rotate_left; intro _ _ _) | with_reducible intro _ | dsimp only | split

theorem execBadOpcode_closed (hc : Closed A P) (kRegisters : A .registers) (kEvents : A .events) (kHost : A .host)
    (kSent : A .sent) {s : State} (hs : P s) :
    nextHas P (execBadOpcode s) := by
  unfold execBadOpcode
  repeat first
    | with_reducible assumption | with_reducible apply nextHas_next | with_reducible apply State.endCommand_closed hc
    | with_reducible apply closed_ite | dsimp only | split | exact Or.inl ‹_› | exact Or.inr rfl
    | with_reducible apply hc.other

theorem execDrainBlock_closed (hc : Closed A P) (kRegisters : A .registers) (kEvents : A .events) (kHost : A .host)
    (kChannels : A .channels) (kSent : A .sent) {s : State} (u : Nat) (hs : P s) :
    nextHas P (execDrainBlock u s) := by
  unfold execDrainBlock
  repeat first
    | with_reducible assumption | with_reducible apply nextHas_next | with_reducible apply State.drainBlock_closed hc
    | with_reducible apply State.on_closed hc | dsimp only | split

theorem execFunctionLevelReset_closed (hc : Closed A P) (kRegisters : A .registers) (kEvents : A .events)
    (kHost : A .host) (kSent : A .sent) {s : State} (hs : P s) :
    nextHas P (execFunctionLevelReset s) := by
  unfold execFunctionLevelReset
  repeat first
    | with_reducible assumption | with_reducible apply nextHas_next | with_reducible apply State.bump_closed hc
    | with_reducible apply State.dropHost_closed hc | with_reducible apply State.putF_closed hc | dsimp only | split

theorem execHostLinkLoss_closed (hc : Closed A P) (kRegisters : A .registers) (kEvents : A .events)
    (kHost : A .host) (kSent : A .sent) {s : State} (hs : P s) :
    nextHas P (execHostLinkLoss s) := by
  unfold execHostLinkLoss
  repeat first
    | with_reducible assumption | with_reducible apply nextHas_next | with_reducible apply hc.clearRegs
    | with_reducible apply State.bump_closed hc | with_reducible apply State.dropHost_closed hc | dsimp only | split
    | exact Or.inl ‹_› | exact Or.inr rfl | with_reducible apply hc.other

theorem execLinkChanged_closed (hc : Closed A P) (kRegisters : A .registers) (kEvents : A .events) (kHost : A .host)
    (kSent : A .sent) {s : State} (speed width : Nat) (flit reversed : Bool) (hs : P s) :
    nextHas P (execLinkChanged speed width flit reversed s) := by
  unfold execLinkChanged
  repeat first
    | with_reducible assumption | with_reducible apply nextHas_next | with_reducible apply State.bump_closed hc
    | with_reducible apply State.putF_closed hc | with_reducible apply State.reportLink_closed hc
    | with_reducible apply State.showLink_closed hc | with_reducible apply closed_ite | dsimp only | split
    | exact Or.inl ‹_› | exact Or.inr rfl | with_reducible apply hc.other

theorem execBusMasterEnable_closed (hc : Closed A P) (kRegisters : A .registers) (kEvents : A .events)
    (kHost : A .host) (kSent : A .sent) {s : State} (bme d3 : Bool) (hs : P s) :
    nextHas P (execBusMasterEnable bme d3 s) := by
  unfold execBusMasterEnable
  repeat first
    | with_reducible assumption | with_reducible apply nextHas_next | with_reducible apply State.reportLink_closed hc
    | with_reducible apply State.serveVectors_closed hc | with_reducible apply State.showLink_closed hc | dsimp only
    | split | exact Or.inl ‹_› | exact Or.inr rfl | with_reducible apply hc.other

/-! ### Sys2Proof/Machine/PodCmds.lean -/

theorem execLinkRetry_closed (hc : Closed A P) (kRegisters : A .registers) (kTime : A .time) (kPods : A .pods)
    (kFrames : A .frames) (kScouts : A .scouts) (kSequencers : A .sequencers) (kTake : A .take)
    (kStreams : A .streams) (kStores : A .stores) (kEvents : A .events) (kTriggers : A .triggers) (kRing : A .ring)
    (kSent : A .sent) {s : State} (u f : Nat) (hs : P s) :
    nextHas P (execLinkRetry u f s) := by
  unfold execLinkRetry
  repeat first
    | with_reducible assumption | with_reducible apply nextHas_next | with_reducible apply State.advanceTo_closed hc
    | with_reducible apply State.onPod_closed hc | with_reducible apply State.startLinkUp_closed hc
    | with_reducible apply closed_ite | dsimp only | split | exact Or.inl ‹_› | exact Or.inr rfl
    | with_reducible apply hc.other

theorem execBlockLock_closed (hc : Closed A P) (kRegisters : A .registers) (kPods : A .pods) (kFrames : A .frames)
    (kScouts : A .scouts) (kSequencers : A .sequencers) (kTake : A .take) (kStreams : A .streams)
    (kStores : A .stores) (kEvents : A .events) (kTriggers : A .triggers) (kRing : A .ring) (kSent : A .sent)
    {s : State} (u f : Nat) (lane : Lane) (hs : P s) :
    nextHas P (execBlockLock u f lane s) := by
  unfold execBlockLock
  repeat first
    | with_reducible assumption | with_reducible apply nextHas_next | with_reducible apply hc.setPod
    | with_reducible apply State.laneLocked_closed hc | with_reducible apply State.onPod_closed hc
    | with_reducible apply closed_ite | dsimp only | split | exact Or.inl ‹_› | exact Or.inr rfl
    | with_reducible apply hc.other

theorem execLinkUpAbandon_closed (hc : Closed A P) (kRegisters : A .registers) (kTime : A .time) (kPods : A .pods)
    (kFrames : A .frames) (kScouts : A .scouts) (kSequencers : A .sequencers) (kTake : A .take)
    (kStreams : A .streams) (kStores : A .stores) (kEvents : A .events) (kTriggers : A .triggers) (kRing : A .ring)
    (kSent : A .sent) {s : State} (u f : Nat) (hs : P s) :
    nextHas P (execLinkUpAbandon u f s) := by
  unfold execLinkUpAbandon
  repeat first
    | with_reducible assumption | with_reducible apply nextHas_next | with_reducible apply State.advanceTo_closed hc
    | with_reducible apply State.linkUpFails_closed hc | with_reducible apply State.onPod_closed hc | dsimp only
    | split | exact Or.inl ‹_› | exact Or.inr rfl | with_reducible apply hc.other

theorem execStatus_closed (hc : Closed A P) (kRegisters : A .registers) (kPods : A .pods) (kFrames : A .frames)
    (kScouts : A .scouts) (kSequencers : A .sequencers) (kTake : A .take) (kStreams : A .streams)
    (kStores : A .stores) (kEvents : A .events) (kTriggers : A .triggers) (kRing : A .ring) (kSent : A .sent)
    {s : State} (u f : Nat) (lane : Lane) (payload : Nat) (hs : P s) :
    nextHas P (execStatus u f lane payload s) := by
  unfold execStatus
  repeat first
    | with_reducible assumption | with_reducible apply nextHas_next | with_reducible apply State.bump_closed hc
    | with_reducible apply State.header_closed hc | with_reducible apply State.onPod_closed hc
    | with_reducible apply State.podReply_closed hc | with_reducible apply State.putF_closed hc
    | with_reducible apply State.raise_closed hc | with_reducible apply State.resend_closed hc
    | with_reducible apply closed_ite | dsimp only | split | exact Or.inl ‹_› | exact Or.inr rfl
    | with_reducible apply hc.other

theorem execReplyTimeout_closed (hc : Closed A P) (kRegisters : A .registers) (kPods : A .pods)
    (kFrames : A .frames) (kScouts : A .scouts) (kSequencers : A .sequencers) (kTake : A .take)
    (kStreams : A .streams) (kStores : A .stores) (kEvents : A .events) (kTriggers : A .triggers) (kRing : A .ring)
    (kSent : A .sent) {s : State} (u f : Nat) (hs : P s) :
    nextHas P (execReplyTimeout u f s) := by
  unfold execReplyTimeout
  repeat first
    | with_reducible assumption | with_reducible apply nextHas_next | with_reducible apply State.onPod_closed hc
    | with_reducible apply State.resend_closed hc | dsimp only | split

theorem execPodCmdSend_closed (hc : Closed A P) (kRegisters : A .registers) (kPods : A .pods) (kFrames : A .frames)
    (kScouts : A .scouts) (kSequencers : A .sequencers) (kTake : A .take) (kStreams : A .streams)
    (kStores : A .stores) (kEvents : A .events) (kTriggers : A .triggers) (kRing : A .ring) (kSent : A .sent)
    {s : State} (u f : Nat) (hs : P s) :
    nextHas P (execPodCmdSend u f s) := by
  unfold execPodCmdSend
  repeat first
    | with_reducible assumption | with_reducible apply nextHas_next | with_reducible apply State.onPod_closed hc
    | with_reducible apply State.podCommandSend_closed hc | dsimp only | split

theorem execIdle_closed (hc : Closed A P) (kRegisters : A .registers) (kPods : A .pods) (kFrames : A .frames)
    (kScouts : A .scouts) (kSequencers : A .sequencers) (kTake : A .take) (kStreams : A .streams)
    (kStores : A .stores) (kEvents : A .events) (kTriggers : A .triggers) (kRing : A .ring) (kSent : A .sent)
    {s : State} (u f : Nat) (lane : Lane) (hs : P s) :
    nextHas P (execIdle u f lane s) := by
  unfold execIdle
  repeat first
    | with_reducible assumption | with_reducible apply nextHas_next | with_reducible apply State.header_closed hc
    | with_reducible apply State.onPod_closed hc | with_reducible apply closed_ite | dsimp only | split

theorem execTypeError_closed (hc : Closed A P) (kRegisters : A .registers) (kPods : A .pods) (kFrames : A .frames)
    (kScouts : A .scouts) (kSequencers : A .sequencers) (kTake : A .take) (kStreams : A .streams)
    (kStores : A .stores) (kEvents : A .events) (kTriggers : A .triggers) (kRing : A .ring) (kSent : A .sent)
    {s : State} (u f : Nat) (lane : Lane) (hs : P s) :
    nextHas P (execTypeError u f lane s) := by
  unfold execTypeError
  repeat first
    | with_reducible assumption | with_reducible apply nextHas_next | with_reducible apply State.onPod_closed hc
    | with_reducible apply State.typeError_closed hc | with_reducible apply closed_ite | dsimp only | split

theorem State.dropSkewed_closed (hc : Closed A P) (kRegisters : A .registers) (kPods : A .pods) (kFrames : A .frames)
    (kScouts : A .scouts) (kSequencers : A .sequencers) (kTake : A .take) (kStreams : A .streams)
    (kStores : A .stores) (kEvents : A .events) (kTriggers : A .triggers) (kRing : A .ring) (kSent : A .sent)
    {s : State} (u f : Nat) (hs : P s) :
    P (s.dropSkewed u f) := by
  unfold State.dropSkewed
  repeat first
    | with_reducible assumption | with_reducible apply State.bump_closed hc
    | with_reducible apply State.loseLane_closed hc
    | with_reducible apply closed_ite | dsimp only | split

theorem execMarker_closed (hc : Closed A P) (kRegisters : A .registers) (kTime : A .time) (kPods : A .pods)
    (kFrames : A .frames) (kScouts : A .scouts) (kSequencers : A .sequencers) (kTake : A .take)
    (kStreams : A .streams) (kStores : A .stores) (kEvents : A .events) (kTriggers : A .triggers) (kRing : A .ring)
    (kSent : A .sent) {s : State} (u f : Nat) (lane : Lane) (slot pos laneId mode phase tick : Nat) (hs : P s) :
    nextHas P (execMarker u f lane slot pos laneId mode phase tick s) := by
  unfold execMarker
  repeat first
    | with_reducible assumption | with_reducible apply nextHas_next | with_reducible apply hc.setPod
    | with_reducible apply hc.tick | with_reducible apply State.advanceTo_closed hc
    | with_reducible apply State.disagree_closed hc | with_reducible apply State.header_closed hc
    | with_reducible apply State.dropSkewed_closed hc | with_reducible apply State.onPod_closed hc | with_reducible apply State.showMode_closed hc
    | with_reducible apply State.showSkew_closed hc | with_reducible apply State.tryUp_closed hc
    | with_reducible apply State.typeError_closed hc | with_reducible apply closed_ite | dsimp only | split

theorem execDataBlock_closed (hc : Closed A P) (kRegisters : A .registers) (kTime : A .time) (kPods : A .pods)
    (kFrames : A .frames) (kScouts : A .scouts) (kSequencers : A .sequencers) (kTake : A .take)
    (kStreams : A .streams) (kStores : A .stores) (kEvents : A .events) (kTriggers : A .triggers) (kRing : A .ring)
    (kSent : A .sent) {s : State} (u f : Nat) (lane : Lane) (beat payload : Nat) (syncError : Bool) (hs : P s) :
    nextHas P (execDataBlock u f lane beat payload syncError s) := by
  unfold execDataBlock
  repeat first
    | with_reducible assumption | with_reducible apply nextHas_next | with_reducible apply hc.setPod
    | with_reducible apply State.advanceTo_closed hc | with_reducible apply State.bump_closed hc
    | with_reducible apply State.header_closed hc | with_reducible apply State.judgeBitmap_closed hc
    | with_reducible apply State.loseLock_closed hc | with_reducible apply State.onPod_closed hc
    | with_reducible apply State.raise_closed hc | with_reducible apply closed_ite | dsimp only | split
    | exact Or.inl ‹_› | exact Or.inr rfl | with_reducible apply hc.other

theorem execLaneLoss_closed (hc : Closed A P) (kRegisters : A .registers) (kPods : A .pods) (kFrames : A .frames)
    (kScouts : A .scouts) (kSequencers : A .sequencers) (kTake : A .take) (kStreams : A .streams)
    (kStores : A .stores) (kEvents : A .events) (kTriggers : A .triggers) (kRing : A .ring) (kSent : A .sent)
    {s : State} (u f : Nat) (lane : Lane) (cause : LaneFault) (hs : P s) :
    nextHas P (execLaneLoss u f lane cause s) := by
  unfold execLaneLoss
  repeat first
    | with_reducible assumption | with_reducible apply nextHas_next | with_reducible apply State.countLoss_closed hc
    | with_reducible apply State.loseLane_closed hc | with_reducible apply State.onPod_closed hc
    | with_reducible apply closed_ite | dsimp only | split

theorem execLaneRetrainRetry_closed (hc : Closed A P) (kRegisters : A .registers) (kTime : A .time)
    (kPods : A .pods) (kFrames : A .frames) (kScouts : A .scouts) (kSequencers : A .sequencers) (kTake : A .take)
    (kStreams : A .streams) (kStores : A .stores) (kEvents : A .events) (kTriggers : A .triggers) (kRing : A .ring)
    (kSent : A .sent) {s : State} (u f : Nat) (hs : P s) :
    nextHas P (execLaneRetrainRetry u f s) := by
  unfold execLaneRetrainRetry
  repeat first
    | with_reducible assumption | with_reducible apply nextHas_next | with_reducible apply State.advanceTo_closed hc
    | with_reducible apply State.laneTrain_closed hc | with_reducible apply State.onPod_closed hc
    | with_reducible apply closed_ite | dsimp only | split | exact Or.inl ‹_› | exact Or.inr rfl
    | with_reducible apply hc.other

/-! ### Sys2Proof/Machine/SeqCmds.lean -/

theorem execSuperExit_closed (hc : Closed A P) (kRegisters : A .registers) (kTime : A .time) (kPods : A .pods)
    (kFrames : A .frames) (kScouts : A .scouts) (kSequencers : A .sequencers) (kTake : A .take)
    (kStreams : A .streams) (kStores : A .stores) (kEvents : A .events) (kTriggers : A .triggers) (kRing : A .ring)
    (kSent : A .sent) {s : State} (u : Nat) (hs : P s) :
    nextHas P (execSuperExit u s) := by
  unfold execSuperExit
  repeat first
    | with_reducible assumption | with_reducible apply nextHas_next | with_reducible apply State.advanceTo_closed hc
    | with_reducible apply State.endSlot_closed hc | with_reducible apply State.on_closed hc
    | with_reducible apply State.settleSeqs_closed hc | with_reducible apply State.takeSuperExit_closed hc
    | with_reducible apply closed_ite | dsimp only | split | exact Or.inl ‹_› | exact Or.inr rfl
    | with_reducible apply hc.other

theorem execHiveExit_closed (hc : Closed A P) (kRegisters : A .registers) (kTime : A .time) (kPods : A .pods)
    (kFrames : A .frames) (kScouts : A .scouts) (kSequencers : A .sequencers) (kTake : A .take)
    (kStreams : A .streams) (kStores : A .stores) (kEvents : A .events) (kTriggers : A .triggers) (kRing : A .ring)
    (kSent : A .sent) {s : State} (hs : P s) :
    nextHas P (execHiveExit s) := by
  unfold execHiveExit
  repeat first
    | with_reducible assumption | with_reducible apply nextHas_next | with_reducible apply State.advanceTo_closed hc
    | with_reducible apply State.finish_closed hc | with_reducible apply State.hiveBeat_closed hc
    | with_reducible apply State.settleSeqs_closed hc | with_reducible apply closed_ite | dsimp only | split

theorem execHiveTimerHit_closed (hc : Closed A P) (kRegisters : A .registers) (kTime : A .time) (kPods : A .pods)
    (kFrames : A .frames) (kScouts : A .scouts) (kSequencers : A .sequencers) (kTake : A .take)
    (kStreams : A .streams) (kStores : A .stores) (kEvents : A .events) (kTriggers : A .triggers) (kRing : A .ring)
    (kSent : A .sent) {s : State} (hs : P s) :
    nextHas P (execHiveTimerHit s) := by
  unfold execHiveTimerHit
  repeat first
    | with_reducible assumption | with_reducible apply nextHas_next | with_reducible apply State.advanceTo_closed hc
    | with_reducible apply State.finish_closed hc | with_reducible apply State.hiveBeat_closed hc
    | with_reducible apply State.settleSeqs_closed hc | with_reducible apply closed_ite | dsimp only | split

theorem execMarkForward_closed (hc : Closed A P) (kRegisters : A .registers) (kTime : A .time)
    (kSequencers : A .sequencers) (kTake : A .take) (kStreams : A .streams) (kStores : A .stores) {s : State}
    (hs : P s) :
    nextHas P (execMarkForward s) := by
  unfold execMarkForward
  repeat first
    | with_reducible assumption | with_reducible apply nextHas_next | with_reducible apply hc.setSeq
    | with_reducible apply State.closeMarks_closed hc | with_reducible apply State.enterMark_closed hc
    | with_reducible apply State.queueLoss_closed hc | with_reducible apply State.setMarks_closed hc
    | with_reducible apply State.toMark_closed hc | with_reducible apply closed_ite | dsimp only | split
    | exact Or.inl ‹_› | exact Or.inr rfl | with_reducible apply hc.other

theorem execTrigOutPulseEnd_closed (hc : Closed A P) (kRegisters : A .registers) (kTime : A .time)
    (kTriggers : A .triggers) (kSent : A .sent) {s : State} (n : Nat) (hs : P s) :
    nextHas P (execTrigOutPulseEnd n s) := by
  unfold execTrigOutPulseEnd
  repeat first
    | with_reducible assumption | with_reducible apply nextHas_next | with_reducible apply State.advanceTo_closed hc
    | with_reducible apply State.driveOut_closed hc | with_reducible apply closed_ite | dsimp only | split
    | exact Or.inl ‹_› | exact Or.inr rfl | with_reducible apply hc.other

theorem execTrig_closed (hc : Closed A P) (kTake : A .take) {s : State} (hs : P s) : nextHas P (execTrig s) := by
  unfold execTrig
  repeat first
    | with_reducible assumption | with_reducible apply nextHas_next
    | with_reducible apply State.forceTrigger_closed hc | dsimp only | split

theorem execTrigIn_closed (hc : Closed A P) (kTime : A .time) (kTriggers : A .triggers) {s : State} (pin tick : Nat)
    (level : Bool) (hs : P s) :
    nextHas P (execTrigIn pin tick level s) := by
  unfold execTrigIn
  repeat first
    | with_reducible assumption | with_reducible apply nextHas_next | with_reducible apply hc.tick
    | with_reducible apply State.advanceTo_closed hc | with_reducible apply closed_ite | dsimp only | split
    | exact Or.inl ‹_› | exact Or.inr rfl | with_reducible apply hc.other

theorem execWaggleLost_closed (hc : Closed A P) (kRegisters : A .registers) (kPlls : A .plls) (kTake : A .take)
    (kEvents : A .events) (kSidebands : A .sidebands) (kRing : A .ring) (kSent : A .sent) {s : State} (u : Nat)
    (outbound : Bool) (beat : Nat) (hs : P s) :
    nextHas P (execWaggleLost u outbound beat s) := by
  unfold execWaggleLost
  repeat first
    | with_reducible assumption | with_reducible apply nextHas_next | exact nextHas_fault _
    | with_reducible apply hc.setSide | with_reducible apply State.bump_closed hc
    | with_reducible apply State.closeRun_closed hc | with_reducible apply State.faultStop_closed hc
    | with_reducible apply State.on_closed hc | with_reducible apply State.raise_closed hc
    | with_reducible apply closed_ite | dsimp only | split | exact Or.inl ‹_› | exact Or.inr rfl
    | with_reducible apply hc.other

theorem execWaggleFlagsReceivedAgain_closed (hc : Closed A P) (kRegisters : A .registers) (kTake : A .take)
    (kSidebands : A .sidebands) {s : State} (u : Nat) (outbound : Bool) (tick : Nat) (hs : P s) :
    nextHas P (execWaggleFlagsReceivedAgain u outbound tick s) := by
  unfold execWaggleFlagsReceivedAgain
  repeat first
    | with_reducible assumption | with_reducible apply nextHas_next | with_reducible apply hc.setSide
    | with_reducible apply hc.tick | with_reducible apply State.closeRun_closed hc
    | with_reducible apply State.on_closed hc | with_reducible apply closed_ite | dsimp only | split
    | exact Or.inl ‹_› | exact Or.inr rfl | with_reducible apply hc.other

theorem execWaggleWireFail_closed (hc : Closed A P) (kRegisters : A .registers) (kEvents : A .events)
    (kSent : A .sent) {s : State} (link : Nat) (hs : P s) :
    nextHas P (execWaggleWireFail link s) := by
  unfold execWaggleWireFail
  repeat first
    | with_reducible assumption | with_reducible apply nextHas_next | with_reducible apply State.putF_closed hc
    | with_reducible apply State.raiseLink_closed hc | with_reducible apply closed_ite | dsimp only | split

theorem execClockPairFail_closed (hc : Closed A P) (kRegisters : A .registers) (kPlls : A .plls) (kTake : A .take)
    (kEvents : A .events) (kRing : A .ring) (kSent : A .sent) {s : State} (link : Nat) (hs : P s) :
    nextHas P (execClockPairFail link s) := by
  unfold execClockPairFail
  repeat first
    | with_reducible assumption | with_reducible apply nextHas_next | exact nextHas_fault _
    | with_reducible apply State.faultStop_closed hc | with_reducible apply State.putF_closed hc
    | with_reducible apply State.raiseLink_closed hc | with_reducible apply closed_ite | dsimp only | split

/-! ### Sys2Proof/Machine/TimeCmds.lean -/

theorem execLoad_closed (hc : Closed A P) (kRegisters : A .registers) (kTime : A .time) {s : State} (hs : P s) :
    nextHas P (execLoad s) := by
  unfold execLoad
  repeat first
    | with_reducible assumption | with_reducible apply nextHas_next
    | with_reducible apply State.requestLoad_closed hc | dsimp only | split

theorem execHiveTimeLoad_closed (hc : Closed A P) (kTime : A .time) (kPods : A .pods) (kFrames : A .frames)
    {s : State} (hs : P s) :
    nextHas P (execHiveTimeLoad s) := by
  unfold execHiveTimeLoad
  repeat first
    | with_reducible assumption | with_reducible apply nextHas_next | with_reducible apply hc.loadTime
    | with_reducible apply State.advanceTo_closed hc | with_reducible apply State.regrid_closed hc | dsimp only
    | split | exact Or.inl ‹_› | exact Or.inr rfl | with_reducible apply hc.other

theorem execTurnMark_closed (hc : Closed A P) (kRegisters : A .registers) (kTime : A .time) (kTake : A .take)
    {s : State} (tick : Nat) (hs : P s) :
    nextHas P (execTurnMark tick s) := by
  unfold execTurnMark
  repeat first
    | with_reducible assumption | with_reducible apply nextHas_next | with_reducible apply hc.tick
    | with_reducible apply State.advanceTo_closed hc | with_reducible apply State.bump_closed hc
    | with_reducible apply State.putF_closed hc | with_reducible apply State.putPair_closed hc
    | with_reducible apply State.systemMark_closed hc | with_reducible apply closed_ite | dsimp only | split
    | exact Or.inl ‹_› | exact Or.inr rfl | with_reducible apply hc.other

theorem execTimeAlignMessage_closed (hc : Closed A P) (kRegisters : A .registers) (kTime : A .time)
    (kPlls : A .plls) (kTake : A .take) (kStores : A .stores) (kEvents : A .events) (kSram : A .sram)
    (kMarch : A .march) (kDram : A .dram) (kChannels : A .channels) (kBoard : A .board) (kBoot : A .boot)
    (kSent : A .sent) {s : State} (u sent : Nat) (hs : P s) :
    nextHas P (execTimeAlignMessage u sent s) := by
  unfold execTimeAlignMessage
  repeat first
    | with_reducible assumption | with_reducible apply nextHas_next | with_reducible apply hc.setPll
    | with_reducible apply hc.setTimeOf | with_reducible apply State.emit_closed hc
    | with_reducible apply State.on_closed hc | with_reducible apply State.putF_closed hc
    | with_reducible apply State.settleBoot_closed hc | with_reducible apply State.systemMark_closed hc
    | with_reducible apply closed_ite | dsimp only | split | exact Or.inl ‹_› | exact Or.inr rfl
    | with_reducible apply hc.other

theorem execIntakeResume_closed (hc : Closed A P) (kRegisters : A .registers) (kTime : A .time)
    (kIntake : A .intake) (kPods : A .pods) (kFrames : A .frames) (kScouts : A .scouts)
    (kSequencers : A .sequencers) (kTake : A .take) (kStreams : A .streams) (kStores : A .stores)
    (kEvents : A .events) (kTriggers : A .triggers) (kRing : A .ring) (kSent : A .sent) {s : State} (u : Nat)
    (hs : P s) :
    nextHas P (execIntakeResume u s) := by
  unfold execIntakeResume
  repeat first
    | with_reducible assumption | with_reducible apply nextHas_next | with_reducible apply State.advanceTo_closed hc
    | with_reducible apply State.on_closed hc | with_reducible apply State.resumeIntake_closed hc
    | with_reducible apply State.settleSeqs_closed hc | with_reducible apply closed_ite | dsimp only | split

theorem execSscChange_closed (hc : Closed A P) (kRegisters : A .registers) (kPlls : A .plls) {s : State} (p : Page)
    (hs : P s) :
    nextHas P (execSscChange p s) := by
  unfold execSscChange
  repeat first
    | with_reducible assumption | with_reducible apply nextHas_next | with_reducible apply hc.setPll
    | with_reducible apply State.onPll_closed hc | with_reducible apply State.putF_closed hc
    | with_reducible apply closed_ite | dsimp only | split | exact Or.inl ‹_› | exact Or.inr rfl
    | with_reducible apply hc.other

theorem execPllLock_closed (hc : Closed A P) (kRegisters : A .registers) (kTime : A .time) (kIntake : A .intake)
    (kPlls : A .plls) (kPods : A .pods) (kFrames : A .frames) (kScouts : A .scouts) (kTake : A .take)
    (kStreams : A .streams) (kStores : A .stores) (kEvents : A .events) (kSram : A .sram) (kMarch : A .march)
    (kDram : A .dram) (kChannels : A .channels) (kBoard : A .board) (kBoot : A .boot) (kSent : A .sent) {s : State}
    (p : Page) (cycles : Nat) (hs : P s) :
    nextHas P (execPllLock p cycles s) := by
  unfold execPllLock
  repeat first
    | with_reducible assumption | with_reducible apply nextHas_next | with_reducible apply hc.setPll
    | with_reducible apply State.afterLock_closed hc | with_reducible apply State.boardLock_closed hc
    | with_reducible apply State.coastRecord_closed hc | with_reducible apply State.commitAtLock_closed hc
    | with_reducible apply State.drawFree_closed hc | with_reducible apply State.onPll_closed hc
    | with_reducible apply State.putF_closed hc | with_reducible apply State.setPllState_closed hc
    | with_reducible apply State.settleBoot_closed hc | with_reducible apply State.startTime_closed hc
    | with_reducible apply closed_ite | dsimp only | split | exact Or.inl ‹_› | exact Or.inr rfl
    | with_reducible apply hc.other

theorem execRefLost_closed (hc : Closed A P) (kRegisters : A .registers) (kIntake : A .intake) (kPlls : A .plls)
    (kPods : A .pods) (kFrames : A .frames) (kScouts : A .scouts) (kStreams : A .streams) (kStores : A .stores)
    (kEvents : A .events) (kChannels : A .channels) (kSent : A .sent) {s : State} (p : Page) (hs : P s) :
    nextHas P (execRefLost p s) := by
  unfold execRefLost
  repeat first
    | with_reducible assumption | with_reducible apply nextHas_next | with_reducible apply hc.setPll
    | with_reducible apply State.abandonUnder_closed hc | with_reducible apply State.coast_closed hc
    | with_reducible apply State.loseReference_closed hc | with_reducible apply State.onPll_closed hc
    | with_reducible apply State.putF_closed hc | with_reducible apply closed_ite | dsimp only | split
    | exact Or.inl ‹_› | exact Or.inr rfl | with_reducible apply hc.other

theorem execLockLost_closed (hc : Closed A P) (kRegisters : A .registers) (kPlls : A .plls) (kEvents : A .events)
    (kChannels : A .channels) (kSent : A .sent) {s : State} (p : Page) (hs : P s) :
    nextHas P (execLockLost p s) := by
  unfold execLockLost
  repeat first
    | with_reducible assumption | with_reducible apply nextHas_next
    | with_reducible apply State.abandonUnder_closed hc | with_reducible apply State.coast_closed hc
    | with_reducible apply State.onPll_closed hc | with_reducible apply closed_ite | dsimp only | split

theorem execCoastLimit_closed (hc : Closed A P) (kRegisters : A .registers) (kTime : A .time) (kIntake : A .intake)
    (kPods : A .pods) (kFrames : A .frames) (kScouts : A .scouts) (kStreams : A .streams) (kStores : A .stores)
    (kEvents : A .events) (kSent : A .sent) {s : State} (p : Page) (hs : P s) :
    nextHas P (execCoastLimit p s) := by
  unfold execCoastLimit
  repeat first
    | with_reducible assumption | with_reducible apply nextHas_next | with_reducible apply State.advanceTo_closed hc
    | with_reducible apply State.onPll_closed hc | with_reducible apply State.putF_closed hc
    | with_reducible apply State.raise_closed hc | with_reducible apply State.stopClocked_closed hc
    | with_reducible apply closed_ite | dsimp only | split | exact Or.inl ‹_› | exact Or.inr rfl
    | with_reducible apply hc.other

theorem execRefReturn_closed (hc : Closed A P) (kRegisters : A .registers) (kIntake : A .intake) (kPlls : A .plls)
    (kPods : A .pods) (kFrames : A .frames) (kScouts : A .scouts) (kStreams : A .streams) (kStores : A .stores)
    (kEvents : A .events) (kChannels : A .channels) (kSent : A .sent) {s : State} (p : Page) (small : Bool)
    (hs : P s) :
    nextHas P (execRefReturn p small s) := by
  unfold execRefReturn
  repeat first
    | with_reducible assumption | with_reducible apply nextHas_next | with_reducible apply hc.setPll
    | with_reducible apply State.onPll_closed hc | with_reducible apply State.putF_closed hc
    | with_reducible apply State.resumePll_closed hc | with_reducible apply State.setPllState_closed hc
    | with_reducible apply closed_ite | dsimp only | split | exact Or.inl ‹_› | exact Or.inr rfl
    | with_reducible apply hc.other

theorem execResumeTry_closed (hc : Closed A P) (kRegisters : A .registers) (kIntake : A .intake) (kPlls : A .plls)
    (kPods : A .pods) (kFrames : A .frames) (kScouts : A .scouts) (kStreams : A .streams) (kStores : A .stores)
    (kEvents : A .events) (kChannels : A .channels) (kSent : A .sent) {s : State} (p : Page) (small : Bool)
    (hs : P s) :
    nextHas P (execResumeTry p small s) := by
  unfold execResumeTry
  repeat first
    | with_reducible assumption | with_reducible apply nextHas_next | with_reducible apply State.onPll_closed hc
    | with_reducible apply State.resumePll_closed hc | with_reducible apply closed_ite | dsimp only | split

/-! ### Sys2Proof/Machine/RingCmds.lean -/

theorem execHello_closed (hc : Closed A P) (kRegisters : A .registers) (kTime : A .time) (kEvents : A .events)
    (kRing : A .ring) (kSent : A .sent) {s : State} (ring sub data tick : Nat) (hs : P s) :
    nextHas P (execHello ring sub data tick s) := by
  unfold execHello
  repeat first
    | with_reducible assumption | with_reducible apply nextHas_next | with_reducible apply hc.tick
    | with_reducible apply State.advanceTo_closed hc | with_reducible apply State.receiveHello_closed hc
    | with_reducible apply closed_ite | dsimp only | split

theorem execLeaderElected_closed (hc : Closed A P) (kRegisters : A .registers) (kTime : A .time) (kSent : A .sent)
    {s : State} (hs : P s) :
    nextHas P (execLeaderElected s) := by
  unfold execLeaderElected
  repeat first
    | with_reducible assumption | with_reducible apply nextHas_next
    | with_reducible apply State.becomeLeader_closed hc | dsimp only | split

theorem execForm_closed (hc : Closed A P) (kRegisters : A .registers) (kEvents : A .events) (kRing : A .ring)
    (kSent : A .sent) {s : State} (position loopNs : Nat) (hs : P s) :
    nextHas P (execForm position loopNs s) := by
  unfold execForm
  repeat first
    | with_reducible assumption | with_reducible apply nextHas_next
    | with_reducible apply State.receiveForm_closed hc | dsimp only | split

theorem execSetup_closed (hc : Closed A P) (kRegisters : A .registers) (kEvents : A .events) (kRing : A .ring)
    (kSent : A .sent) {s : State} (c : Copy) (tally arg : Nat) (hs : P s) :
    nextHas P (execSetup c tally arg s) := by
  unfold execSetup
  repeat first
    | with_reducible assumption | with_reducible apply nextHas_next | with_reducible apply State.applySetup_closed hc
    | with_reducible apply State.receiveCtrl_closed hc | with_reducible intro _ | with_reducible apply closed_ite
    | dsimp only | split

theorem execPath_closed (hc : Closed A P) (kRegisters : A .registers) (kEvents : A .events) (kRing : A .ring)
    (kSent : A .sent) {s : State} (c : Copy) (dest tally arg : Nat) (hs : P s) :
    nextHas P (execPath c dest tally arg s) := by
  unfold execPath
  repeat first
    | with_reducible assumption | with_reducible apply nextHas_next
    | with_reducible apply State.receiveCtrl_closed hc | with_reducible intro _ | with_reducible apply closed_ite
    | dsimp only | split | exact Or.inl ‹_› | exact Or.inr rfl | with_reducible apply hc.other

theorem execReport_closed (hc : Closed A P) (kRegisters : A .registers) (kEvents : A .events) (kRing : A .ring)
    (kSent : A .sent) {s : State} (c : Copy) (source tally arg : Nat) (hs : P s) :
    nextHas P (execReport c source tally arg s) := by
  unfold execReport
  repeat first
    | with_reducible assumption | with_reducible apply nextHas_next
    | with_reducible apply State.receiveCtrl_closed hc | with_reducible apply State.takeReport_closed hc
    | with_reducible intro _ | with_reducible apply closed_ite | dsimp only | split

theorem execHopMeasure_closed (hc : Closed A P) (kRing : A .ring) (kSent : A .sent) {s : State} (ring : Nat)
    (hs : P s) :
    nextHas P (execHopMeasure ring s) := by
  unfold execHopMeasure
  repeat first
    | with_reducible assumption | with_reducible apply nextHas_next | with_reducible apply State.sendProbe_closed hc
    | with_reducible apply closed_ite | dsimp only | split

theorem execTimeLaunch_closed (hc : Closed A P) (kRing : A .ring) (kSent : A .sent) {s : State} (hs : P s) :
    nextHas P (execTimeLaunch s) := by
  unfold execTimeLaunch
  repeat first
    | with_reducible assumption | with_reducible apply nextHas_next | with_reducible apply State.launchCtrl_closed hc
    | with_reducible apply closed_ite | dsimp only | split | exact Or.inl ‹_› | exact Or.inr rfl
    | with_reducible apply hc.other

theorem execTime_closed (hc : Closed A P) (kRegisters : A .registers) (kTime : A .time) (kEvents : A .events)
    (kRing : A .ring) (kSent : A .sent) {s : State} (c : Copy) (tally time tick : Nat) (hs : P s) :
    nextHas P (execTime c tally time tick s) := by
  unfold execTime
  repeat first
    | with_reducible assumption | with_reducible apply nextHas_next | with_reducible apply hc.tick
    | with_reducible apply State.advanceTo_closed hc | with_reducible apply State.badContainer_closed hc
    | with_reducible apply State.emit_closed hc | with_reducible apply State.takeTime_closed hc
    | with_reducible apply closed_ite | dsimp only | split | exact Or.inl ‹_› | exact Or.inr rfl
    | with_reducible apply hc.other

theorem execEpochGo_closed (hc : Closed A P) (kRegisters : A .registers) (kRing : A .ring) (kSent : A .sent)
    {s : State} (hs : P s) :
    nextHas P (execEpochGo s) := by
  unfold execEpochGo
  repeat first
    | with_reducible assumption | with_reducible apply nextHas_next | with_reducible apply State.epochGo_closed hc
    | dsimp only | split

theorem execEpoch_closed (hc : Closed A P) (kRegisters : A .registers) (kTime : A .time) (kPods : A .pods)
    (kFrames : A .frames) (kEvents : A .events) (kRing : A .ring) (kSent : A .sent) {s : State} (c : Copy)
    (tally count : Nat) (hs : P s) :
    nextHas P (execEpoch c tally count s) := by
  unfold execEpoch
  repeat first
    | with_reducible assumption | with_reducible apply nextHas_next | with_reducible apply State.loadEpoch_closed hc
    | with_reducible apply State.receiveCtrl_closed hc | with_reducible intro _ | with_reducible apply closed_ite
    | dsimp only | split

theorem execLeaderLost_closed (hc : Closed A P) (kRegisters : A .registers) (kTime : A .time) (kRing : A .ring)
    {s : State} (hs : P s) :
    nextHas P (execLeaderLost s) := by
  unfold execLeaderLost
  repeat first
    | with_reducible assumption | with_reducible apply nextHas_next | with_reducible apply State.advanceTo_closed hc
    | with_reducible apply State.startForming_closed hc | with_reducible apply closed_ite | dsimp only | split

theorem execFlagLaunch_closed (hc : Closed A P) (kRegisters : A .registers) (kRing : A .ring) (kSent : A .sent)
    {s : State} (ring : Nat) (hs : P s) :
    nextHas P (execFlagLaunch ring s) := by
  unfold execFlagLaunch
  repeat first
    | with_reducible assumption | with_reducible apply nextHas_next | with_reducible apply State.launchFlag_closed hc
    | dsimp only | split

theorem execFlag_closed (hc : Closed A P) (kRegisters : A .registers) (kEvents : A .events) (kRing : A .ring)
    (kSent : A .sent) {s : State} (c : Copy) (body : List Nat) (hs : P s) :
    nextHas P (execFlag c body s) := by
  unfold execFlag
  repeat first
    | with_reducible assumption | with_reducible apply nextHas_next | with_reducible apply State.noteFlag_closed hc
    | with_reducible apply State.receive_closed hc | with_reducible intro _ | dsimp only | split

theorem execFlagDelivery_closed (hc : Closed A P) (kRegisters : A .registers) (kTime : A .time) (kPods : A .pods)
    (kFrames : A .frames) (kScouts : A .scouts) (kSequencers : A .sequencers) (kTake : A .take)
    (kStreams : A .streams) (kStores : A .stores) (kEvents : A .events) (kTriggers : A .triggers) (kRing : A .ring)
    (kSent : A .sent) {s : State} (hs : P s) :
    nextHas P (execFlagDelivery s) := by
  unfold execFlagDelivery
  repeat first
    | with_reducible assumption | with_reducible apply nextHas_next
    | with_reducible apply State.deliverFlags_closed hc | with_reducible apply State.finish_closed hc | dsimp only
    | split

theorem execContainerReturn_closed (hc : Closed A P) (kRegisters : A .registers) (kEvents : A .events)
    (kRing : A .ring) (kSent : A .sent) {s : State} (loop ring : Nat) (hs : P s) :
    nextHas P (execContainerReturn loop ring s) := by
  unfold execContainerReturn
  repeat first
    | with_reducible assumption | with_reducible apply nextHas_next
    | with_reducible apply State.containerBack_closed hc | with_reducible apply closed_ite | dsimp only | split

theorem execHopDown_closed (hc : Closed A P) (kRegisters : A .registers) (kEvents : A .events) (kRing : A .ring)
    (kSent : A .sent) {s : State} (ring cause : Nat) (hs : P s) :
    nextHas P (execHopDown ring cause s) := by
  unfold execHopDown
  repeat first
    | with_reducible assumption | with_reducible apply nextHas_next | with_reducible apply State.hopDown_closed hc
    | with_reducible apply State.sendHello_closed hc | with_reducible apply closed_ite | dsimp only | split

theorem execBrk_closed (hc : Closed A P) (kRegisters : A .registers) (kEvents : A .events) (kRing : A .ring)
    (kSent : A .sent) {s : State} (ring : Nat) (hs : P s) :
    nextHas P (execBrk ring s) := by
  unfold execBrk
  repeat first
    | with_reducible assumption | with_reducible apply nextHas_next | with_reducible apply State.hopDown_closed hc
    | with_reducible apply closed_ite | dsimp only | split

theorem execUnwrap_closed (hc : Closed A P) (kRegisters : A .registers) (kEvents : A .events) (kRing : A .ring)
    (kSent : A .sent) {s : State} (ring : Nat) (hs : P s) :
    nextHas P (execUnwrap ring s) := by
  unfold execUnwrap
  repeat first
    | with_reducible assumption | with_reducible apply nextHas_next | with_reducible apply State.unwrap_closed hc
    | with_reducible apply closed_ite | dsimp only | split

theorem execBypass_closed (hc : Closed A P) (kRegisters : A .registers) (kRing : A .ring) (kSent : A .sent)
    {s : State} (hs : P s) :
    nextHas P (execBypass s) := by
  unfold execBypass
  repeat first
    | with_reducible assumption | with_reducible apply nextHas_next
    | with_reducible apply State.startBypass_closed hc | dsimp only | split

theorem execBypassClose_closed (hc : Closed A P) (kRegisters : A .registers) (kTime : A .time) (kRing : A .ring)
    {s : State} (hs : P s) :
    nextHas P (execBypassClose s) := by
  unfold execBypassClose
  repeat first
    | with_reducible assumption | with_reducible apply nextHas_next | with_reducible apply State.advanceTo_closed hc
    | with_reducible apply State.settleRing_closed hc | dsimp only | split | exact Or.inl ‹_› | exact Or.inr rfl
    | with_reducible apply hc.other

theorem execLeave_closed (hc : Closed A P) (kRegisters : A .registers) (kEvents : A .events) (kRing : A .ring)
    (kSent : A .sent) {s : State} (c : Copy) (source tally : Nat) (hs : P s) :
    nextHas P (execLeave c source tally s) := by
  unfold execLeave
  repeat first
    | with_reducible assumption | with_reducible apply nextHas_next
    | with_reducible apply State.receiveCtrl_closed hc | with_reducible apply State.sendSetup_closed hc
    | with_reducible intro _ | with_reducible apply closed_ite | dsimp only | split

theorem execMailSend_closed (hc : Closed A P) (kRegisters : A .registers) (kRing : A .ring) (kSent : A .sent)
    {s : State} (dest argHi : Nat) (hs : P s) :
    nextHas P (execMailSend dest argHi s) := by
  unfold execMailSend
  repeat first
    | with_reducible assumption | with_reducible apply nextHas_next | with_reducible apply State.putF_closed hc
    | with_reducible apply State.sendMail_closed hc | dsimp only | split

theorem execMail_closed (hc : Closed A P) (kRegisters : A .registers) (kEvents : A .events) (kRing : A .ring)
    (kSent : A .sent) {s : State} (c : Copy) (source dest tally arg : Nat) (hs : P s) :
    nextHas P (execMail c source dest tally arg s) := by
  unfold execMail
  repeat first
    | with_reducible assumption | with_reducible apply nextHas_next
    | with_reducible apply State.receiveCtrl_closed hc | with_reducible apply State.storeMail_closed hc
    | with_reducible intro _ | dsimp only | split

/-! ### Sys2Proof/Machine/SramCmds.lean -/

theorem execWindowWrite_closed (hc : Closed A P) (kRegisters : A .registers) (kEvents : A .events) (kSram : A .sram)
    (kMarch : A .march) (kSent : A .sent) {s : State} (off : Nat) (bytes : List (Option Byte)) (poisoned : Bool)
    (flaws : List (Nat × Bool)) (hs : P s) :
    nextHas P (execWindowWrite off bytes poisoned flaws s) := by
  unfold execWindowWrite
  repeat first
    | with_reducible assumption | with_reducible apply nextHas_next | exact nextHas_fault _
    | with_reducible apply State.windowWrite_closed hc | with_reducible apply closed_ite | dsimp only | split

theorem execBitSetAliasWrite_closed (hc : Closed A P) (kRegisters : A .registers) (kEvents : A .events)
    (kSram : A .sram) (kMarch : A .march) (kSent : A .sent) {s : State} (off : Nat) (bytes : List (Option Byte))
    (poisoned : Bool) (flaws : List (Nat × Bool)) (hs : P s) :
    nextHas P (execBitSetAliasWrite off bytes poisoned flaws s) := by
  unfold execBitSetAliasWrite
  repeat first
    | with_reducible assumption | with_reducible apply nextHas_next | exact nextHas_fault _
    | with_reducible apply State.windowWrite_closed hc | with_reducible apply closed_ite | dsimp only | split

theorem execBitClearAliasWrite_closed (hc : Closed A P) (kRegisters : A .registers) (kEvents : A .events)
    (kSram : A .sram) (kMarch : A .march) (kSent : A .sent) {s : State} (off : Nat) (bytes : List (Option Byte))
    (poisoned : Bool) (flaws : List (Nat × Bool)) (hs : P s) :
    nextHas P (execBitClearAliasWrite off bytes poisoned flaws s) := by
  unfold execBitClearAliasWrite
  repeat first
    | with_reducible assumption | with_reducible apply nextHas_next | exact nextHas_fault _
    | with_reducible apply State.windowWrite_closed hc | with_reducible apply closed_ite | dsimp only | split

theorem execWindowRead_closed (hc : Closed A P) (kRegisters : A .registers) (kEvents : A .events) (kSram : A .sram)
    (kMarch : A .march) (kSent : A .sent) {s : State} (off len : Nat) (flaws : List (Nat × Bool)) (hs : P s) :
    nextHas P (execWindowRead off len flaws s) := by
  unfold execWindowRead
  repeat first
    | with_reducible assumption | with_reducible apply nextHas_next | exact nextHas_fault _
    | with_reducible apply State.windowRead_closed hc | with_reducible apply closed_ite | dsimp only | split

theorem execMarchStart_closed (hc : Closed A P) (kRegisters : A .registers) (kMarch : A .march) {s : State}
    (u boot : Nat) (mode target : Bool) (hs : P s) :
    nextHas P (execMarchStart u boot mode target s) := by
  unfold execMarchStart
  repeat first
    | with_reducible assumption | with_reducible apply nextHas_next | with_reducible apply State.marchStart_closed hc
    | with_reducible apply State.on_closed hc | with_reducible apply State.putF_closed hc | dsimp only | split

theorem execMarchRetentionWait_closed (hc : Closed A P) (kRegisters : A .registers) (kMarch : A .march) {s : State}
    (u : Nat) (hs : P s) :
    nextHas P (execMarchRetentionWait u s) := by
  unfold execMarchRetentionWait
  repeat first
    | with_reducible assumption | with_reducible apply nextHas_next | with_reducible apply hc.setSramOf
    | with_reducible apply State.on_closed hc | with_reducible apply State.putF_closed hc
    | with_reducible apply closed_ite | dsimp only | split | exact Or.inl ‹_› | exact Or.inr rfl
    | with_reducible apply hc.other

theorem execMarchRunDone_closed (hc : Closed A P) (kRegisters : A .registers) (kStores : A .stores)
    (kEvents : A .events) (kQueues : A .queues) (kSram : A .sram) (kMarch : A .march) (kDram : A .dram)
    (kChannels : A .channels) (kBoard : A .board) (kBoot : A .boot) (kSent : A .sent) {s : State} (u : Nat)
    (fails : List (Nat × Nat × Nat × Nat)) (hs : P s) :
    nextHas P (execMarchRunDone u fails s) := by
  unfold execMarchRunDone
  repeat first
    | with_reducible assumption | with_reducible apply nextHas_next | with_reducible apply State.endMarch_closed hc
    | with_reducible apply State.marchOver_closed hc | with_reducible apply State.on_closed hc
    | with_reducible apply State.settleBoot_closed hc | with_reducible apply closed_ite | dsimp only | split
    | exact Or.inl ‹_› | exact Or.inr rfl | with_reducible apply hc.other

/-! ### Sys2Proof/Machine/AccessCmds.lean -/

theorem execRegisterWrite_closed (hc : Closed A P) (kRegisters : A .registers) (kTime : A .time)
    (kIntake : A .intake) (kPlls : A .plls) (kPods : A .pods) (kFrames : A .frames) (kScouts : A .scouts)
    (kSequencers : A .sequencers) (kTake : A .take) (kStreams : A .streams) (kStores : A .stores)
    (kEvents : A .events) (kHost : A .host) (kTriggers : A .triggers) (kSidebands : A .sidebands) (kRing : A .ring)
    (kQueues : A .queues) (kSram : A .sram) (kMarch : A .march) (kDram : A .dram) (kChannels : A .channels)
    (kBoard : A .board) (kReeve : A .reeve) (kBoot : A .boot) (kSent : A .sent) {s : State} (off : Nat)
    (bytes : List Byte) (poisoned : Bool) (hs : P s) :
    nextHas P (execRegisterWrite off bytes poisoned s) := by
  unfold execRegisterWrite
  repeat first
    | with_reducible assumption | with_reducible apply nextHas_next | exact nextHas_fault _
    | with_reducible apply State.finish_closed hc | with_reducible apply State.hostWrite_closed hc
    | with_reducible apply closed_ite | dsimp only | split

theorem execRegisterRead_closed (hc : Closed A P) (kRegisters : A .registers) (kEvents : A .events)
    (kSram : A .sram) (kMarch : A .march) (kChannels : A .channels) (kBoard : A .board) (kSent : A .sent)
    {s : State} (off len : Nat) (hs : P s) :
    nextHas P (execRegisterRead off len s) := by
  unfold execRegisterRead
  repeat first
    | with_reducible assumption | with_reducible apply nextHas_next | exact nextHas_fault _
    | with_reducible apply State.hostRead_closed hc | with_reducible apply closed_ite | dsimp only | split

theorem execPageReset_closed (hc : Closed A P) (kRegisters : A .registers) (kTime : A .time) (kIntake : A .intake)
    (kPlls : A .plls) (kPods : A .pods) (kFrames : A .frames) (kScouts : A .scouts) (kSequencers : A .sequencers)
    (kTake : A .take) (kStreams : A .streams) (kStores : A .stores) (kEvents : A .events) (kHost : A .host)
    (kTriggers : A .triggers) (kSidebands : A .sidebands) (kRing : A .ring) (kQueues : A .queues) (kSram : A .sram)
    (kMarch : A .march) (kDram : A .dram) (kChannels : A .channels) (kBoard : A .board) (kBoot : A .boot)
    (kSent : A .sent) {s : State} (p : Page) (hs : P s) :
    nextHas P (execPageReset p s) := by
  unfold execPageReset
  repeat first
    | with_reducible assumption | with_reducible apply nextHas_next | with_reducible apply State.onPage_closed hc
    | with_reducible apply State.pageResetWrite_closed hc | dsimp only | split

theorem execCommit_closed (hc : Closed A P) (kRegisters : A .registers) (kPlls : A .plls) (kBoard : A .board)
    {s : State} (p : Page) (hs : P s) :
    nextHas P (execCommit p s) := by
  unfold execCommit
  repeat first
    | with_reducible assumption | with_reducible apply nextHas_next
    | with_reducible apply State.commitWrite_closed hc | with_reducible apply State.onPage_closed hc | dsimp only
    | split

theorem execDiscard_closed (hc : Closed A P) (kRegisters : A .registers) (kPlls : A .plls) (kBoard : A .board)
    {s : State} (p : Page) (hs : P s) :
    nextHas P (execDiscard p s) := by
  unfold execDiscard
  repeat first
    | with_reducible assumption | with_reducible apply nextHas_next
    | with_reducible apply State.commitWrite_closed hc | with_reducible apply State.onPage_closed hc | dsimp only
    | split

theorem execShadowApply_closed (hc : Closed A P) (kRegisters : A .registers) (kPods : A .pods) (kFrames : A .frames)
    (kScouts : A .scouts) (kStreams : A .streams) (kStores : A .stores) (kEvents : A .events) (kRing : A .ring)
    (kQueues : A .queues) (kDram : A .dram) (kChannels : A .channels) (kBoard : A .board) (kSent : A .sent)
    {s : State} (p : Page) (hs : P s) :
    nextHas P (execShadowApply p s) := by
  unfold execShadowApply
  repeat first
    | with_reducible assumption | with_reducible apply nextHas_next | with_reducible apply State.applyPage_closed hc
    | with_reducible apply State.onPage_closed hc | with_reducible apply closed_ite | dsimp only | split

theorem execPartialApply_closed (hc : Closed A P) (kRegisters : A .registers) {s : State} (p : Page) (hs : P s) :
    nextHas P (execPartialApply p s) := by
  unfold execPartialApply
  repeat first
    | with_reducible assumption | with_reducible apply nextHas_next | with_reducible apply State.onPage_closed hc
    | with_reducible apply State.partialApply_closed hc | with_reducible apply closed_ite | dsimp only | split

theorem execEvForce_closed (hc : Closed A P) (kRegisters : A .registers) (kEvents : A .events) (kSent : A .sent)
    {s : State} (p : Page) (bits : Nat) (hs : P s) :
    nextHas P (execEvForce p bits s) := by
  unfold execEvForce
  repeat first
    | with_reducible assumption | with_reducible apply nextHas_next
    | with_reducible apply State.forceSources_closed hc | with_reducible apply State.onPage_closed hc | dsimp only
    | split

theorem execRegWrite_closed (hc : Closed A P) (kRegisters : A .registers) (kTime : A .time) (kIntake : A .intake)
    (kPlls : A .plls) (kPods : A .pods) (kFrames : A .frames) (kScouts : A .scouts) (kSequencers : A .sequencers)
    (kTake : A .take) (kStreams : A .streams) (kStores : A .stores) (kEvents : A .events) (kHost : A .host)
    (kTriggers : A .triggers) (kSidebands : A .sidebands) (kRing : A .ring) (kQueues : A .queues) (kSram : A .sram)
    (kMarch : A .march) (kDram : A .dram) (kChannels : A .channels) (kBoard : A .board) (kReeve : A .reeve)
    (kBoot : A .boot) (kSent : A .sent) {s : State} (hs : P s) :
    nextHas P (execRegWrite s) := by
  unfold execRegWrite
  repeat first
    | with_reducible assumption | with_reducible apply nextHas_next | with_reducible apply State.endCommand_closed hc
    | with_reducible apply State.finish_closed hc | with_reducible apply State.runCommand_closed hc
    | with_reducible apply State.writeAt_closed hc | (with_reducible apply closed_foldl; rotate_left; intro _ _ _)
    | with_reducible intro _ | with_reducible apply closed_ite | dsimp only | split

/-! ### Sys2Proof/Machine/BootCmds.lean -/

theorem execColdStart_closed (hc : Closed A P) (kAll : ∀ k, A k) {s : State} (byVin : Bool) (straps : List Nat)
    (hs : P s) :
    nextHas P (execColdStart byVin straps s) := by
  unfold execColdStart
  repeat first
    | with_reducible assumption | exact kAll _ | with_reducible apply nextHas_next
    | with_reducible apply hc.blankRegs | with_reducible apply hc.blankSrams
    | with_reducible apply State.finish_closed hc | with_reducible apply State.powerDown_closed hc
    | with_reducible apply State.putF_closed hc | with_reducible apply State.raise_closed hc | dsimp only | split
    | exact Or.inl ‹_› | exact Or.inr rfl | exact Or.inl (kAll _) | with_reducible apply hc.other

theorem execPwrOk_closed (hc : Closed A P) (kRegisters : A .registers) (kHost : A .host) {s : State} (hs : P s) :
    nextHas P (execPwrOk s) := by
  unfold execPwrOk
  repeat first
    | with_reducible assumption | with_reducible apply nextHas_next | with_reducible apply State.finish_closed hc
    | with_reducible apply State.putF_closed hc | with_reducible apply State.railsUp_closed hc
    | with_reducible apply State.showReady_closed hc | with_reducible apply State.stage_closed hc
    | (with_reducible apply closed_foldl; rotate_left; intro _ _ _) | with_reducible apply closed_ite | dsimp only
    | split | exact Or.inl ‹_› | exact Or.inr rfl | with_reducible apply hc.other

theorem execPatchCheck_closed (hc : Closed A P) (kRegisters : A .registers) (kStores : A .stores)
    (kEvents : A .events) (kSram : A .sram) (kMarch : A .march) (kDram : A .dram) (kChannels : A .channels)
    (kBoard : A .board) (kBoot : A .boot) (kSent : A .sent) {s : State} (copyA pseqA copyB pseqB : Nat) (hs : P s) :
    nextHas P (execPatchCheck copyA pseqA copyB pseqB s) := by
  unfold execPatchCheck
  repeat first
    | with_reducible assumption | with_reducible apply nextHas_next | with_reducible apply State.finish_closed hc
    | with_reducible apply State.putF_closed hc | with_reducible apply State.settleBoot_closed hc
    | with_reducible apply State.showReady_closed hc | with_reducible apply closed_ite | dsimp only | split

theorem execResetNAssert_closed (hc : Closed A P) (kAll : ∀ k, A k) {s : State} (hs : P s) :
    nextHas P (execResetNAssert s) := by
  unfold execResetNAssert
  repeat first
    | with_reducible assumption | exact kAll _ | with_reducible apply nextHas_next
    | with_reducible apply State.finish_closed hc | with_reducible apply State.powerDown_closed hc
    | with_reducible apply State.putF_closed hc | with_reducible apply closed_ite | dsimp only | split
    | exact Or.inl ‹_› | exact Or.inr rfl | exact Or.inl (kAll _) | with_reducible apply hc.other

theorem execResetNRelease_closed (hc : Closed A P) (kRegisters : A .registers) (kReeve : A .reeve) (kBoot : A .boot)
    {s : State} (straps : List Nat) (hs : P s) :
    nextHas P (execResetNRelease straps s) := by
  unfold execResetNRelease
  repeat first
    | with_reducible assumption | with_reducible apply nextHas_next | with_reducible apply State.finish_closed hc
    | with_reducible apply State.startAfresh_closed hc | with_reducible apply closed_ite | dsimp only | split

theorem execVinReturn_closed (hc : Closed A P) (kRegisters : A .registers) (kReeve : A .reeve) (kBoot : A .boot)
    {s : State} (straps : List Nat) (hs : P s) :
    nextHas P (execVinReturn straps s) := by
  unfold execVinReturn
  repeat first
    | with_reducible assumption | with_reducible apply nextHas_next | with_reducible apply State.finish_closed hc
    | with_reducible apply State.startAfresh_closed hc | with_reducible apply closed_ite | dsimp only | split
    | exact Or.inl ‹_› | exact Or.inr rfl | with_reducible apply hc.other

theorem execPerstNAssert_closed (hc : Closed A P) (kRegisters : A .registers) (kPlls : A .plls) (kTake : A .take)
    (kEvents : A .events) (kRing : A .ring) (kBoot : A .boot) (kSent : A .sent) {s : State} (hs : P s) :
    nextHas P (execPerstNAssert s) := by
  unfold execPerstNAssert
  repeat first
    | with_reducible assumption | with_reducible apply nextHas_next | with_reducible apply State.bump_closed hc
    | with_reducible apply State.finish_closed hc | with_reducible apply State.putF_closed hc
    | with_reducible apply State.stopTake_closed hc | with_reducible apply closed_ite | dsimp only | split
    | exact Or.inl ‹_› | exact Or.inr rfl | with_reducible apply hc.other

theorem execPerstNPageReset_closed (hc : Closed A P) (kRegisters : A .registers) (kTime : A .time)
    (kIntake : A .intake) (kPlls : A .plls) (kPods : A .pods) (kFrames : A .frames) (kScouts : A .scouts)
    (kSequencers : A .sequencers) (kTake : A .take) (kStreams : A .streams) (kStores : A .stores)
    (kEvents : A .events) (kHost : A .host) (kTriggers : A .triggers) (kSidebands : A .sidebands) (kRing : A .ring)
    (kQueues : A .queues) (kSram : A .sram) (kMarch : A .march) (kDram : A .dram) (kChannels : A .channels)
    (kBoard : A .board) (kBoot : A .boot) (kSent : A .sent) {s : State} (hs : P s) :
    nextHas P (execPerstNPageReset s) := by
  unfold execPerstNPageReset
  repeat first
    | with_reducible assumption | with_reducible apply nextHas_next | with_reducible apply State.finish_closed hc
    | with_reducible apply State.perstReset_closed hc | with_reducible apply closed_ite | dsimp only | split

theorem execPerstNRelease_closed (hc : Closed A P) (kRegisters : A .registers) (kHost : A .host) (kBoot : A .boot)
    {s : State} (hs : P s) :
    nextHas P (execPerstNRelease s) := by
  unfold execPerstNRelease
  repeat first
    | with_reducible assumption | with_reducible apply nextHas_next | with_reducible apply State.finish_closed hc
    | with_reducible apply State.showReady_closed hc | with_reducible apply closed_ite | dsimp only | split
    | exact Or.inl ‹_› | exact Or.inr rfl | with_reducible apply hc.other

theorem execSoft_closed (hc : Closed A P) (kRegisters : A .registers) (kTime : A .time) (kIntake : A .intake)
    (kPlls : A .plls) (kPods : A .pods) (kFrames : A .frames) (kScouts : A .scouts) (kSequencers : A .sequencers)
    (kTake : A .take) (kStreams : A .streams) (kStores : A .stores) (kEvents : A .events) (kHost : A .host)
    (kTriggers : A .triggers) (kSidebands : A .sidebands) (kRing : A .ring) (kQueues : A .queues) (kSram : A .sram)
    (kMarch : A .march) (kDram : A .dram) (kChannels : A .channels) (kBoard : A .board) (kBoot : A .boot)
    (kSent : A .sent) {s : State} (key : Nat) (hs : P s) :
    nextHas P (execSoft key s) := by
  unfold execSoft
  repeat first
    | with_reducible assumption | with_reducible apply nextHas_next | with_reducible apply State.finish_closed hc
    | with_reducible apply State.softReset_closed hc | dsimp only | split

theorem execSidebandLoss_closed (hc : Closed A P) (kRegisters : A .registers) (kTime : A .time) (kPods : A .pods)
    (kFrames : A .frames) (kScouts : A .scouts) (kStreams : A .streams) (kStores : A .stores) (kEvents : A .events)
    (kBoot : A .boot) (kSent : A .sent) {s : State} (u beat : Nat) (hs : P s) :
    nextHas P (execSidebandLoss u beat s) := by
  unfold execSidebandLoss
  repeat first
    | with_reducible assumption | with_reducible apply nextHas_next | with_reducible apply State.advanceTo_closed hc
    | with_reducible apply State.endStreams_closed hc | with_reducible apply State.fillAll_closed hc
    | with_reducible apply State.formTo_closed hc | with_reducible apply State.on_closed hc
    | with_reducible apply State.putF_closed hc | with_reducible apply closed_ite | dsimp only | split
    | exact Or.inl ‹_› | exact Or.inr rfl | with_reducible apply hc.other

theorem execDieLaneFail_closed (hc : Closed A P) (kRegisters : A .registers) (kPlls : A .plls) (kTake : A .take)
    (kEvents : A .events) (kRing : A .ring) (kDies : A .dies) (kSent : A .sent) {s : State} (link : Nat)
    (back : Bool) (hs : P s) :
    nextHas P (execDieLaneFail link back s) := by
  unfold execDieLaneFail
  repeat first
    | with_reducible assumption | with_reducible apply nextHas_next | exact nextHas_fault _
    | with_reducible apply hc.setDie | with_reducible apply State.faultStop_closed hc
    | with_reducible apply State.finish_closed hc | with_reducible apply State.putF_closed hc
    | with_reducible apply State.raiseLink_closed hc | with_reducible apply closed_ite | dsimp only | split
    | exact Or.inl ‹_› | exact Or.inr rfl | with_reducible apply hc.other

theorem execLaneRepairDone_closed (hc : Closed A P) (kDies : A .dies) {s : State} (link : Nat) (back : Bool)
    (hs : P s) :
    nextHas P (execLaneRepairDone link back s) := by
  unfold execLaneRepairDone
  repeat first
    | with_reducible assumption | with_reducible apply nextHas_next | with_reducible apply hc.setDie
    | with_reducible apply closed_ite | dsimp only | split | exact Or.inl ‹_› | exact Or.inr rfl
    | with_reducible apply hc.other

theorem execSmbusPointerWrite_closed (hc : Closed A P) (kPorts : A .ports) {s : State} (addr pointer : Nat)
    (pecGood : Bool) (hs : P s) :
    nextHas P (execSmbusPointerWrite addr pointer pecGood s) := by
  unfold execSmbusPointerWrite
  repeat first
    | with_reducible assumption | with_reducible apply nextHas_next | with_reducible apply closed_ite | dsimp only
    | split | exact Or.inl ‹_› | exact Or.inr rfl | with_reducible apply hc.other

theorem execSmbusBlockRead_closed (hc : Closed A P) (kPorts : A .ports) (kSent : A .sent) {s : State} (addr : Nat)
    (hs : P s) :
    nextHas P (execSmbusBlockRead addr s) := by
  unfold execSmbusBlockRead
  repeat first
    | with_reducible assumption | with_reducible apply nextHas_next | with_reducible apply State.emit_closed hc
    | with_reducible apply closed_ite | dsimp only | split | exact Or.inl ‹_› | exact Or.inr rfl
    | with_reducible apply hc.other

theorem execTapInstruction_closed (hc : Closed A P) (kPorts : A .ports) (kSent : A .sent) {s : State} (i : TapInstr)
    (hs : P s) :
    nextHas P (execTapInstruction i s) := by
  unfold execTapInstruction
  repeat first
    | with_reducible assumption | with_reducible apply nextHas_next | with_reducible apply State.emit_closed hc
    | with_reducible apply closed_ite | dsimp only | split | exact Or.inl ‹_› | exact Or.inr rfl
    | with_reducible apply hc.other

theorem execTrstN_closed (hc : Closed A P) (kPorts : A .ports) {s : State} (low : Bool) (hs : P s) :
    nextHas P (execTrstN low s) := by
  unfold execTrstN
  repeat first
    | with_reducible assumption | with_reducible apply nextHas_next | with_reducible apply closed_ite | dsimp only
    | split | exact Or.inl ‹_› | exact Or.inr rfl | with_reducible apply hc.other

/-! ### Sys2Proof/Machine/CellCmds.lean -/

theorem execLateSlot_closed (hc : Closed A P) (kRegisters : A .registers) (kTime : A .time) (kPods : A .pods)
    (kFrames : A .frames) (kScouts : A .scouts) (kSequencers : A .sequencers) (kTake : A .take)
    (kStreams : A .streams) (kStores : A .stores) (kEvents : A .events) (kTriggers : A .triggers) (kRing : A .ring)
    (kSent : A .sent) {s : State} (u f : Nat) (hs : P s) :
    nextHas P (execLateSlot u f s) := by
  unfold execLateSlot
  repeat first
    | with_reducible assumption | with_reducible apply nextHas_next | with_reducible apply State.advanceTo_closed hc
    | with_reducible apply State.forceSlot_closed hc | with_reducible apply State.onFrame_closed hc
    | with_reducible apply closed_ite | dsimp only | split

theorem execCounterWrap_closed (hc : Closed A P) (kRegisters : A .registers) (kPods : A .pods) (kFrames : A .frames)
    (kScouts : A .scouts) (kSequencers : A .sequencers) (kTake : A .take) (kStreams : A .streams)
    (kStores : A .stores) (kEvents : A .events) (kTriggers : A .triggers) (kRing : A .ring) (kSent : A .sent)
    {s : State} (u f : Nat) (hs : P s) :
    nextHas P (execCounterWrap u f s) := by
  unfold execCounterWrap
  repeat first
    | with_reducible assumption | with_reducible apply nextHas_next | with_reducible apply State.evalSlot_closed hc
    | with_reducible apply State.onFrame_closed hc | with_reducible apply closed_ite | dsimp only | split

theorem execCounterReload_closed (hc : Closed A P) (kRegisters : A .registers) (kPods : A .pods)
    (kFrames : A .frames) (kScouts : A .scouts) (kSequencers : A .sequencers) (kTake : A .take)
    (kStreams : A .streams) (kStores : A .stores) (kEvents : A .events) (kTriggers : A .triggers) (kRing : A .ring)
    (kSent : A .sent) {s : State} (u f : Nat) (hs : P s) :
    nextHas P (execCounterReload u f s) := by
  unfold execCounterReload
  repeat first
    | with_reducible assumption | with_reducible apply nextHas_next | with_reducible apply State.evalSlot_closed hc
    | with_reducible apply State.onFrame_closed hc | with_reducible apply closed_ite | dsimp only | split

theorem execTimerHit_closed (hc : Closed A P) (kRegisters : A .registers) (kPods : A .pods) (kFrames : A .frames)
    (kScouts : A .scouts) (kSequencers : A .sequencers) (kTake : A .take) (kStreams : A .streams)
    (kStores : A .stores) (kEvents : A .events) (kTriggers : A .triggers) (kRing : A .ring) (kSent : A .sent)
    {s : State} (u f : Nat) (hs : P s) :
    nextHas P (execTimerHit u f s) := by
  unfold execTimerHit
  repeat first
    | with_reducible assumption | with_reducible apply nextHas_next | with_reducible apply State.evalSlot_closed hc
    | with_reducible apply State.onFrame_closed hc | with_reducible apply closed_ite | dsimp only | split

theorem execOperationEffect_closed (hc : Closed A P) (kRegisters : A .registers) (kPods : A .pods)
    (kFrames : A .frames) (kScouts : A .scouts) (kSequencers : A .sequencers) (kTake : A .take)
    (kStreams : A .streams) (kStores : A .stores) (kEvents : A .events) (kTriggers : A .triggers) (kRing : A .ring)
    (kSent : A .sent) {s : State} (u f : Nat) (hs : P s) :
    nextHas P (execOperationEffect u f s) := by
  unfold execOperationEffect
  repeat first
    | with_reducible assumption | with_reducible apply nextHas_next | with_reducible apply State.evalSlot_closed hc
    | with_reducible apply State.onFrame_closed hc | with_reducible apply closed_ite | dsimp only | split

theorem execScoutTransition_closed (hc : Closed A P) (kRegisters : A .registers) (kTime : A .time) (kPods : A .pods)
    (kFrames : A .frames) (kScouts : A .scouts) (kSequencers : A .sequencers) (kTake : A .take)
    (kStreams : A .streams) (kStores : A .stores) (kEvents : A .events) (kTriggers : A .triggers) (kRing : A .ring)
    (kSent : A .sent) {s : State} (u k tick : Nat) (level : Bool) (hs : P s) :
    nextHas P (execScoutTransition u k tick level s) := by
  unfold execScoutTransition
  repeat first
    | with_reducible assumption | with_reducible apply nextHas_next | with_reducible apply hc.setScout
    | with_reducible apply hc.tick | with_reducible apply State.advanceTo_closed hc
    | with_reducible apply State.formTo_closed hc | with_reducible apply State.keepEdge_closed hc
    | with_reducible apply State.on_closed hc | with_reducible apply State.putF_closed hc
    | with_reducible apply State.settleSeqs_closed hc | with_reducible apply closed_ite | dsimp only | split
    | exact Or.inl ‹_› | exact Or.inr rfl | with_reducible apply hc.other

theorem execSettlingEnd_closed (hc : Closed A P) (kRegisters : A .registers) (kTime : A .time) (kPods : A .pods)
    (kFrames : A .frames) (kScouts : A .scouts) (kSequencers : A .sequencers) (kTake : A .take)
    (kStreams : A .streams) (kStores : A .stores) (kEvents : A .events) (kTriggers : A .triggers) (kRing : A .ring)
    (kSent : A .sent) {s : State} (u k : Nat) (hs : P s) :
    nextHas P (execSettlingEnd u k s) := by
  unfold execSettlingEnd
  repeat first
    | with_reducible assumption | with_reducible apply nextHas_next | with_reducible apply State.advanceTo_closed hc
    | with_reducible apply State.formTo_closed hc | with_reducible apply State.on_closed hc
    | with_reducible apply State.setSuspend_closed hc | with_reducible apply State.settleSeqs_closed hc
    | with_reducible apply State.showSettling_closed hc | with_reducible apply closed_ite | dsimp only | split

theorem execResume_closed (hc : Closed A P) (kRegisters : A .registers) (kTime : A .time) (kPods : A .pods)
    (kFrames : A .frames) (kScouts : A .scouts) (kSequencers : A .sequencers) (kTake : A .take)
    (kStreams : A .streams) (kStores : A .stores) (kEvents : A .events) (kTriggers : A .triggers) (kRing : A .ring)
    (kSent : A .sent) {s : State} (u k : Nat) (hs : P s) :
    nextHas P (execResume u k s) := by
  unfold execResume
  repeat first
    | with_reducible assumption | with_reducible apply nextHas_next | with_reducible apply State.advanceTo_closed hc
    | with_reducible apply State.formTo_closed hc | with_reducible apply State.on_closed hc
    | with_reducible apply State.settleSeqs_closed hc | with_reducible apply closed_ite | dsimp only | split
    | exact Or.inl ‹_› | exact Or.inr rfl | with_reducible apply hc.other

/-! ### Sys2Proof/Machine/PowerCmds.lean -/

theorem execPeriodEnd_closed (hc : Closed A P) (kRegisters : A .registers) (kPlls : A .plls) (kTake : A .take)
    (kEvents : A .events) (kRing : A .ring) (kReeve : A .reeve) (kBoot : A .boot) (kSent : A .sent) {s : State}
    (vin iin energy : Nat) (supers : List Nat) (shared tj hottest : Nat) (hs : P s) :
    nextHas P (execPeriodEnd vin iin energy supers shared tj hottest s) := by
  unfold execPeriodEnd
  repeat first
    | with_reducible assumption | with_reducible apply nextHas_next | with_reducible apply State.endPeriod_closed hc
    | with_reducible apply State.finish_closed hc | with_reducible apply closed_ite | dsimp only | split

theorem execWearHour_closed (hc : Closed A P) (kRegisters : A .registers) (kEvents : A .events) (kReeve : A .reeve)
    (kSent : A .sent) {s : State} (hs : P s) :
    nextHas P (execWearHour s) := by
  unfold execWearHour
  repeat first
    | with_reducible assumption | with_reducible apply nextHas_next | with_reducible apply State.settleWear_closed hc
    | dsimp only | split | exact Or.inl ‹_› | exact Or.inr rfl | with_reducible apply hc.other

theorem execReeveWearLoad_closed (hc : Closed A P) (kRegisters : A .registers) (kReeve : A .reeve) {s : State}
    (seconds : Nat) (hs : P s) :
    nextHas P (execReeveWearLoad seconds s) := by
  unfold execReeveWearLoad
  repeat first
    | with_reducible assumption | with_reducible apply nextHas_next | with_reducible apply State.loadWear_closed hc
    | dsimp only | split

theorem execTrainingSlotGrant_closed (hc : Closed A P) (kRegisters : A .registers) (kTake : A .take)
    (kChannels : A .channels) {s : State} (u k : Nat) (hs : P s) :
    nextHas P (execTrainingSlotGrant u k s) := by
  unfold execTrainingSlotGrant
  repeat first
    | with_reducible assumption | with_reducible apply nextHas_next | with_reducible apply State.grantSlot_closed hc
    | with_reducible apply State.on_closed hc | dsimp only | split

theorem execTrainingSlotEnd_closed (hc : Closed A P) (kRegisters : A .registers) (kChannels : A .channels)
    {s : State} (u k : Nat) (hs : P s) :
    nextHas P (execTrainingSlotEnd u k s) := by
  unfold execTrainingSlotEnd
  repeat first
    | with_reducible assumption | with_reducible apply nextHas_next | with_reducible apply hc.setChan
    | with_reducible apply State.on_closed hc | dsimp only | split | exact Or.inl ‹_› | exact Or.inr rfl
    | with_reducible apply hc.other

theorem execOverVoltage_closed (hc : Closed A P) (kRegisters : A .registers) (kPlls : A .plls) (kTake : A .take)
    (kEvents : A .events) (kRing : A .ring) (kBoot : A .boot) (kSent : A .sent) {s : State} (hs : P s) :
    nextHas P (execOverVoltage s) := by
  unfold execOverVoltage
  repeat first
    | with_reducible assumption | with_reducible apply nextHas_next | with_reducible apply State.finish_closed hc
    | with_reducible apply State.ivrStop_closed hc | with_reducible apply closed_ite | dsimp only | split

theorem execOverCurrent_closed (hc : Closed A P) (kRegisters : A .registers) (kPlls : A .plls) (kTake : A .take)
    (kEvents : A .events) (kRing : A .ring) (kBoot : A .boot) (kSent : A .sent) {s : State} (hs : P s) :
    nextHas P (execOverCurrent s) := by
  unfold execOverCurrent
  repeat first
    | with_reducible assumption | with_reducible apply nextHas_next | with_reducible apply State.finish_closed hc
    | with_reducible apply State.ivrStop_closed hc | with_reducible apply closed_ite | dsimp only | split

theorem execRailFault_closed (hc : Closed A P) (kRegisters : A .registers) (kPlls : A .plls) (kTake : A .take)
    (kEvents : A .events) (kRing : A .ring) (kBoot : A .boot) (kSent : A .sent) {s : State} (rail : Nat) (hs : P s)
    :
    nextHas P (execRailFault rail s) := by
  unfold execRailFault
  repeat first
    | with_reducible assumption | with_reducible apply nextHas_next | with_reducible apply State.finish_closed hc
    | with_reducible apply State.ivrStop_closed hc | with_reducible apply State.putF_closed hc
    | with_reducible apply State.showReady_closed hc | with_reducible apply closed_ite | dsimp only | split

theorem execVinHigh_closed (hc : Closed A P) (kRegisters : A .registers) (kEvents : A .events) (kSent : A .sent)
    {s : State} (hs : P s) :
    nextHas P (execVinHigh s) := by
  unfold execVinHigh
  repeat first
    | with_reducible assumption | with_reducible apply nextHas_next | with_reducible apply State.raise_closed hc
    | with_reducible apply closed_ite | dsimp only | split

theorem execVinLow_closed (hc : Closed A P) (kRegisters : A .registers) (kEvents : A .events) (kSent : A .sent)
    {s : State} (hs : P s) :
    nextHas P (execVinLow s) := by
  unfold execVinLow
  repeat first
    | with_reducible assumption | with_reducible apply nextHas_next | with_reducible apply State.raise_closed hc
    | with_reducible apply closed_ite | dsimp only | split

theorem execPhaseDropped_closed (hc : Closed A P) (kRegisters : A .registers) (kEvents : A .events)
    (kReeve : A .reeve) (kSent : A .sent) {s : State} (u phase : Nat) (hs : P s) :
    nextHas P (execPhaseDropped u phase s) := by
  unfold execPhaseDropped
  repeat first
    | with_reducible assumption | with_reducible apply nextHas_next | with_reducible apply State.raise_closed hc
    | with_reducible apply State.setBitF_closed hc | with_reducible apply closed_ite | dsimp only | split
    | exact Or.inl ‹_› | exact Or.inr rfl | with_reducible apply hc.other

theorem execRailsOff_closed (hc : Closed A P) (kAll : ∀ k, A k) {s : State} (hs : P s) :
    nextHas P (execRailsOff s) := by
  unfold execRailsOff
  repeat first
    | with_reducible assumption | exact kAll _ | with_reducible apply nextHas_next
    | with_reducible apply State.advanceTo_closed hc | with_reducible apply State.finish_closed hc
    | with_reducible apply State.losePower_closed hc | dsimp only | split | exact Or.inl ‹_› | exact Or.inr rfl
    | exact Or.inl (kAll _) | with_reducible apply hc.other

theorem execUvlo_closed (hc : Closed A P) (kAll : ∀ k, A k) {s : State} (hs : P s) : nextHas P (execUvlo s) := by
  unfold execUvlo
  repeat first
    | with_reducible assumption | exact kAll _ | with_reducible apply nextHas_next
    | with_reducible apply State.finish_closed hc | with_reducible apply State.losePower_closed hc
    | with_reducible apply closed_ite | dsimp only | split | exact Or.inl ‹_› | exact Or.inr rfl
    | exact Or.inl (kAll _) | with_reducible apply hc.other

theorem execVstbyLost_closed (hc : Closed A P) (kAll : ∀ k, A k) {s : State} (hs : P s) :
    nextHas P (execVstbyLost s) := by
  unfold execVstbyLost
  repeat first
    | with_reducible assumption | exact kAll _ | with_reducible apply nextHas_next
    | with_reducible apply State.finish_closed hc | with_reducible apply State.losePower_closed hc
    | with_reducible apply State.putF_closed hc | with_reducible apply State.raise_closed hc
    | with_reducible apply closed_ite | dsimp only | split | exact Or.inl ‹_› | exact Or.inr rfl
    | exact Or.inl (kAll _) | with_reducible apply hc.other

theorem execVstbyReturn_closed (hc : Closed A P) (kRegisters : A .registers) (kBoot : A .boot) {s : State}
    (hs : P s) :
    nextHas P (execVstbyReturn s) := by
  unfold execVstbyReturn
  repeat first
    | with_reducible assumption | with_reducible apply nextHas_next | with_reducible apply State.putF_closed hc
    | with_reducible apply closed_ite | dsimp only | split | exact Or.inl ‹_› | exact Or.inr rfl
    | with_reducible apply hc.other

/-! ### Sys2Proof/Machine/PressCmds.lean -/

theorem execPressBlock_closed (hc : Closed A P) (kRegisters : A .registers) (kStreams : A .streams)
    (kStores : A .stores) (kEvents : A .events) (kSent : A .sent) {s : State} (u : Nat) (sLane : Bool)
    (lengths : List Nat) (coded : Option (List Nat)) (flaws : List (Nat × Option Nat)) (hs : P s) :
    nextHas P (execPressBlock u sLane lengths coded flaws s) := by
  unfold execPressBlock
  repeat first
    | with_reducible assumption | with_reducible apply nextHas_next | with_reducible apply hc.setStore
    | with_reducible apply State.on_closed hc | with_reducible apply State.pressOne_closed hc
    | with_reducible apply State.settleBacklog_closed hc | dsimp only | split | exact Or.inl ‹_› | exact Or.inr rfl
    | with_reducible apply hc.other

/-! ### Sys2Proof/Machine/TakeCmds.lean -/

theorem execArm_closed (hc : Closed A P) (kRegisters : A .registers) (kIntake : A .intake) (kPods : A .pods)
    (kFrames : A .frames) (kScouts : A .scouts) (kTake : A .take) (kStreams : A .streams) (kStores : A .stores)
    (kEvents : A .events) (kHost : A .host) (kRing : A .ring) (kQueues : A .queues) (kDram : A .dram)
    (kChannels : A .channels) (kBoard : A .board) (kReeve : A .reeve) (kSent : A .sent) {s : State} (hs : P s) :
    nextHas P (execArm s) := by
  unfold execArm
  repeat first
    | with_reducible assumption | with_reducible apply nextHas_next | with_reducible apply State.arm_closed hc
    | with_reducible apply State.finish_closed hc | with_reducible apply State.runCommand_closed hc
    | with_reducible intro _ | dsimp only | split

theorem execTakeFirstSlot_closed (hc : Closed A P) (kRegisters : A .registers) (kTime : A .time)
    (kIntake : A .intake) (kScouts : A .scouts) (kSequencers : A .sequencers) (kTake : A .take)
    (kStreams : A .streams) (kStores : A .stores) (kEvents : A .events) (kTriggers : A .triggers) (kRing : A .ring)
    (kSram : A .sram) (kReeve : A .reeve) (kSent : A .sent) {s : State} (hs : P s) :
    nextHas P (execTakeFirstSlot s) := by
  unfold execTakeFirstSlot
  repeat first
    | with_reducible assumption | with_reducible apply nextHas_next | with_reducible apply State.advanceTo_closed hc
    | with_reducible apply State.beginTake_closed hc | with_reducible apply State.finish_closed hc
    | with_reducible apply closed_ite | dsimp only | split

theorem execStop_closed (hc : Closed A P) (kRegisters : A .registers) (kPlls : A .plls) (kTake : A .take)
    (kEvents : A .events) (kHost : A .host) (kRing : A .ring) (kSent : A .sent) {s : State} (hs : P s) :
    nextHas P (execStop s) := by
  unfold execStop
  repeat first
    | with_reducible assumption | with_reducible apply nextHas_next | with_reducible apply State.endCommand_closed hc
    | with_reducible apply State.finish_closed hc | with_reducible apply State.runCommand_closed hc
    | with_reducible apply State.stopTake_closed hc | with_reducible intro _ | with_reducible apply closed_ite
    | dsimp only | split | exact Or.inl ‹_› | exact Or.inr rfl | with_reducible apply hc.other

theorem execSegmentEnd_closed (hc : Closed A P) (kRegisters : A .registers) (kTime : A .time) (kPlls : A .plls)
    (kPods : A .pods) (kFrames : A .frames) (kScouts : A .scouts) (kSequencers : A .sequencers) (kTake : A .take)
    (kStreams : A .streams) (kStores : A .stores) (kEvents : A .events) (kTriggers : A .triggers)
    (kSidebands : A .sidebands) (kRing : A .ring) (kSent : A .sent) {s : State} (hs : P s) :
    nextHas P (execSegmentEnd s) := by
  unfold execSegmentEnd
  repeat first
    | with_reducible assumption | with_reducible apply nextHas_next | with_reducible apply State.advanceTo_closed hc
    | with_reducible apply State.endSegment_closed hc | with_reducible apply State.endTake_closed hc
    | with_reducible apply State.finish_closed hc | with_reducible apply State.nextSegment_closed hc
    | with_reducible apply closed_ite | dsimp only | split | exact Or.inl ‹_› | exact Or.inr rfl
    | with_reducible apply hc.other

theorem execTakeLastSlot_closed (hc : Closed A P) (kRegisters : A .registers) (kTime : A .time) (kPlls : A .plls)
    (kPods : A .pods) (kFrames : A .frames) (kScouts : A .scouts) (kSequencers : A .sequencers) (kTake : A .take)
    (kStreams : A .streams) (kStores : A .stores) (kEvents : A .events) (kTriggers : A .triggers)
    (kSidebands : A .sidebands) (kRing : A .ring) (kSent : A .sent) {s : State} (hs : P s) :
    nextHas P (execTakeLastSlot s) := by
  unfold execTakeLastSlot
  repeat first
    | with_reducible assumption | with_reducible apply nextHas_next | with_reducible apply State.advanceTo_closed hc
    | with_reducible apply State.endTake_closed hc | with_reducible apply State.finish_closed hc
    | with_reducible apply closed_ite | dsimp only | split | exact Or.inl ‹_› | exact Or.inr rfl
    | with_reducible apply hc.other

theorem execSegmentRecord_closed (hc : Closed A P) (kRegisters : A .registers) (kTake : A .take)
    (kStreams : A .streams) (kStores : A .stores) {s : State} (u : Nat) (hs : P s) :
    nextHas P (execSegmentRecord u s) := by
  unfold execSegmentRecord
  repeat first
    | with_reducible assumption | with_reducible apply nextHas_next | with_reducible apply State.finish_closed hc
    | with_reducible apply State.writeSegment_closed hc | with_reducible apply closed_ite | dsimp only | split

theorem execBlockCut_closed (hc : Closed A P) (kRegisters : A .registers) (kPods : A .pods) (kFrames : A .frames)
    (kScouts : A .scouts) (kStreams : A .streams) (kStores : A .stores) (kEvents : A .events) (kSent : A .sent)
    {s : State} (i : StreamId) (tick fit : Nat) (hs : P s) :
    nextHas P (execBlockCut i tick fit s) := by
  unfold execBlockCut
  repeat first
    | with_reducible assumption | with_reducible apply nextHas_next | with_reducible apply hc.tick
    | with_reducible apply State.catchUp_closed hc | with_reducible apply State.cutFrame_closed hc
    | with_reducible apply State.cutMarkDue_closed hc | with_reducible apply State.cutScout_closed hc
    | with_reducible apply State.finish_closed hc | with_reducible apply State.formTo_closed hc
    | with_reducible apply closed_ite | dsimp only | split | exact Or.inl ‹_› | exact Or.inr rfl
    | with_reducible apply hc.other

theorem execHoleEnd_closed (hc : Closed A P) (kRegisters : A .registers) (kStreams : A .streams) {s : State}
    (i : StreamId) (tick : Nat) (hs : P s) :
    nextHas P (execHoleEnd i tick s) := by
  unfold execHoleEnd
  repeat first
    | with_reducible assumption | with_reducible apply nextHas_next | with_reducible apply hc.tick
    | with_reducible apply State.finish_closed hc | with_reducible apply State.holeEnd_closed hc
    | with_reducible apply closed_ite | dsimp only | split | exact Or.inl ‹_› | exact Or.inr rfl
    | with_reducible apply hc.other

theorem execStoreLoss_closed (hc : Closed A P) (kRegisters : A .registers) (kTime : A .time) (kPods : A .pods)
    (kFrames : A .frames) (kScouts : A .scouts) (kTake : A .take) (kStreams : A .streams) (kStores : A .stores)
    (kEvents : A .events) (kSent : A .sent) {s : State} (u tick : Nat) (hs : P s) :
    nextHas P (execStoreLoss u tick s) := by
  unfold execStoreLoss
  repeat first
    | with_reducible assumption | with_reducible apply nextHas_next | with_reducible apply hc.tick
    | with_reducible apply State.advanceTo_closed hc | with_reducible apply State.catchUpAll_closed hc
    | with_reducible apply State.cutAll_closed hc | with_reducible apply State.cutMark_closed hc
    | with_reducible apply State.endStoreLoss_closed hc | with_reducible apply State.finish_closed hc
    | with_reducible apply State.flushSystem_closed hc | with_reducible apply State.formTo_closed hc
    | (with_reducible apply closed_foldl; rotate_left; intro _ _ _) | with_reducible apply closed_ite | dsimp only
    | split | exact Or.inl ‹_› | exact Or.inr rfl | with_reducible apply hc.other

theorem execMBlockAge_closed (hc : Closed A P) (kRegisters : A .registers) (kTime : A .time) (kStreams : A .streams)
    (kStores : A .stores) {s : State} (hs : P s) :
    nextHas P (execMBlockAge s) := by
  unfold execMBlockAge
  repeat first
    | with_reducible assumption | with_reducible apply nextHas_next | with_reducible apply State.advanceTo_closed hc
    | with_reducible apply State.cutMark_closed hc | with_reducible apply State.finish_closed hc
    | with_reducible apply closed_ite | dsimp only | split

end Sys2Proof.Machine
end

