-- ==== Sys2Proof/Laws/Exec.lean ====
section
/-!
SUPPORT. Every command at once: what holds of a state and is kept by the primitive updates of the kinds of state that a command
may change holds of the next state that the command answers.
-/
namespace Sys2Proof.Machine

variable {A : StateKind → Prop} {P : State → Prop}

theorem kind_mem {k : StateKind} {l : List StateKind} (h : l.elem k = true) : k ∈ l := List.elem_iff.mp h

theorem exec_closed (hc : Closed A P) (c : Instr) {s : State} (hA : ∀ k ∈ touches c, A k) (hs : P s) :
    nextHas P (exec c s) := by
  have h : ∀ k, (touches c).elem k = true → A k := fun k e => hA k (kind_mem e)
  cases c
  case registerWrite =>
    exact execRegisterWrite_closed hc (h _ rfl) (h _ rfl) (h _ rfl) (h _ rfl) (h _ rfl) (h _ rfl) (h _ rfl)
      (h _ rfl) (h _ rfl) (h _ rfl) (h _ rfl) (h _ rfl) (h _ rfl) (h _ rfl) (h _ rfl) (h _ rfl) (h _ rfl)
      (h _ rfl) (h _ rfl) (h _ rfl) (h _ rfl) (h _ rfl) (h _ rfl) (h _ rfl) (h _ rfl) _ _ _ hs
  case pageReset =>
    exact execPageReset_closed hc (h _ rfl) (h _ rfl) (h _ rfl) (h _ rfl) (h _ rfl) (h _ rfl) (h _ rfl) (h _ rfl)
      (h _ rfl) (h _ rfl) (h _ rfl) (h _ rfl) (h _ rfl) (h _ rfl) (h _ rfl) (h _ rfl) (h _ rfl) (h _ rfl)
      (h _ rfl) (h _ rfl) (h _ rfl) (h _ rfl) (h _ rfl) (h _ rfl) _ hs
  case commit =>
    exact execCommit_closed hc (h _ rfl) (h _ rfl) (h _ rfl) _ hs
  case discard =>
    exact execDiscard_closed hc (h _ rfl) (h _ rfl) (h _ rfl) _ hs
  case shadowApply =>
    exact execShadowApply_closed hc (h _ rfl) (h _ rfl) (h _ rfl) (h _ rfl) (h _ rfl) (h _ rfl) (h _ rfl)
      (h _ rfl) (h _ rfl) (h _ rfl) (h _ rfl) (h _ rfl) (h _ rfl) _ hs
  case partialApply =>
    exact execPartialApply_closed hc (h _ rfl) _ hs
  case evForce =>
    exact execEvForce_closed hc (h _ rfl) (h _ rfl) (h _ rfl) _ _ hs
  case windowWrite =>
    exact execWindowWrite_closed hc (h _ rfl) (h _ rfl) (h _ rfl) (h _ rfl) (h _ rfl) _ _ _ _ hs
  case bitSetAliasWrite =>
    exact execBitSetAliasWrite_closed hc (h _ rfl) (h _ rfl) (h _ rfl) (h _ rfl) (h _ rfl) _ _ _ _ hs
  case bitClearAliasWrite =>
    exact execBitClearAliasWrite_closed hc (h _ rfl) (h _ rfl) (h _ rfl) (h _ rfl) (h _ rfl) _ _ _ _ hs
  case windowRead =>
    exact execWindowRead_closed hc (h _ rfl) (h _ rfl) (h _ rfl) (h _ rfl) (h _ rfl) _ _ _ hs
  case load =>
    exact execLoad_closed hc (h _ rfl) (h _ rfl) hs
  case hiveTimeLoad =>
    exact execHiveTimeLoad_closed hc (h _ rfl) (h _ rfl) (h _ rfl) hs
  case turnMark =>
    exact execTurnMark_closed hc (h _ rfl) (h _ rfl) (h _ rfl) _ hs
  case sscChange =>
    exact execSscChange_closed hc (h _ rfl) (h _ rfl) _ hs
  case pllLock =>
    exact execPllLock_closed hc (h _ rfl) (h _ rfl) (h _ rfl) (h _ rfl) (h _ rfl) (h _ rfl) (h _ rfl) (h _ rfl)
      (h _ rfl) (h _ rfl) (h _ rfl) (h _ rfl) (h _ rfl) (h _ rfl) (h _ rfl) (h _ rfl) (h _ rfl) (h _ rfl) _ _ hs
  case timeAlignMessage =>
    exact execTimeAlignMessage_closed hc (h _ rfl) (h _ rfl) (h _ rfl) (h _ rfl) (h _ rfl) (h _ rfl) (h _ rfl)
      (h _ rfl) (h _ rfl) (h _ rfl) (h _ rfl) (h _ rfl) (h _ rfl) _ _ hs
  case refLost =>
    exact execRefLost_closed hc (h _ rfl) (h _ rfl) (h _ rfl) (h _ rfl) (h _ rfl) (h _ rfl) (h _ rfl) (h _ rfl)
      (h _ rfl) (h _ rfl) (h _ rfl) _ hs
  case lockLost =>
    exact execLockLost_closed hc (h _ rfl) (h _ rfl) (h _ rfl) (h _ rfl) (h _ rfl) _ hs
  case coastLimit =>
    exact execCoastLimit_closed hc (h _ rfl) (h _ rfl) (h _ rfl) (h _ rfl) (h _ rfl) (h _ rfl) (h _ rfl) (h _ rfl)
      (h _ rfl) (h _ rfl) _ hs
  case refReturn =>
    exact execRefReturn_closed hc (h _ rfl) (h _ rfl) (h _ rfl) (h _ rfl) (h _ rfl) (h _ rfl) (h _ rfl) (h _ rfl)
      (h _ rfl) (h _ rfl) (h _ rfl) _ _ hs
  case resumeTry =>
    exact execResumeTry_closed hc (h _ rfl) (h _ rfl) (h _ rfl) (h _ rfl) (h _ rfl) (h _ rfl) (h _ rfl) (h _ rfl)
      (h _ rfl) (h _ rfl) (h _ rfl) _ _ hs
  case intakeResume =>
    exact execIntakeResume_closed hc (h _ rfl) (h _ rfl) (h _ rfl) (h _ rfl) (h _ rfl) (h _ rfl) (h _ rfl)
      (h _ rfl) (h _ rfl) (h _ rfl) (h _ rfl) (h _ rfl) (h _ rfl) (h _ rfl) _ hs
  case linkRetry =>
    exact execLinkRetry_closed hc (h _ rfl) (h _ rfl) (h _ rfl) (h _ rfl) (h _ rfl) (h _ rfl) (h _ rfl) (h _ rfl)
      (h _ rfl) (h _ rfl) (h _ rfl) (h _ rfl) (h _ rfl) _ _ hs
  case blockLock =>
    exact execBlockLock_closed hc (h _ rfl) (h _ rfl) (h _ rfl) (h _ rfl) (h _ rfl) (h _ rfl) (h _ rfl) (h _ rfl)
      (h _ rfl) (h _ rfl) (h _ rfl) (h _ rfl) _ _ _ hs
  case status =>
    exact execStatus_closed hc (h _ rfl) (h _ rfl) (h _ rfl) (h _ rfl) (h _ rfl) (h _ rfl) (h _ rfl) (h _ rfl)
      (h _ rfl) (h _ rfl) (h _ rfl) (h _ rfl) _ _ _ _ hs
  case replyTimeout =>
    exact execReplyTimeout_closed hc (h _ rfl) (h _ rfl) (h _ rfl) (h _ rfl) (h _ rfl) (h _ rfl) (h _ rfl)
      (h _ rfl) (h _ rfl) (h _ rfl) (h _ rfl) (h _ rfl) _ _ hs
  case marker =>
    exact execMarker_closed hc (h _ rfl) (h _ rfl) (h _ rfl) (h _ rfl) (h _ rfl) (h _ rfl) (h _ rfl) (h _ rfl)
      (h _ rfl) (h _ rfl) (h _ rfl) (h _ rfl) (h _ rfl) _ _ _ _ _ _ _ _ _ hs
  case dataBlock =>
    exact execDataBlock_closed hc (h _ rfl) (h _ rfl) (h _ rfl) (h _ rfl) (h _ rfl) (h _ rfl) (h _ rfl) (h _ rfl)
      (h _ rfl) (h _ rfl) (h _ rfl) (h _ rfl) (h _ rfl) _ _ _ _ _ _ hs
  case typeError =>
    exact execTypeError_closed hc (h _ rfl) (h _ rfl) (h _ rfl) (h _ rfl) (h _ rfl) (h _ rfl) (h _ rfl) (h _ rfl)
      (h _ rfl) (h _ rfl) (h _ rfl) (h _ rfl) _ _ _ hs
  case idle =>
    exact execIdle_closed hc (h _ rfl) (h _ rfl) (h _ rfl) (h _ rfl) (h _ rfl) (h _ rfl) (h _ rfl) (h _ rfl)
      (h _ rfl) (h _ rfl) (h _ rfl) (h _ rfl) _ _ _ hs
  case linkUpAbandon =>
    exact execLinkUpAbandon_closed hc (h _ rfl) (h _ rfl) (h _ rfl) (h _ rfl) (h _ rfl) (h _ rfl) (h _ rfl)
      (h _ rfl) (h _ rfl) (h _ rfl) (h _ rfl) (h _ rfl) (h _ rfl) _ _ hs
  case laneLoss =>
    exact execLaneLoss_closed hc (h _ rfl) (h _ rfl) (h _ rfl) (h _ rfl) (h _ rfl) (h _ rfl) (h _ rfl) (h _ rfl)
      (h _ rfl) (h _ rfl) (h _ rfl) (h _ rfl) _ _ _ _ hs
  case laneRetrainRetry =>
    exact execLaneRetrainRetry_closed hc (h _ rfl) (h _ rfl) (h _ rfl) (h _ rfl) (h _ rfl) (h _ rfl) (h _ rfl)
      (h _ rfl) (h _ rfl) (h _ rfl) (h _ rfl) (h _ rfl) (h _ rfl) _ _ hs
  case podCmdSend =>
    exact execPodCmdSend_closed hc (h _ rfl) (h _ rfl) (h _ rfl) (h _ rfl) (h _ rfl) (h _ rfl) (h _ rfl) (h _ rfl)
      (h _ rfl) (h _ rfl) (h _ rfl) (h _ rfl) _ _ hs
  case lateSlot =>
    exact execLateSlot_closed hc (h _ rfl) (h _ rfl) (h _ rfl) (h _ rfl) (h _ rfl) (h _ rfl) (h _ rfl) (h _ rfl)
      (h _ rfl) (h _ rfl) (h _ rfl) (h _ rfl) (h _ rfl) _ _ hs
  case settlingEnd =>
    exact execSettlingEnd_closed hc (h _ rfl) (h _ rfl) (h _ rfl) (h _ rfl) (h _ rfl) (h _ rfl) (h _ rfl)
      (h _ rfl) (h _ rfl) (h _ rfl) (h _ rfl) (h _ rfl) (h _ rfl) _ _ hs
  case scoutTransition =>
    exact execScoutTransition_closed hc (h _ rfl) (h _ rfl) (h _ rfl) (h _ rfl) (h _ rfl) (h _ rfl) (h _ rfl)
      (h _ rfl) (h _ rfl) (h _ rfl) (h _ rfl) (h _ rfl) (h _ rfl) _ _ _ _ hs
  case resume =>
    exact execResume_closed hc (h _ rfl) (h _ rfl) (h _ rfl) (h _ rfl) (h _ rfl) (h _ rfl) (h _ rfl) (h _ rfl)
      (h _ rfl) (h _ rfl) (h _ rfl) (h _ rfl) (h _ rfl) _ _ hs
  case counterWrap =>
    exact execCounterWrap_closed hc (h _ rfl) (h _ rfl) (h _ rfl) (h _ rfl) (h _ rfl) (h _ rfl) (h _ rfl)
      (h _ rfl) (h _ rfl) (h _ rfl) (h _ rfl) (h _ rfl) _ _ hs
  case counterReload =>
    exact execCounterReload_closed hc (h _ rfl) (h _ rfl) (h _ rfl) (h _ rfl) (h _ rfl) (h _ rfl) (h _ rfl)
      (h _ rfl) (h _ rfl) (h _ rfl) (h _ rfl) (h _ rfl) _ _ hs
  case timerHit =>
    exact execTimerHit_closed hc (h _ rfl) (h _ rfl) (h _ rfl) (h _ rfl) (h _ rfl) (h _ rfl) (h _ rfl) (h _ rfl)
      (h _ rfl) (h _ rfl) (h _ rfl) (h _ rfl) _ _ hs
  case operationEffect =>
    exact execOperationEffect_closed hc (h _ rfl) (h _ rfl) (h _ rfl) (h _ rfl) (h _ rfl) (h _ rfl) (h _ rfl)
      (h _ rfl) (h _ rfl) (h _ rfl) (h _ rfl) (h _ rfl) _ _ hs
  case superExit =>
    exact execSuperExit_closed hc (h _ rfl) (h _ rfl) (h _ rfl) (h _ rfl) (h _ rfl) (h _ rfl) (h _ rfl) (h _ rfl)
      (h _ rfl) (h _ rfl) (h _ rfl) (h _ rfl) (h _ rfl) _ hs
  case markForward =>
    exact execMarkForward_closed hc (h _ rfl) (h _ rfl) (h _ rfl) (h _ rfl) (h _ rfl) (h _ rfl) hs
  case hiveExit =>
    exact execHiveExit_closed hc (h _ rfl) (h _ rfl) (h _ rfl) (h _ rfl) (h _ rfl) (h _ rfl) (h _ rfl) (h _ rfl)
      (h _ rfl) (h _ rfl) (h _ rfl) (h _ rfl) (h _ rfl) hs
  case trigOutPulseEnd =>
    exact execTrigOutPulseEnd_closed hc (h _ rfl) (h _ rfl) (h _ rfl) (h _ rfl) _ hs
  case hiveTimerHit =>
    exact execHiveTimerHit_closed hc (h _ rfl) (h _ rfl) (h _ rfl) (h _ rfl) (h _ rfl) (h _ rfl) (h _ rfl)
      (h _ rfl) (h _ rfl) (h _ rfl) (h _ rfl) (h _ rfl) (h _ rfl) hs
  case trig =>
    exact execTrig_closed hc (h _ rfl) hs
  case trigIn =>
    exact execTrigIn_closed hc (h _ rfl) (h _ rfl) _ _ _ hs
  case waggleLost =>
    exact execWaggleLost_closed hc (h _ rfl) (h _ rfl) (h _ rfl) (h _ rfl) (h _ rfl) (h _ rfl) (h _ rfl) _ _ _ hs
  case waggleWireFail =>
    exact execWaggleWireFail_closed hc (h _ rfl) (h _ rfl) (h _ rfl) _ hs
  case clockPairFail =>
    exact execClockPairFail_closed hc (h _ rfl) (h _ rfl) (h _ rfl) (h _ rfl) (h _ rfl) (h _ rfl) _ hs
  case arm =>
    exact execArm_closed hc (h _ rfl) (h _ rfl) (h _ rfl) (h _ rfl) (h _ rfl) (h _ rfl) (h _ rfl) (h _ rfl)
      (h _ rfl) (h _ rfl) (h _ rfl) (h _ rfl) (h _ rfl) (h _ rfl) (h _ rfl) (h _ rfl) (h _ rfl) hs
  case takeFirstSlot =>
    exact execTakeFirstSlot_closed hc (h _ rfl) (h _ rfl) (h _ rfl) (h _ rfl) (h _ rfl) (h _ rfl) (h _ rfl)
      (h _ rfl) (h _ rfl) (h _ rfl) (h _ rfl) (h _ rfl) (h _ rfl) (h _ rfl) hs
  case stop =>
    exact execStop_closed hc (h _ rfl) (h _ rfl) (h _ rfl) (h _ rfl) (h _ rfl) (h _ rfl) (h _ rfl) hs
  case takeLastSlot =>
    exact execTakeLastSlot_closed hc (h _ rfl) (h _ rfl) (h _ rfl) (h _ rfl) (h _ rfl) (h _ rfl) (h _ rfl)
      (h _ rfl) (h _ rfl) (h _ rfl) (h _ rfl) (h _ rfl) (h _ rfl) (h _ rfl) (h _ rfl) hs
  case segmentEnd =>
    exact execSegmentEnd_closed hc (h _ rfl) (h _ rfl) (h _ rfl) (h _ rfl) (h _ rfl) (h _ rfl) (h _ rfl) (h _ rfl)
      (h _ rfl) (h _ rfl) (h _ rfl) (h _ rfl) (h _ rfl) (h _ rfl) (h _ rfl) hs
  case segmentRecord =>
    exact execSegmentRecord_closed hc (h _ rfl) (h _ rfl) (h _ rfl) (h _ rfl) _ hs
  case blockCut =>
    exact execBlockCut_closed hc (h _ rfl) (h _ rfl) (h _ rfl) (h _ rfl) (h _ rfl) (h _ rfl) (h _ rfl) (h _ rfl) _
      _ _ hs
  case holeEnd =>
    exact execHoleEnd_closed hc (h _ rfl) (h _ rfl) _ _ hs
  case storeLoss =>
    exact execStoreLoss_closed hc (h _ rfl) (h _ rfl) (h _ rfl) (h _ rfl) (h _ rfl) (h _ rfl) (h _ rfl) (h _ rfl)
      (h _ rfl) (h _ rfl) _ _ hs
  case mBlockAge =>
    exact execMBlockAge_closed hc (h _ rfl) (h _ rfl) (h _ rfl) (h _ rfl) hs
  case pressBlock =>
    exact execPressBlock_closed hc (h _ rfl) (h _ rfl) (h _ rfl) (h _ rfl) (h _ rfl) _ _ _ _ _ hs
  case queuePush =>
    exact execQueuePush_closed hc (h _ rfl) (h _ rfl) (h _ rfl) (h _ rfl) (h _ rfl) (h _ rfl) (h _ rfl) (h _ rfl)
      _ _ _ _ hs
  case queuePop =>
    exact execQueuePop_closed hc (h _ rfl) (h _ rfl) (h _ rfl) (h _ rfl) (h _ rfl) (h _ rfl) _ _ _ hs
  case dramWriterPop =>
    exact execDramWriterPop_closed hc (h _ rfl) (h _ rfl) (h _ rfl) (h _ rfl) (h _ rfl) (h _ rfl) (h _ rfl)
      (h _ rfl) _ _ _ hs
  case dramAccess =>
    exact execDramAccess_closed hc (h _ rfl) (h _ rfl) (h _ rfl) (h _ rfl) (h _ rfl) (h _ rfl) (h _ rfl) (h _ rfl)
      (h _ rfl) _ _ _ _ _ _ _ _ hs
  case portHeld =>
    exact execPortHeld_closed hc (h _ rfl) (h _ rfl) (h _ rfl) (h _ rfl) _ _ _ _ _ hs
  case actWindow =>
    exact execActWindow_closed hc (h _ rfl) (h _ rfl) (h _ rfl) _ _ hs
  case refresh =>
    exact execRefresh_closed hc (h _ rfl) (h _ rfl) (h _ rfl) (h _ rfl) _ _ hs
  case mr4Read =>
    exact execMr4Read_closed hc (h _ rfl) (h _ rfl) (h _ rfl) (h _ rfl) _ _ _ _ hs
  case powerDown =>
    exact execPowerDown_closed hc (h _ rfl) (h _ rfl) (h _ rfl) _ _ _ _ hs
  case selfRefreshEntry =>
    exact execSelfRefreshEntry_closed hc (h _ rfl) (h _ rfl) (h _ rfl) _ _ hs
  case selfRefreshExit =>
    exact execSelfRefreshExit_closed hc (h _ rfl) (h _ rfl) (h _ rfl) _ _ hs
  case rhTableClear =>
    exact execRhTableClear_closed hc (h _ rfl) (h _ rfl) _ _ hs
  case neighbourRefresh =>
    exact execNeighbourRefresh_closed hc (h _ rfl) (h _ rfl) (h _ rfl) _ _ _ _ _ hs
  case scrubRead =>
    exact execScrubRead_closed hc (h _ rfl) (h _ rfl) (h _ rfl) (h _ rfl) (h _ rfl) (h _ rfl) (h _ rfl) (h _ rfl)
      (h _ rfl) _ _ _ _ hs
  case retrain =>
    exact execRetrain_closed hc (h _ rfl) (h _ rfl) (h _ rfl) (h _ rfl) (h _ rfl) (h _ rfl) (h _ rfl) _ _ hs
  case trainingStepDone =>
    exact execTrainingStepDone_closed hc (h _ rfl) (h _ rfl) (h _ rfl) (h _ rfl) (h _ rfl) (h _ rfl) (h _ rfl)
      (h _ rfl) (h _ rfl) (h _ rfl) (h _ rfl) (h _ rfl) _ _ _ hs
  case clearingDone =>
    exact execClearingDone_closed hc (h _ rfl) (h _ rfl) (h _ rfl) (h _ rfl) (h _ rfl) (h _ rfl) (h _ rfl)
      (h _ rfl) (h _ rfl) (h _ rfl) (h _ rfl) _ _ hs
  case periodicRetrain =>
    exact execPeriodicRetrain_closed hc (h _ rfl) (h _ rfl) _ _ hs
  case periodicStepAbandon =>
    exact execPeriodicStepAbandon_closed hc (h _ rfl) (h _ rfl) _ _ hs
  case frequencyChangeRelease =>
    exact execFrequencyChangeRelease_closed hc (h _ rfl) (h _ rfl) (h _ rfl) _ hs
  case alertN =>
    exact execAlertN_closed hc (h _ rfl) (h _ rfl) (h _ rfl) (h _ rfl) (h _ rfl) (h _ rfl) (h _ rfl) (h _ rfl) _ _
      hs
  case commandAcknowledged =>
    exact execCommandAcknowledged_closed hc (h _ rfl) (h _ rfl) _ _ _ hs
  case layoutSwitch =>
    exact execLayoutSwitch_closed hc (h _ rfl) (h _ rfl) (h _ rfl) (h _ rfl) (h _ rfl) (h _ rfl) (h _ rfl)
      (h _ rfl) _ hs
  case marchStart =>
    exact execMarchStart_closed hc (h _ rfl) (h _ rfl) _ _ _ _ hs
  case marchRetentionWait =>
    exact execMarchRetentionWait_closed hc (h _ rfl) (h _ rfl) _ hs
  case marchRunDone =>
    exact execMarchRunDone_closed hc (h _ rfl) (h _ rfl) (h _ rfl) (h _ rfl) (h _ rfl) (h _ rfl) (h _ rfl)
      (h _ rfl) (h _ rfl) (h _ rfl) (h _ rfl) _ _ hs
  case bar2Read =>
    exact execBar2Read_closed hc (h _ rfl) (h _ rfl) (h _ rfl) (h _ rfl) _ _ hs
  case bar2Write =>
    exact execBar2Write_closed hc (h _ rfl) (h _ rfl) (h _ rfl) (h _ rfl) (h _ rfl) (h _ rfl) _ _ _ hs
  case reqMajor =>
    exact execReqMajor_closed hc (h _ rfl) _ hs
  case cmdEnSet =>
    exact execCmdEnSet_closed hc (h _ rfl) (h _ rfl) hs
  case cmdEnClear =>
    exact execCmdEnClear_closed hc (h _ rfl) (h _ rfl) hs
  case drnEnSet =>
    exact execDrnEnSet_closed hc (h _ rfl) (h _ rfl) (h _ rfl) (h _ rfl) hs
  case drnEnClear =>
    exact execDrnEnClear_closed hc (h _ rfl) (h _ rfl) (h _ rfl) (h _ rfl) hs
  case cplEnSet =>
    exact execCplEnSet_closed hc (h _ rfl) hs
  case cplEnClear =>
    exact execCplEnClear_closed hc (h _ rfl) (h _ rfl) hs
  case hostCmdPosted =>
    exact execHostCmdPosted_closed hc (h _ rfl) (h _ rfl) (h _ rfl) _ hs
  case hostDrnPosted =>
    exact execHostDrnPosted_closed hc (h _ rfl) (h _ rfl) (h _ rfl) _ hs
  case commandFetch =>
    exact execCommandFetch_closed hc (h _ rfl) (h _ rfl) (h _ rfl) (h _ rfl) _ hs
  case fetchTimeout =>
    exact execFetchTimeout_closed hc (h _ rfl) (h _ rfl) (h _ rfl) _ hs
  case nop =>
    exact execNop_closed hc (h _ rfl) (h _ rfl) (h _ rfl) (h _ rfl) hs
  case statusCommand =>
    exact execStatusCommand_closed hc (h _ rfl) (h _ rfl) (h _ rfl) (h _ rfl) hs
  case fence =>
    exact execFence_closed hc (h _ rfl) (h _ rfl) (h _ rfl) (h _ rfl) hs
  case drainAbort =>
    exact execDrainAbort_closed hc (h _ rfl) (h _ rfl) (h _ rfl) (h _ rfl) hs
  case regWrite =>
    exact execRegWrite_closed hc (h _ rfl) (h _ rfl) (h _ rfl) (h _ rfl) (h _ rfl) (h _ rfl) (h _ rfl) (h _ rfl)
      (h _ rfl) (h _ rfl) (h _ rfl) (h _ rfl) (h _ rfl) (h _ rfl) (h _ rfl) (h _ rfl) (h _ rfl) (h _ rfl)
      (h _ rfl) (h _ rfl) (h _ rfl) (h _ rfl) (h _ rfl) (h _ rfl) (h _ rfl) hs
  case badOpcode =>
    exact execBadOpcode_closed hc (h _ rfl) (h _ rfl) (h _ rfl) (h _ rfl) hs
  case completionWrite =>
    exact execCompletionWrite_closed hc (h _ rfl) (h _ rfl) (h _ rfl) (h _ rfl) hs
  case hostCplFreed =>
    exact execHostCplFreed_closed hc (h _ rfl) _ hs
  case drainDescriptorFetch =>
    exact execDrainDescriptorFetch_closed hc (h _ rfl) (h _ rfl) (h _ rfl) (h _ rfl) (h _ rfl) _ hs
  case drainBlock =>
    exact execDrainBlock_closed hc (h _ rfl) (h _ rfl) (h _ rfl) (h _ rfl) (h _ rfl) _ hs
  case functionLevelReset =>
    exact execFunctionLevelReset_closed hc (h _ rfl) (h _ rfl) (h _ rfl) (h _ rfl) hs
  case hostLinkLoss =>
    exact execHostLinkLoss_closed hc (h _ rfl) (h _ rfl) (h _ rfl) (h _ rfl) hs
  case linkChanged =>
    exact execLinkChanged_closed hc (h _ rfl) (h _ rfl) (h _ rfl) (h _ rfl) _ _ _ _ hs
  case busMasterEnable =>
    exact execBusMasterEnable_closed hc (h _ rfl) (h _ rfl) (h _ rfl) (h _ rfl) _ _ hs
  case eventEnqueue =>
    exact execEventEnqueue_closed hc (h _ rfl) (h _ rfl) (h _ rfl) (h _ rfl) (h _ rfl) _ hs
  case eventRingWrite =>
    exact execEventRingWrite_closed hc (h _ rfl) (h _ rfl) (h _ rfl) (h _ rfl) _ _ hs
  case irqModExpire =>
    exact execIrqModExpire_closed hc (h _ rfl) (h _ rfl) (h _ rfl) (h _ rfl) _ hs
  case recordsLost =>
    exact execRecordsLost_closed hc (h _ rfl) (h _ rfl) (h _ rfl) (h _ rfl) (h _ rfl) hs
  case holdoffEnd =>
    exact execHoldoffEnd_closed hc (h _ rfl) (h _ rfl) _ hs
  case eventsEnSet =>
    exact execEventsEnSet_closed hc (h _ rfl) (h _ rfl) (h _ rfl) hs
  case eventsEnClear =>
    exact execEventsEnClear_closed hc (h _ rfl) hs
  case eventsFreed =>
    exact execEventsFreed_closed hc (h _ rfl) (h _ rfl) (h _ rfl) _ hs
  case hello =>
    exact execHello_closed hc (h _ rfl) (h _ rfl) (h _ rfl) (h _ rfl) (h _ rfl) _ _ _ _ hs
  case leaderElected =>
    exact execLeaderElected_closed hc (h _ rfl) (h _ rfl) (h _ rfl) hs
  case form =>
    exact execForm_closed hc (h _ rfl) (h _ rfl) (h _ rfl) (h _ rfl) _ _ hs
  case setup =>
    exact execSetup_closed hc (h _ rfl) (h _ rfl) (h _ rfl) (h _ rfl) _ _ _ hs
  case path =>
    exact execPath_closed hc (h _ rfl) (h _ rfl) (h _ rfl) (h _ rfl) _ _ _ _ hs
  case report =>
    exact execReport_closed hc (h _ rfl) (h _ rfl) (h _ rfl) (h _ rfl) _ _ _ _ hs
  case hopMeasure =>
    exact execHopMeasure_closed hc (h _ rfl) (h _ rfl) _ hs
  case timeLaunch =>
    exact execTimeLaunch_closed hc (h _ rfl) (h _ rfl) hs
  case time =>
    exact execTime_closed hc (h _ rfl) (h _ rfl) (h _ rfl) (h _ rfl) (h _ rfl) _ _ _ _ hs
  case epochGo =>
    exact execEpochGo_closed hc (h _ rfl) (h _ rfl) (h _ rfl) hs
  case epoch =>
    exact execEpoch_closed hc (h _ rfl) (h _ rfl) (h _ rfl) (h _ rfl) (h _ rfl) (h _ rfl) (h _ rfl) _ _ _ hs
  case leaderLost =>
    exact execLeaderLost_closed hc (h _ rfl) (h _ rfl) (h _ rfl) hs
  case flagLaunch =>
    exact execFlagLaunch_closed hc (h _ rfl) (h _ rfl) (h _ rfl) _ hs
  case flag =>
    exact execFlag_closed hc (h _ rfl) (h _ rfl) (h _ rfl) (h _ rfl) _ _ hs
  case flagDelivery =>
    exact execFlagDelivery_closed hc (h _ rfl) (h _ rfl) (h _ rfl) (h _ rfl) (h _ rfl) (h _ rfl) (h _ rfl)
      (h _ rfl) (h _ rfl) (h _ rfl) (h _ rfl) (h _ rfl) (h _ rfl) hs
  case containerReturn =>
    exact execContainerReturn_closed hc (h _ rfl) (h _ rfl) (h _ rfl) (h _ rfl) _ _ hs
  case hopDown =>
    exact execHopDown_closed hc (h _ rfl) (h _ rfl) (h _ rfl) (h _ rfl) _ _ hs
  case brk =>
    exact execBrk_closed hc (h _ rfl) (h _ rfl) (h _ rfl) (h _ rfl) _ hs
  case unwrap =>
    exact execUnwrap_closed hc (h _ rfl) (h _ rfl) (h _ rfl) (h _ rfl) _ hs
  case bypass =>
    exact execBypass_closed hc (h _ rfl) (h _ rfl) (h _ rfl) hs
  case bypassClose =>
    exact execBypassClose_closed hc (h _ rfl) (h _ rfl) (h _ rfl) hs
  case leave =>
    exact execLeave_closed hc (h _ rfl) (h _ rfl) (h _ rfl) (h _ rfl) _ _ _ hs
  case mailSend =>
    exact execMailSend_closed hc (h _ rfl) (h _ rfl) (h _ rfl) _ _ hs
  case mail =>
    exact execMail_closed hc (h _ rfl) (h _ rfl) (h _ rfl) (h _ rfl) _ _ _ _ _ hs
  case periodEnd =>
    exact execPeriodEnd_closed hc (h _ rfl) (h _ rfl) (h _ rfl) (h _ rfl) (h _ rfl) (h _ rfl) (h _ rfl) (h _ rfl)
      _ _ _ _ _ _ _ hs
  case railsOff =>
    exact execRailsOff_closed hc (fun k => h k (by cases k <;> rfl)) hs
  case wearHour =>
    exact execWearHour_closed hc (h _ rfl) (h _ rfl) (h _ rfl) (h _ rfl) hs
  case reeveWearLoad =>
    exact execReeveWearLoad_closed hc (h _ rfl) (h _ rfl) _ hs
  case trainingSlotGrant =>
    exact execTrainingSlotGrant_closed hc (h _ rfl) (h _ rfl) (h _ rfl) _ _ hs
  case overVoltage =>
    exact execOverVoltage_closed hc (h _ rfl) (h _ rfl) (h _ rfl) (h _ rfl) (h _ rfl) (h _ rfl) (h _ rfl) hs
  case overCurrent =>
    exact execOverCurrent_closed hc (h _ rfl) (h _ rfl) (h _ rfl) (h _ rfl) (h _ rfl) (h _ rfl) (h _ rfl) hs
  case railFault =>
    exact execRailFault_closed hc (h _ rfl) (h _ rfl) (h _ rfl) (h _ rfl) (h _ rfl) (h _ rfl) (h _ rfl) _ hs
  case vinHigh =>
    exact execVinHigh_closed hc (h _ rfl) (h _ rfl) (h _ rfl) hs
  case phaseDropped =>
    exact execPhaseDropped_closed hc (h _ rfl) (h _ rfl) (h _ rfl) (h _ rfl) _ _ hs
  case vstbyLost =>
    exact execVstbyLost_closed hc (fun k => h k (by cases k <;> rfl)) hs
  case uvlo =>
    exact execUvlo_closed hc (fun k => h k (by cases k <;> rfl)) hs
  case boardApply =>
    exact execBoardApply_closed hc (h _ rfl) (h _ rfl) (h _ rfl) (h _ rfl) (h _ rfl) (h _ rfl) hs
  case frameStart =>
    exact execFrameStart_closed hc (h _ rfl) (h _ rfl) (h _ rfl) (h _ rfl) (h _ rfl) hs
  case edpTrainRetry =>
    exact execEdpTrainRetry_closed hc (h _ rfl) (h _ rfl) (h _ rfl) _ hs
  case laneStatusPoll =>
    exact execLaneStatusPoll_closed hc (h _ rfl) (h _ rfl) (h _ rfl) (h _ rfl) (h _ rfl) _ _ hs
  case lineBufferFetch =>
    exact execLineBufferFetch_closed hc (h _ rfl) (h _ rfl) (h _ rfl) (h _ rfl) (h _ rfl) (h _ rfl) (h _ rfl)
      (h _ rfl) (h _ rfl) hs
  case underrun =>
    exact execUnderrun_closed hc (h _ rfl) (h _ rfl) (h _ rfl) (h _ rfl) (h _ rfl) _ _ hs
  case lowered =>
    exact execLowered_closed hc (h _ rfl) (h _ rfl) hs
  case te =>
    exact execTe_closed hc (h _ rfl) (h _ rfl) (h _ rfl) _ _ _ hs
  case teMiss =>
    exact execTeMiss_closed hc (h _ rfl) (h _ rfl) (h _ rfl) (h _ rfl) (h _ rfl) hs
  case frameCrc =>
    exact execFrameCrc_closed hc (h _ rfl) (h _ rfl) (h _ rfl) (h _ rfl) (h _ rfl) (h _ rfl) _ _ hs
  case auxGo =>
    exact execAuxGo_closed hc (h _ rfl) (h _ rfl) (h _ rfl) _ _ _ _ hs
  case auxDone =>
    exact execAuxDone_closed hc (h _ rfl) (h _ rfl) _ _ hs
  case painterColumn =>
    exact execPainterColumn_closed hc (h _ rfl) (h _ rfl) (h _ rfl) (h _ rfl) (h _ rfl) (h _ rfl) (h _ rfl)
      (h _ rfl) (h _ rfl) (h _ rfl) (h _ rfl) (h _ rfl) (h _ rfl) (h _ rfl) _ hs
  case coldStart =>
    exact execColdStart_closed hc (fun k => h k (by cases k <;> rfl)) _ _ hs
  case pwrOk =>
    exact execPwrOk_closed hc (h _ rfl) (h _ rfl) hs
  case patchCheck =>
    exact execPatchCheck_closed hc (h _ rfl) (h _ rfl) (h _ rfl) (h _ rfl) (h _ rfl) (h _ rfl) (h _ rfl) (h _ rfl)
      (h _ rfl) (h _ rfl) _ _ _ _ hs
  case resetNAssert =>
    exact execResetNAssert_closed hc (fun k => h k (by cases k <;> rfl)) hs
  case resetNRelease =>
    exact execResetNRelease_closed hc (h _ rfl) (h _ rfl) (h _ rfl) _ hs
  case vinReturn =>
    exact execVinReturn_closed hc (h _ rfl) (h _ rfl) (h _ rfl) _ hs
  case perstNAssert =>
    exact execPerstNAssert_closed hc (h _ rfl) (h _ rfl) (h _ rfl) (h _ rfl) (h _ rfl) (h _ rfl) (h _ rfl) hs
  case perstNPageReset =>
    exact execPerstNPageReset_closed hc (h _ rfl) (h _ rfl) (h _ rfl) (h _ rfl) (h _ rfl) (h _ rfl) (h _ rfl)
      (h _ rfl) (h _ rfl) (h _ rfl) (h _ rfl) (h _ rfl) (h _ rfl) (h _ rfl) (h _ rfl) (h _ rfl) (h _ rfl)
      (h _ rfl) (h _ rfl) (h _ rfl) (h _ rfl) (h _ rfl) (h _ rfl) (h _ rfl) hs
  case perstNRelease =>
    exact execPerstNRelease_closed hc (h _ rfl) (h _ rfl) (h _ rfl) hs
  case soft =>
    exact execSoft_closed hc (h _ rfl) (h _ rfl) (h _ rfl) (h _ rfl) (h _ rfl) (h _ rfl) (h _ rfl) (h _ rfl)
      (h _ rfl) (h _ rfl) (h _ rfl) (h _ rfl) (h _ rfl) (h _ rfl) (h _ rfl) (h _ rfl) (h _ rfl) (h _ rfl)
      (h _ rfl) (h _ rfl) (h _ rfl) (h _ rfl) (h _ rfl) (h _ rfl) _ hs
  case sidebandLoss =>
    exact execSidebandLoss_closed hc (h _ rfl) (h _ rfl) (h _ rfl) (h _ rfl) (h _ rfl) (h _ rfl) (h _ rfl)
      (h _ rfl) (h _ rfl) (h _ rfl) _ _ hs
  case dieLaneFail =>
    exact execDieLaneFail_closed hc (h _ rfl) (h _ rfl) (h _ rfl) (h _ rfl) (h _ rfl) (h _ rfl) (h _ rfl) _ _ hs
  case laneRepairDone =>
    exact execLaneRepairDone_closed hc (h _ rfl) _ _ hs
  case smbusPointerWrite =>
    exact execSmbusPointerWrite_closed hc (h _ rfl) _ _ _ hs
  case smbusBlockRead =>
    exact execSmbusBlockRead_closed hc (h _ rfl) (h _ rfl) _ hs
  case tapInstruction =>
    exact execTapInstruction_closed hc (h _ rfl) (h _ rfl) _ hs
  case registerRead =>
    exact execRegisterRead_closed hc (h _ rfl) (h _ rfl) (h _ rfl) (h _ rfl) (h _ rfl) (h _ rfl) (h _ rfl) _ _ hs
  case alertNRelease =>
    exact execAlertNRelease_closed hc (h _ rfl) (h _ rfl) (h _ rfl) (h _ rfl) _ _ hs
  case vinLow =>
    exact execVinLow_closed hc (h _ rfl) (h _ rfl) (h _ rfl) hs
  case vstbyReturn =>
    exact execVstbyReturn_closed hc (h _ rfl) (h _ rfl) hs
  case trstN =>
    exact execTrstN_closed hc (h _ rfl) _ hs
  case waggleFlagsReceivedAgain =>
    exact execWaggleFlagsReceivedAgain_closed hc (h _ rfl) (h _ rfl) (h _ rfl) _ _ _ hs
  case edpTrainingDone =>
    exact execEdpTrainingDone_closed hc (h _ rfl) (h _ rfl) (h _ rfl) (h _ rfl) _ _ hs
  case trainingSlotEnd =>
    exact execTrainingSlotEnd_closed hc (h _ rfl) (h _ rfl) _ _ hs

end Sys2Proof.Machine
end

