-- ==== Sys2Proof/Laws/Sparse.lean ====
section
/-!
SUPPORT. The laws of sparse tables: what a write reads back as, and that every operation keeps the canonical form.
-/
namespace Sys2Proof.Machine

/-- Every key of the table is above `k`. -/
def above (k : Nat) (m : List (Nat × α)) : Prop := ∀ e ∈ m, k < e.1

theorem sorted_cons (j : Nat) (x : α) (m : List (Nat × α)) :
    sorted ((j, x) :: m) = true ↔ above j m ∧ sorted m = true := by
  induction m generalizing j x with
  | nil => simp [sorted, above]
  | cons e m ih =>
    obtain ⟨k, y⟩ := e
    simp only [sorted, Bool.and_eq_true, decide_eq_true_eq]
    constructor
    · rintro ⟨hjk, h⟩
      refine ⟨?_, h⟩
      intro e he
      rcases List.mem_cons.mp he with rfl | he
      · exact hjk
      · exact Nat.lt_trans hjk (((ih k y).mp h).1 e he)
    · rintro ⟨ha, h⟩
      exact ⟨ha (k, y) (List.mem_cons_self ..), h⟩

/-- Dropping entries keeps the keys rising. -/
theorem sorted_filter (p : Nat × α → Bool) {m : List (Nat × α)} (h : sorted m = true) : sorted (m.filter p) = true := by
  induction m with
  | nil => rfl
  | cons e m ih =>
    obtain ⟨j, x⟩ := e
    obtain ⟨ha, hm⟩ := (sorted_cons j x m).mp h
    rw [List.filter_cons]
    split
    · exact (sorted_cons j x _).mpr ⟨fun e he => ha e (List.mem_filter.mp he).1, ih hm⟩
    · exact ih hm

theorem mem_sinsert {m : List (Nat × α)} {k : Nat} {v : α} {e : Nat × α} (h : e ∈ sinsert m k v) :
    e = (k, v) ∨ e ∈ m := by
  induction m with
  | nil => simpa [sinsert] using h
  | cons f m ih =>
    obtain ⟨j, x⟩ := f
    simp only [sinsert] at h
    split at h
    · simpa using h
    · rcases List.mem_cons.mp h with rfl | h
      · simp
      · rcases ih h with h | h <;> simp [h]

/-- An insertion of a key that is not listed keeps the keys rising. -/
theorem sorted_sinsert {m : List (Nat × α)} {k : Nat} {v : α} (hk : ∀ e ∈ m, e.1 ≠ k) (h : sorted m = true) :
    sorted (sinsert m k v) = true := by
  induction m with
  | nil => rfl
  | cons e m ih =>
    obtain ⟨j, x⟩ := e
    obtain ⟨ha, hm⟩ := (sorted_cons j x m).mp h
    simp only [sinsert]
    split
    · rename_i hlt
      refine (sorted_cons ..).mpr ⟨?_, h⟩
      intro e he
      rcases List.mem_cons.mp he with rfl | he
      · exact hlt
      · exact Nat.lt_trans hlt (ha e he)
    · rename_i hge
      refine (sorted_cons ..).mpr ⟨?_, ih (fun e he => hk e (List.mem_cons_of_mem _ he)) hm⟩
      intro e he
      rcases mem_sinsert he with rfl | he
      · have := hk (j, x) (List.mem_cons_self ..)
        simp only at this ⊢
        omega
      · exact ha e he

theorem serase_ne {m : List (Nat × α)} {k : Nat} : ∀ e ∈ serase m k, e.1 ≠ k := by
  intro e he
  have := (List.mem_filter.mp he).2
  simpa using this

theorem sorted_serase {m : List (Nat × α)} (k : Nat) (h : sorted m = true) : sorted (serase m k) = true :=
  sorted_filter _ h

theorem sorted_sclear {m : List (Nat × α)} (p : Nat → Bool) (h : sorted m = true) : sorted (sclear m p) = true :=
  sorted_filter _ h

/-- A key replaced, whatever the value: the keys stay rising. -/
theorem sorted_replace {m : List (Nat × α)} (k : Nat) (v : α) (h : sorted m = true) :
    sorted (sinsert (serase m k) k v) = true :=
  sorted_sinsert serase_ne (sorted_serase k h)

theorem sorted_sput [DecidableEq α] (d : Nat → α) {m : List (Nat × α)} (k : Nat) (v : α) (h : sorted m = true) :
    sorted (sput d m k v) = true := by
  unfold sput
  split
  · exact sorted_serase k h
  · exact sorted_replace k v h

theorem canonical_iff [DecidableEq α] (d : Nat → α) (m : List (Nat × α)) :
    canonical d m = true ↔ sorted m = true ∧ ∀ e ∈ m, e.2 ≠ d e.1 := by
  simp [canonical, List.all_eq_true]

theorem canonical_nil [DecidableEq α] (d : Nat → α) : canonical d [] = true := rfl

theorem canonical_filter [DecidableEq α] {d : Nat → α} (p : Nat × α → Bool) {m : List (Nat × α)}
    (h : canonical d m = true) : canonical d (m.filter p) = true := by
  rw [canonical_iff] at h ⊢
  exact ⟨sorted_filter p h.1, fun e he => h.2 e (List.mem_filter.mp he).1⟩

theorem canonical_serase [DecidableEq α] {d : Nat → α} {m : List (Nat × α)} (k : Nat) (h : canonical d m = true) :
    canonical d (serase m k) = true := canonical_filter _ h

theorem canonical_sclear [DecidableEq α] {d : Nat → α} {m : List (Nat × α)} (p : Nat → Bool)
    (h : canonical d m = true) : canonical d (sclear m p) = true := canonical_filter _ h

/-- A write keeps the canonical form. -/
theorem canonical_sput [DecidableEq α] {d : Nat → α} {m : List (Nat × α)} (k : Nat) (v : α)
    (h : canonical d m = true) : canonical d (sput d m k v) = true := by
  unfold sput
  split
  · exact canonical_serase k h
  · rename_i hv
    have hs := canonical_serase k h
    rw [canonical_iff] at hs ⊢
    refine ⟨sorted_sinsert serase_ne hs.1, ?_⟩
    intro e he
    rcases mem_sinsert he with rfl | he
    · exact hv
    · exact hs.2 e he

/-- A run of writes keeps the canonical form. -/
theorem canonical_foldl_sput [DecidableEq α] {d : Nat → α} (f : List (Nat × α) → β → Nat × α) (l : List β)
    {m : List (Nat × α)} (h : canonical d m = true) :
    canonical d (l.foldl (fun m b => sput d m (f m b).1 (f m b).2) m) = true := by
  induction l generalizing m with
  | nil => exact h
  | cons b l ih => exact ih (canonical_sput _ _ h)

/-! ### Reading back -/

theorem sget_of_not_mem (d : Nat → α) {m : List (Nat × α)} {k : Nat} (h : ∀ e ∈ m, e.1 ≠ k) : sget d m k = d k := by
  induction m with
  | nil => rfl
  | cons e m ih =>
    obtain ⟨j, x⟩ := e
    have hj := h (j, x) (List.mem_cons_self ..)
    simp only [sget]
    rw [if_neg (fun hk => hj hk.symm)]
    exact ih (fun e he => h e (List.mem_cons_of_mem _ he))

theorem sget_serase_self (d : Nat → α) (m : List (Nat × α)) (k : Nat) : sget d (serase m k) k = d k :=
  sget_of_not_mem d serase_ne

theorem sget_filter_ne (d : Nat → α) (p : Nat → Bool) (m : List (Nat × α)) (k : Nat) (hk : p k = true) :
    sget d (m.filter (fun e => p e.1)) k = sget d m k := by
  induction m with
  | nil => rfl
  | cons e m ih =>
    obtain ⟨j, x⟩ := e
    rw [List.filter_cons]
    by_cases h : k = j
    · subst h
      simp [hk, sget]
    · split
      · simp only [sget, if_neg h]
        exact ih
      · simp only [sget, if_neg h]
        exact ih

theorem sget_serase_ne (d : Nat → α) (m : List (Nat × α)) {j k : Nat} (h : j ≠ k) :
    sget d (serase m k) j = sget d m j :=
  sget_filter_ne d (fun i => !(i == k)) m j (by simpa using h)

theorem sget_sinsert_self (d : Nat → α) (m : List (Nat × α)) (k : Nat) (v : α) (h : ∀ e ∈ m, e.1 ≠ k) :
    sget d (sinsert m k v) k = v := by
  induction m with
  | nil => simp [sinsert, sget]
  | cons e m ih =>
    obtain ⟨j, x⟩ := e
    have hj := h (j, x) (List.mem_cons_self ..)
    simp only [sinsert]
    split
    · simp [sget]
    · simp only [sget]
      rw [if_neg (fun hk => hj hk.symm)]
      exact ih (fun e he => h e (List.mem_cons_of_mem _ he))

theorem sget_sinsert_ne (d : Nat → α) (m : List (Nat × α)) {j k : Nat} (v : α) (h : j ≠ k) :
    sget d (sinsert m k v) j = sget d m j := by
  induction m with
  | nil => simp [sinsert, sget, h]
  | cons e m ih =>
    obtain ⟨i, x⟩ := e
    simp only [sinsert]
    split
    · simp [sget, h]
    · simp only [sget, ih]

/-- What is written reads back. -/
@[simp] theorem sget_sput_self [DecidableEq α] (d : Nat → α) (m : List (Nat × α)) (k : Nat) (v : α) :
    sget d (sput d m k v) k = v := by
  unfold sput
  split
  · rename_i h
    rw [sget_serase_self, h]
  · exact sget_sinsert_self d _ k v serase_ne

/-- A write leaves every other key alone. -/
theorem sget_sput_ne [DecidableEq α] (d : Nat → α) (m : List (Nat × α)) {j k : Nat} (v : α) (h : j ≠ k) :
    sget d (sput d m k v) j = sget d m j := by
  unfold sput
  split
  · exact sget_serase_ne d m h
  · rw [sget_sinsert_ne d _ v h, sget_serase_ne d m h]

/-- Cleared keys read as the default. -/
theorem sget_sclear_hit (d : Nat → α) (m : List (Nat × α)) (p : Nat → Bool) {k : Nat} (h : p k = true) :
    sget d (sclear m p) k = d k := by
  refine sget_of_not_mem d ?_
  intro e he hk
  have := (List.mem_filter.mp he).2
  rw [hk, h] at this
  simp at this

/-- Keys that are not cleared read as before. -/
theorem sget_sclear_miss (d : Nat → α) (m : List (Nat × α)) (p : Nat → Bool) {k : Nat} (h : p k = false) :
    sget d (sclear m p) k = sget d m k :=
  sget_filter_ne d (fun i => !(p i)) m k (by simp [h])

end Sys2Proof.Machine
end

