-- ==== Sys2Proof/Laws/State.lean ====
section
/-!
SUPPORT. The updates of the state, field by field: each field that an update leaves alone, and the contents of the table that
it writes. No later proof unfolds an update of the record.
-/
namespace Sys2Proof.Machine

variable (s : State)

/-! ### setWord -/

@[simp] theorem setWord_fuse (a : Nat) (w : Word) : (s.setWord a w).fuse = s.fuse := rfl
@[simp] theorem setWord_act (a : Nat) (w : Word) :
    (s.setWord a w).act = sput (resetWord s.fuse) s.act a w := rfl
@[simp] theorem setWord_shd (a : Nat) (w : Word) : (s.setWord a w).shd = s.shd := rfl
@[simp] theorem setWord_latched (a : Nat) (w : Word) : (s.setWord a w).latched = s.latched := rfl
@[simp] theorem setWord_held (a : Nat) (w : Word) : (s.setWord a w).held = s.held := rfl
@[simp] theorem setWord_hiveTime (a : Nat) (w : Word) : (s.setWord a w).hiveTime = s.hiveTime := rfl
@[simp] theorem setWord_timeRuns (a : Nat) (w : Word) : (s.setWord a w).timeRuns = s.timeRuns := rfl
@[simp] theorem setWord_superTime (a : Nat) (w : Word) : (s.setWord a w).superTime = s.superTime := rfl
@[simp] theorem setWord_loadWanted (a : Nat) (w : Word) : (s.setWord a w).loadWanted = s.loadWanted := rfl
@[simp] theorem setWord_turnAt (a : Nat) (w : Word) : (s.setWord a w).turnAt = s.turnAt := rfl
@[simp] theorem setWord_stopped (a : Nat) (w : Word) : (s.setWord a w).stopped = s.stopped := rfl
@[simp] theorem setWord_plls (a : Nat) (w : Word) : (s.setWord a w).plls = s.plls := rfl
@[simp] theorem setWord_pods (a : Nat) (w : Word) : (s.setWord a w).pods = s.pods := rfl
@[simp] theorem setWord_frames (a : Nat) (w : Word) : (s.setWord a w).frames = s.frames := rfl
@[simp] theorem setWord_scouts (a : Nat) (w : Word) : (s.setWord a w).scouts = s.scouts := rfl
@[simp] theorem setWord_seqs (a : Nat) (w : Word) : (s.setWord a w).seqs = s.seqs := rfl
@[simp] theorem setWord_take (a : Nat) (w : Word) : (s.setWord a w).take = s.take := rfl
@[simp] theorem setWord_streams (a : Nat) (w : Word) : (s.setWord a w).streams = s.streams := rfl
@[simp] theorem setWord_stores (a : Nat) (w : Word) : (s.setWord a w).stores = s.stores := rfl
@[simp] theorem setWord_ev (a : Nat) (w : Word) : (s.setWord a w).ev = s.ev := rfl
@[simp] theorem setWord_busMaster (a : Nat) (w : Word) : (s.setWord a w).busMaster = s.busMaster := rfl
@[simp] theorem setWord_trigIn (a : Nat) (w : Word) : (s.setWord a w).trigIn = s.trigIn := rfl
@[simp] theorem setWord_trigOut (a : Nat) (w : Word) : (s.setWord a w).trigOut = s.trigOut := rfl
@[simp] theorem setWord_sides (a : Nat) (w : Word) : (s.setWord a w).sides = s.sides := rfl
@[simp] theorem setWord_afLog (a : Nat) (w : Word) : (s.setWord a w).afLog = s.afLog := rfl
@[simp] theorem setWord_afQueue (a : Nat) (w : Word) : (s.setWord a w).afQueue = s.afQueue := rfl
@[simp] theorem setWord_queues (a : Nat) (w : Word) : (s.setWord a w).queues = s.queues := rfl
@[simp] theorem setWord_sram (a : Nat) (w : Word) : (s.setWord a w).sram = s.sram := rfl
@[simp] theorem setWord_srams (a : Nat) (w : Word) : (s.setWord a w).srams = s.srams := rfl
@[simp] theorem setWord_sramEpoch (a : Nat) (w : Word) : (s.setWord a w).sramEpoch = s.sramEpoch := rfl
@[simp] theorem setWord_dram (a : Nat) (w : Word) : (s.setWord a w).dram = s.dram := rfl
@[simp] theorem setWord_chans (a : Nat) (w : Word) : (s.setWord a w).chans = s.chans := rfl
@[simp] theorem setWord_dramEpoch (a : Nat) (w : Word) : (s.setWord a w).dramEpoch = s.dramEpoch := rfl
@[simp] theorem setWord_host (a : Nat) (w : Word) : (s.setWord a w).host = s.host := rfl
@[simp] theorem setWord_nbTolerance (a : Nat) (w : Word) : (s.setWord a w).nbTolerance = s.nbTolerance := rfl
@[simp] theorem setWord_ring (a : Nat) (w : Word) : (s.setWord a w).ring = s.ring := rfl
@[simp] theorem setWord_reeve (a : Nat) (w : Word) : (s.setWord a w).reeve = s.reeve := rfl
@[simp] theorem setWord_boot (a : Nat) (w : Word) : (s.setWord a w).boot = s.boot := rfl
@[simp] theorem setWord_dies (a : Nat) (w : Word) : (s.setWord a w).dies = s.dies := rfl
@[simp] theorem setWord_ports (a : Nat) (w : Word) : (s.setWord a w).ports = s.ports := rfl
@[simp] theorem setWord_board (a : Nat) (w : Word) : (s.setWord a w).board = s.board := rfl
@[simp] theorem setWord_frees (a : Nat) (w : Word) : (s.setWord a w).frees = s.frees := rfl
@[simp] theorem setWord_out (a : Nat) (w : Word) : (s.setWord a w).out = s.out := rfl
@[simp] theorem setWord_pending (a : Nat) (w : Word) : (s.setWord a w).pending = s.pending := rfl

/-! ### setShadow -/

@[simp] theorem setShadow_fuse (a : Nat) (w : Word) : (s.setShadow a w).fuse = s.fuse := rfl
@[simp] theorem setShadow_act (a : Nat) (w : Word) : (s.setShadow a w).act = s.act := rfl
@[simp] theorem setShadow_shd (a : Nat) (w : Word) :
    (s.setShadow a w).shd = sput (resetWord s.fuse) s.shd a w := rfl
@[simp] theorem setShadow_latched (a : Nat) (w : Word) : (s.setShadow a w).latched = s.latched := rfl
@[simp] theorem setShadow_held (a : Nat) (w : Word) : (s.setShadow a w).held = s.held := rfl
@[simp] theorem setShadow_hiveTime (a : Nat) (w : Word) : (s.setShadow a w).hiveTime = s.hiveTime := rfl
@[simp] theorem setShadow_timeRuns (a : Nat) (w : Word) : (s.setShadow a w).timeRuns = s.timeRuns := rfl
@[simp] theorem setShadow_superTime (a : Nat) (w : Word) : (s.setShadow a w).superTime = s.superTime := rfl
@[simp] theorem setShadow_loadWanted (a : Nat) (w : Word) : (s.setShadow a w).loadWanted = s.loadWanted := rfl
@[simp] theorem setShadow_turnAt (a : Nat) (w : Word) : (s.setShadow a w).turnAt = s.turnAt := rfl
@[simp] theorem setShadow_stopped (a : Nat) (w : Word) : (s.setShadow a w).stopped = s.stopped := rfl
@[simp] theorem setShadow_plls (a : Nat) (w : Word) : (s.setShadow a w).plls = s.plls := rfl
@[simp] theorem setShadow_pods (a : Nat) (w : Word) : (s.setShadow a w).pods = s.pods := rfl
@[simp] theorem setShadow_frames (a : Nat) (w : Word) : (s.setShadow a w).frames = s.frames := rfl
@[simp] theorem setShadow_scouts (a : Nat) (w : Word) : (s.setShadow a w).scouts = s.scouts := rfl
@[simp] theorem setShadow_seqs (a : Nat) (w : Word) : (s.setShadow a w).seqs = s.seqs := rfl
@[simp] theorem setShadow_take (a : Nat) (w : Word) : (s.setShadow a w).take = s.take := rfl
@[simp] theorem setShadow_streams (a : Nat) (w : Word) : (s.setShadow a w).streams = s.streams := rfl
@[simp] theorem setShadow_stores (a : Nat) (w : Word) : (s.setShadow a w).stores = s.stores := rfl
@[simp] theorem setShadow_ev (a : Nat) (w : Word) : (s.setShadow a w).ev = s.ev := rfl
@[simp] theorem setShadow_busMaster (a : Nat) (w : Word) : (s.setShadow a w).busMaster = s.busMaster := rfl
@[simp] theorem setShadow_trigIn (a : Nat) (w : Word) : (s.setShadow a w).trigIn = s.trigIn := rfl
@[simp] theorem setShadow_trigOut (a : Nat) (w : Word) : (s.setShadow a w).trigOut = s.trigOut := rfl
@[simp] theorem setShadow_sides (a : Nat) (w : Word) : (s.setShadow a w).sides = s.sides := rfl
@[simp] theorem setShadow_afLog (a : Nat) (w : Word) : (s.setShadow a w).afLog = s.afLog := rfl
@[simp] theorem setShadow_afQueue (a : Nat) (w : Word) : (s.setShadow a w).afQueue = s.afQueue := rfl
@[simp] theorem setShadow_queues (a : Nat) (w : Word) : (s.setShadow a w).queues = s.queues := rfl
@[simp] theorem setShadow_sram (a : Nat) (w : Word) : (s.setShadow a w).sram = s.sram := rfl
@[simp] theorem setShadow_srams (a : Nat) (w : Word) : (s.setShadow a w).srams = s.srams := rfl
@[simp] theorem setShadow_sramEpoch (a : Nat) (w : Word) : (s.setShadow a w).sramEpoch = s.sramEpoch := rfl
@[simp] theorem setShadow_dram (a : Nat) (w : Word) : (s.setShadow a w).dram = s.dram := rfl
@[simp] theorem setShadow_chans (a : Nat) (w : Word) : (s.setShadow a w).chans = s.chans := rfl
@[simp] theorem setShadow_dramEpoch (a : Nat) (w : Word) : (s.setShadow a w).dramEpoch = s.dramEpoch := rfl
@[simp] theorem setShadow_host (a : Nat) (w : Word) : (s.setShadow a w).host = s.host := rfl
@[simp] theorem setShadow_nbTolerance (a : Nat) (w : Word) : (s.setShadow a w).nbTolerance = s.nbTolerance := rfl
@[simp] theorem setShadow_ring (a : Nat) (w : Word) : (s.setShadow a w).ring = s.ring := rfl
@[simp] theorem setShadow_reeve (a : Nat) (w : Word) : (s.setShadow a w).reeve = s.reeve := rfl
@[simp] theorem setShadow_boot (a : Nat) (w : Word) : (s.setShadow a w).boot = s.boot := rfl
@[simp] theorem setShadow_dies (a : Nat) (w : Word) : (s.setShadow a w).dies = s.dies := rfl
@[simp] theorem setShadow_ports (a : Nat) (w : Word) : (s.setShadow a w).ports = s.ports := rfl
@[simp] theorem setShadow_board (a : Nat) (w : Word) : (s.setShadow a w).board = s.board := rfl
@[simp] theorem setShadow_frees (a : Nat) (w : Word) : (s.setShadow a w).frees = s.frees := rfl
@[simp] theorem setShadow_out (a : Nat) (w : Word) : (s.setShadow a w).out = s.out := rfl
@[simp] theorem setShadow_pending (a : Nat) (w : Word) : (s.setShadow a w).pending = s.pending := rfl

/-! ### holdWord -/

@[simp] theorem holdWord_fuse (a : Nat) (w : Word) : (s.holdWord a w).fuse = s.fuse := rfl
@[simp] theorem holdWord_act (a : Nat) (w : Word) : (s.holdWord a w).act = s.act := rfl
@[simp] theorem holdWord_shd (a : Nat) (w : Word) : (s.holdWord a w).shd = s.shd := rfl
@[simp] theorem holdWord_latched (a : Nat) (w : Word) : (s.holdWord a w).latched = s.latched := rfl
@[simp] theorem holdWord_hiveTime (a : Nat) (w : Word) : (s.holdWord a w).hiveTime = s.hiveTime := rfl
@[simp] theorem holdWord_timeRuns (a : Nat) (w : Word) : (s.holdWord a w).timeRuns = s.timeRuns := rfl
@[simp] theorem holdWord_superTime (a : Nat) (w : Word) : (s.holdWord a w).superTime = s.superTime := rfl
@[simp] theorem holdWord_loadWanted (a : Nat) (w : Word) : (s.holdWord a w).loadWanted = s.loadWanted := rfl
@[simp] theorem holdWord_turnAt (a : Nat) (w : Word) : (s.holdWord a w).turnAt = s.turnAt := rfl
@[simp] theorem holdWord_stopped (a : Nat) (w : Word) : (s.holdWord a w).stopped = s.stopped := rfl
@[simp] theorem holdWord_plls (a : Nat) (w : Word) : (s.holdWord a w).plls = s.plls := rfl
@[simp] theorem holdWord_pods (a : Nat) (w : Word) : (s.holdWord a w).pods = s.pods := rfl
@[simp] theorem holdWord_frames (a : Nat) (w : Word) : (s.holdWord a w).frames = s.frames := rfl
@[simp] theorem holdWord_scouts (a : Nat) (w : Word) : (s.holdWord a w).scouts = s.scouts := rfl
@[simp] theorem holdWord_seqs (a : Nat) (w : Word) : (s.holdWord a w).seqs = s.seqs := rfl
@[simp] theorem holdWord_take (a : Nat) (w : Word) : (s.holdWord a w).take = s.take := rfl
@[simp] theorem holdWord_streams (a : Nat) (w : Word) : (s.holdWord a w).streams = s.streams := rfl
@[simp] theorem holdWord_stores (a : Nat) (w : Word) : (s.holdWord a w).stores = s.stores := rfl
@[simp] theorem holdWord_ev (a : Nat) (w : Word) : (s.holdWord a w).ev = s.ev := rfl
@[simp] theorem holdWord_busMaster (a : Nat) (w : Word) : (s.holdWord a w).busMaster = s.busMaster := rfl
@[simp] theorem holdWord_trigIn (a : Nat) (w : Word) : (s.holdWord a w).trigIn = s.trigIn := rfl
@[simp] theorem holdWord_trigOut (a : Nat) (w : Word) : (s.holdWord a w).trigOut = s.trigOut := rfl
@[simp] theorem holdWord_sides (a : Nat) (w : Word) : (s.holdWord a w).sides = s.sides := rfl
@[simp] theorem holdWord_afLog (a : Nat) (w : Word) : (s.holdWord a w).afLog = s.afLog := rfl
@[simp] theorem holdWord_afQueue (a : Nat) (w : Word) : (s.holdWord a w).afQueue = s.afQueue := rfl
@[simp] theorem holdWord_queues (a : Nat) (w : Word) : (s.holdWord a w).queues = s.queues := rfl
@[simp] theorem holdWord_sram (a : Nat) (w : Word) : (s.holdWord a w).sram = s.sram := rfl
@[simp] theorem holdWord_srams (a : Nat) (w : Word) : (s.holdWord a w).srams = s.srams := rfl
@[simp] theorem holdWord_sramEpoch (a : Nat) (w : Word) : (s.holdWord a w).sramEpoch = s.sramEpoch := rfl
@[simp] theorem holdWord_dram (a : Nat) (w : Word) : (s.holdWord a w).dram = s.dram := rfl
@[simp] theorem holdWord_chans (a : Nat) (w : Word) : (s.holdWord a w).chans = s.chans := rfl
@[simp] theorem holdWord_dramEpoch (a : Nat) (w : Word) : (s.holdWord a w).dramEpoch = s.dramEpoch := rfl
@[simp] theorem holdWord_host (a : Nat) (w : Word) : (s.holdWord a w).host = s.host := rfl
@[simp] theorem holdWord_nbTolerance (a : Nat) (w : Word) : (s.holdWord a w).nbTolerance = s.nbTolerance := rfl
@[simp] theorem holdWord_ring (a : Nat) (w : Word) : (s.holdWord a w).ring = s.ring := rfl
@[simp] theorem holdWord_reeve (a : Nat) (w : Word) : (s.holdWord a w).reeve = s.reeve := rfl
@[simp] theorem holdWord_boot (a : Nat) (w : Word) : (s.holdWord a w).boot = s.boot := rfl
@[simp] theorem holdWord_dies (a : Nat) (w : Word) : (s.holdWord a w).dies = s.dies := rfl
@[simp] theorem holdWord_ports (a : Nat) (w : Word) : (s.holdWord a w).ports = s.ports := rfl
@[simp] theorem holdWord_board (a : Nat) (w : Word) : (s.holdWord a w).board = s.board := rfl
@[simp] theorem holdWord_frees (a : Nat) (w : Word) : (s.holdWord a w).frees = s.frees := rfl
@[simp] theorem holdWord_out (a : Nat) (w : Word) : (s.holdWord a w).out = s.out := rfl
@[simp] theorem holdWord_pending (a : Nat) (w : Word) : (s.holdWord a w).pending = s.pending := rfl

/-! ### unhold -/

@[simp] theorem unhold_fuse (a : Nat) : (s.unhold a).fuse = s.fuse := rfl
@[simp] theorem unhold_act (a : Nat) : (s.unhold a).act = s.act := rfl
@[simp] theorem unhold_shd (a : Nat) : (s.unhold a).shd = s.shd := rfl
@[simp] theorem unhold_latched (a : Nat) : (s.unhold a).latched = s.latched := rfl
@[simp] theorem unhold_hiveTime (a : Nat) : (s.unhold a).hiveTime = s.hiveTime := rfl
@[simp] theorem unhold_timeRuns (a : Nat) : (s.unhold a).timeRuns = s.timeRuns := rfl
@[simp] theorem unhold_superTime (a : Nat) : (s.unhold a).superTime = s.superTime := rfl
@[simp] theorem unhold_loadWanted (a : Nat) : (s.unhold a).loadWanted = s.loadWanted := rfl
@[simp] theorem unhold_turnAt (a : Nat) : (s.unhold a).turnAt = s.turnAt := rfl
@[simp] theorem unhold_stopped (a : Nat) : (s.unhold a).stopped = s.stopped := rfl
@[simp] theorem unhold_plls (a : Nat) : (s.unhold a).plls = s.plls := rfl
@[simp] theorem unhold_pods (a : Nat) : (s.unhold a).pods = s.pods := rfl
@[simp] theorem unhold_frames (a : Nat) : (s.unhold a).frames = s.frames := rfl
@[simp] theorem unhold_scouts (a : Nat) : (s.unhold a).scouts = s.scouts := rfl
@[simp] theorem unhold_seqs (a : Nat) : (s.unhold a).seqs = s.seqs := rfl
@[simp] theorem unhold_take (a : Nat) : (s.unhold a).take = s.take := rfl
@[simp] theorem unhold_streams (a : Nat) : (s.unhold a).streams = s.streams := rfl
@[simp] theorem unhold_stores (a : Nat) : (s.unhold a).stores = s.stores := rfl
@[simp] theorem unhold_ev (a : Nat) : (s.unhold a).ev = s.ev := rfl
@[simp] theorem unhold_busMaster (a : Nat) : (s.unhold a).busMaster = s.busMaster := rfl
@[simp] theorem unhold_trigIn (a : Nat) : (s.unhold a).trigIn = s.trigIn := rfl
@[simp] theorem unhold_trigOut (a : Nat) : (s.unhold a).trigOut = s.trigOut := rfl
@[simp] theorem unhold_sides (a : Nat) : (s.unhold a).sides = s.sides := rfl
@[simp] theorem unhold_afLog (a : Nat) : (s.unhold a).afLog = s.afLog := rfl
@[simp] theorem unhold_afQueue (a : Nat) : (s.unhold a).afQueue = s.afQueue := rfl
@[simp] theorem unhold_queues (a : Nat) : (s.unhold a).queues = s.queues := rfl
@[simp] theorem unhold_sram (a : Nat) : (s.unhold a).sram = s.sram := rfl
@[simp] theorem unhold_srams (a : Nat) : (s.unhold a).srams = s.srams := rfl
@[simp] theorem unhold_sramEpoch (a : Nat) : (s.unhold a).sramEpoch = s.sramEpoch := rfl
@[simp] theorem unhold_dram (a : Nat) : (s.unhold a).dram = s.dram := rfl
@[simp] theorem unhold_chans (a : Nat) : (s.unhold a).chans = s.chans := rfl
@[simp] theorem unhold_dramEpoch (a : Nat) : (s.unhold a).dramEpoch = s.dramEpoch := rfl
@[simp] theorem unhold_host (a : Nat) : (s.unhold a).host = s.host := rfl
@[simp] theorem unhold_nbTolerance (a : Nat) : (s.unhold a).nbTolerance = s.nbTolerance := rfl
@[simp] theorem unhold_ring (a : Nat) : (s.unhold a).ring = s.ring := rfl
@[simp] theorem unhold_reeve (a : Nat) : (s.unhold a).reeve = s.reeve := rfl
@[simp] theorem unhold_boot (a : Nat) : (s.unhold a).boot = s.boot := rfl
@[simp] theorem unhold_dies (a : Nat) : (s.unhold a).dies = s.dies := rfl
@[simp] theorem unhold_ports (a : Nat) : (s.unhold a).ports = s.ports := rfl
@[simp] theorem unhold_board (a : Nat) : (s.unhold a).board = s.board := rfl
@[simp] theorem unhold_frees (a : Nat) : (s.unhold a).frees = s.frees := rfl
@[simp] theorem unhold_out (a : Nat) : (s.unhold a).out = s.out := rfl
@[simp] theorem unhold_pending (a : Nat) : (s.unhold a).pending = s.pending := rfl

/-! ### latchWord -/

@[simp] theorem latchWord_fuse (a : Nat) (w : Word) : (s.latchWord a w).fuse = s.fuse := rfl
@[simp] theorem latchWord_act (a : Nat) (w : Word) : (s.latchWord a w).act = s.act := rfl
@[simp] theorem latchWord_shd (a : Nat) (w : Word) : (s.latchWord a w).shd = s.shd := rfl
@[simp] theorem latchWord_held (a : Nat) (w : Word) : (s.latchWord a w).held = s.held := rfl
@[simp] theorem latchWord_hiveTime (a : Nat) (w : Word) : (s.latchWord a w).hiveTime = s.hiveTime := rfl
@[simp] theorem latchWord_timeRuns (a : Nat) (w : Word) : (s.latchWord a w).timeRuns = s.timeRuns := rfl
@[simp] theorem latchWord_superTime (a : Nat) (w : Word) : (s.latchWord a w).superTime = s.superTime := rfl
@[simp] theorem latchWord_loadWanted (a : Nat) (w : Word) : (s.latchWord a w).loadWanted = s.loadWanted := rfl
@[simp] theorem latchWord_turnAt (a : Nat) (w : Word) : (s.latchWord a w).turnAt = s.turnAt := rfl
@[simp] theorem latchWord_stopped (a : Nat) (w : Word) : (s.latchWord a w).stopped = s.stopped := rfl
@[simp] theorem latchWord_plls (a : Nat) (w : Word) : (s.latchWord a w).plls = s.plls := rfl
@[simp] theorem latchWord_pods (a : Nat) (w : Word) : (s.latchWord a w).pods = s.pods := rfl
@[simp] theorem latchWord_frames (a : Nat) (w : Word) : (s.latchWord a w).frames = s.frames := rfl
@[simp] theorem latchWord_scouts (a : Nat) (w : Word) : (s.latchWord a w).scouts = s.scouts := rfl
@[simp] theorem latchWord_seqs (a : Nat) (w : Word) : (s.latchWord a w).seqs = s.seqs := rfl
@[simp] theorem latchWord_take (a : Nat) (w : Word) : (s.latchWord a w).take = s.take := rfl
@[simp] theorem latchWord_streams (a : Nat) (w : Word) : (s.latchWord a w).streams = s.streams := rfl
@[simp] theorem latchWord_stores (a : Nat) (w : Word) : (s.latchWord a w).stores = s.stores := rfl
@[simp] theorem latchWord_ev (a : Nat) (w : Word) : (s.latchWord a w).ev = s.ev := rfl
@[simp] theorem latchWord_busMaster (a : Nat) (w : Word) : (s.latchWord a w).busMaster = s.busMaster := rfl
@[simp] theorem latchWord_trigIn (a : Nat) (w : Word) : (s.latchWord a w).trigIn = s.trigIn := rfl
@[simp] theorem latchWord_trigOut (a : Nat) (w : Word) : (s.latchWord a w).trigOut = s.trigOut := rfl
@[simp] theorem latchWord_sides (a : Nat) (w : Word) : (s.latchWord a w).sides = s.sides := rfl
@[simp] theorem latchWord_afLog (a : Nat) (w : Word) : (s.latchWord a w).afLog = s.afLog := rfl
@[simp] theorem latchWord_afQueue (a : Nat) (w : Word) : (s.latchWord a w).afQueue = s.afQueue := rfl
@[simp] theorem latchWord_queues (a : Nat) (w : Word) : (s.latchWord a w).queues = s.queues := rfl
@[simp] theorem latchWord_sram (a : Nat) (w : Word) : (s.latchWord a w).sram = s.sram := rfl
@[simp] theorem latchWord_srams (a : Nat) (w : Word) : (s.latchWord a w).srams = s.srams := rfl
@[simp] theorem latchWord_sramEpoch (a : Nat) (w : Word) : (s.latchWord a w).sramEpoch = s.sramEpoch := rfl
@[simp] theorem latchWord_dram (a : Nat) (w : Word) : (s.latchWord a w).dram = s.dram := rfl
@[simp] theorem latchWord_chans (a : Nat) (w : Word) : (s.latchWord a w).chans = s.chans := rfl
@[simp] theorem latchWord_dramEpoch (a : Nat) (w : Word) : (s.latchWord a w).dramEpoch = s.dramEpoch := rfl
@[simp] theorem latchWord_host (a : Nat) (w : Word) : (s.latchWord a w).host = s.host := rfl
@[simp] theorem latchWord_nbTolerance (a : Nat) (w : Word) : (s.latchWord a w).nbTolerance = s.nbTolerance := rfl
@[simp] theorem latchWord_ring (a : Nat) (w : Word) : (s.latchWord a w).ring = s.ring := rfl
@[simp] theorem latchWord_reeve (a : Nat) (w : Word) : (s.latchWord a w).reeve = s.reeve := rfl
@[simp] theorem latchWord_boot (a : Nat) (w : Word) : (s.latchWord a w).boot = s.boot := rfl
@[simp] theorem latchWord_dies (a : Nat) (w : Word) : (s.latchWord a w).dies = s.dies := rfl
@[simp] theorem latchWord_ports (a : Nat) (w : Word) : (s.latchWord a w).ports = s.ports := rfl
@[simp] theorem latchWord_board (a : Nat) (w : Word) : (s.latchWord a w).board = s.board := rfl
@[simp] theorem latchWord_frees (a : Nat) (w : Word) : (s.latchWord a w).frees = s.frees := rfl
@[simp] theorem latchWord_out (a : Nat) (w : Word) : (s.latchWord a w).out = s.out := rfl
@[simp] theorem latchWord_pending (a : Nat) (w : Word) : (s.latchWord a w).pending = s.pending := rfl

/-! ### unlatch -/

@[simp] theorem unlatch_fuse (a : Nat) : (s.unlatch a).fuse = s.fuse := rfl
@[simp] theorem unlatch_act (a : Nat) : (s.unlatch a).act = s.act := rfl
@[simp] theorem unlatch_shd (a : Nat) : (s.unlatch a).shd = s.shd := rfl
@[simp] theorem unlatch_held (a : Nat) : (s.unlatch a).held = s.held := rfl
@[simp] theorem unlatch_hiveTime (a : Nat) : (s.unlatch a).hiveTime = s.hiveTime := rfl
@[simp] theorem unlatch_timeRuns (a : Nat) : (s.unlatch a).timeRuns = s.timeRuns := rfl
@[simp] theorem unlatch_superTime (a : Nat) : (s.unlatch a).superTime = s.superTime := rfl
@[simp] theorem unlatch_loadWanted (a : Nat) : (s.unlatch a).loadWanted = s.loadWanted := rfl
@[simp] theorem unlatch_turnAt (a : Nat) : (s.unlatch a).turnAt = s.turnAt := rfl
@[simp] theorem unlatch_stopped (a : Nat) : (s.unlatch a).stopped = s.stopped := rfl
@[simp] theorem unlatch_plls (a : Nat) : (s.unlatch a).plls = s.plls := rfl
@[simp] theorem unlatch_pods (a : Nat) : (s.unlatch a).pods = s.pods := rfl
@[simp] theorem unlatch_frames (a : Nat) : (s.unlatch a).frames = s.frames := rfl
@[simp] theorem unlatch_scouts (a : Nat) : (s.unlatch a).scouts = s.scouts := rfl
@[simp] theorem unlatch_seqs (a : Nat) : (s.unlatch a).seqs = s.seqs := rfl
@[simp] theorem unlatch_take (a : Nat) : (s.unlatch a).take = s.take := rfl
@[simp] theorem unlatch_streams (a : Nat) : (s.unlatch a).streams = s.streams := rfl
@[simp] theorem unlatch_stores (a : Nat) : (s.unlatch a).stores = s.stores := rfl
@[simp] theorem unlatch_ev (a : Nat) : (s.unlatch a).ev = s.ev := rfl
@[simp] theorem unlatch_busMaster (a : Nat) : (s.unlatch a).busMaster = s.busMaster := rfl
@[simp] theorem unlatch_trigIn (a : Nat) : (s.unlatch a).trigIn = s.trigIn := rfl
@[simp] theorem unlatch_trigOut (a : Nat) : (s.unlatch a).trigOut = s.trigOut := rfl
@[simp] theorem unlatch_sides (a : Nat) : (s.unlatch a).sides = s.sides := rfl
@[simp] theorem unlatch_afLog (a : Nat) : (s.unlatch a).afLog = s.afLog := rfl
@[simp] theorem unlatch_afQueue (a : Nat) : (s.unlatch a).afQueue = s.afQueue := rfl
@[simp] theorem unlatch_queues (a : Nat) : (s.unlatch a).queues = s.queues := rfl
@[simp] theorem unlatch_sram (a : Nat) : (s.unlatch a).sram = s.sram := rfl
@[simp] theorem unlatch_srams (a : Nat) : (s.unlatch a).srams = s.srams := rfl
@[simp] theorem unlatch_sramEpoch (a : Nat) : (s.unlatch a).sramEpoch = s.sramEpoch := rfl
@[simp] theorem unlatch_dram (a : Nat) : (s.unlatch a).dram = s.dram := rfl
@[simp] theorem unlatch_chans (a : Nat) : (s.unlatch a).chans = s.chans := rfl
@[simp] theorem unlatch_dramEpoch (a : Nat) : (s.unlatch a).dramEpoch = s.dramEpoch := rfl
@[simp] theorem unlatch_host (a : Nat) : (s.unlatch a).host = s.host := rfl
@[simp] theorem unlatch_nbTolerance (a : Nat) : (s.unlatch a).nbTolerance = s.nbTolerance := rfl
@[simp] theorem unlatch_ring (a : Nat) : (s.unlatch a).ring = s.ring := rfl
@[simp] theorem unlatch_reeve (a : Nat) : (s.unlatch a).reeve = s.reeve := rfl
@[simp] theorem unlatch_boot (a : Nat) : (s.unlatch a).boot = s.boot := rfl
@[simp] theorem unlatch_dies (a : Nat) : (s.unlatch a).dies = s.dies := rfl
@[simp] theorem unlatch_ports (a : Nat) : (s.unlatch a).ports = s.ports := rfl
@[simp] theorem unlatch_board (a : Nat) : (s.unlatch a).board = s.board := rfl
@[simp] theorem unlatch_frees (a : Nat) : (s.unlatch a).frees = s.frees := rfl
@[simp] theorem unlatch_out (a : Nat) : (s.unlatch a).out = s.out := rfl
@[simp] theorem unlatch_pending (a : Nat) : (s.unlatch a).pending = s.pending := rfl

/-! ### clearRegs -/

@[simp] theorem clearRegs_fuse (p : Page) (lo hi : Nat) : (s.clearRegs p lo hi).fuse = s.fuse := rfl
@[simp] theorem clearRegs_hiveTime (p : Page) (lo hi : Nat) : (s.clearRegs p lo hi).hiveTime = s.hiveTime := rfl
@[simp] theorem clearRegs_timeRuns (p : Page) (lo hi : Nat) : (s.clearRegs p lo hi).timeRuns = s.timeRuns := rfl
@[simp] theorem clearRegs_superTime (p : Page) (lo hi : Nat) : (s.clearRegs p lo hi).superTime = s.superTime := rfl
@[simp] theorem clearRegs_loadWanted (p : Page) (lo hi : Nat) : (s.clearRegs p lo hi).loadWanted = s.loadWanted := rfl
@[simp] theorem clearRegs_turnAt (p : Page) (lo hi : Nat) : (s.clearRegs p lo hi).turnAt = s.turnAt := rfl
@[simp] theorem clearRegs_stopped (p : Page) (lo hi : Nat) : (s.clearRegs p lo hi).stopped = s.stopped := rfl
@[simp] theorem clearRegs_plls (p : Page) (lo hi : Nat) : (s.clearRegs p lo hi).plls = s.plls := rfl
@[simp] theorem clearRegs_pods (p : Page) (lo hi : Nat) : (s.clearRegs p lo hi).pods = s.pods := rfl
@[simp] theorem clearRegs_frames (p : Page) (lo hi : Nat) : (s.clearRegs p lo hi).frames = s.frames := rfl
@[simp] theorem clearRegs_scouts (p : Page) (lo hi : Nat) : (s.clearRegs p lo hi).scouts = s.scouts := rfl
@[simp] theorem clearRegs_seqs (p : Page) (lo hi : Nat) : (s.clearRegs p lo hi).seqs = s.seqs := rfl
@[simp] theorem clearRegs_take (p : Page) (lo hi : Nat) : (s.clearRegs p lo hi).take = s.take := rfl
@[simp] theorem clearRegs_streams (p : Page) (lo hi : Nat) : (s.clearRegs p lo hi).streams = s.streams := rfl
@[simp] theorem clearRegs_stores (p : Page) (lo hi : Nat) : (s.clearRegs p lo hi).stores = s.stores := rfl
@[simp] theorem clearRegs_ev (p : Page) (lo hi : Nat) : (s.clearRegs p lo hi).ev = s.ev := rfl
@[simp] theorem clearRegs_busMaster (p : Page) (lo hi : Nat) : (s.clearRegs p lo hi).busMaster = s.busMaster := rfl
@[simp] theorem clearRegs_trigIn (p : Page) (lo hi : Nat) : (s.clearRegs p lo hi).trigIn = s.trigIn := rfl
@[simp] theorem clearRegs_trigOut (p : Page) (lo hi : Nat) : (s.clearRegs p lo hi).trigOut = s.trigOut := rfl
@[simp] theorem clearRegs_sides (p : Page) (lo hi : Nat) : (s.clearRegs p lo hi).sides = s.sides := rfl
@[simp] theorem clearRegs_afLog (p : Page) (lo hi : Nat) : (s.clearRegs p lo hi).afLog = s.afLog := rfl
@[simp] theorem clearRegs_afQueue (p : Page) (lo hi : Nat) : (s.clearRegs p lo hi).afQueue = s.afQueue := rfl
@[simp] theorem clearRegs_queues (p : Page) (lo hi : Nat) : (s.clearRegs p lo hi).queues = s.queues := rfl
@[simp] theorem clearRegs_sram (p : Page) (lo hi : Nat) : (s.clearRegs p lo hi).sram = s.sram := rfl
@[simp] theorem clearRegs_srams (p : Page) (lo hi : Nat) : (s.clearRegs p lo hi).srams = s.srams := rfl
@[simp] theorem clearRegs_sramEpoch (p : Page) (lo hi : Nat) : (s.clearRegs p lo hi).sramEpoch = s.sramEpoch := rfl
@[simp] theorem clearRegs_dram (p : Page) (lo hi : Nat) : (s.clearRegs p lo hi).dram = s.dram := rfl
@[simp] theorem clearRegs_chans (p : Page) (lo hi : Nat) : (s.clearRegs p lo hi).chans = s.chans := rfl
@[simp] theorem clearRegs_dramEpoch (p : Page) (lo hi : Nat) : (s.clearRegs p lo hi).dramEpoch = s.dramEpoch := rfl
@[simp] theorem clearRegs_host (p : Page) (lo hi : Nat) : (s.clearRegs p lo hi).host = s.host := rfl
@[simp] theorem clearRegs_nbTolerance (p : Page) (lo hi : Nat) : (s.clearRegs p lo hi).nbTolerance = s.nbTolerance := rfl
@[simp] theorem clearRegs_ring (p : Page) (lo hi : Nat) : (s.clearRegs p lo hi).ring = s.ring := rfl
@[simp] theorem clearRegs_reeve (p : Page) (lo hi : Nat) : (s.clearRegs p lo hi).reeve = s.reeve := rfl
@[simp] theorem clearRegs_boot (p : Page) (lo hi : Nat) : (s.clearRegs p lo hi).boot = s.boot := rfl
@[simp] theorem clearRegs_dies (p : Page) (lo hi : Nat) : (s.clearRegs p lo hi).dies = s.dies := rfl
@[simp] theorem clearRegs_ports (p : Page) (lo hi : Nat) : (s.clearRegs p lo hi).ports = s.ports := rfl
@[simp] theorem clearRegs_board (p : Page) (lo hi : Nat) : (s.clearRegs p lo hi).board = s.board := rfl
@[simp] theorem clearRegs_frees (p : Page) (lo hi : Nat) : (s.clearRegs p lo hi).frees = s.frees := rfl
@[simp] theorem clearRegs_out (p : Page) (lo hi : Nat) : (s.clearRegs p lo hi).out = s.out := rfl
@[simp] theorem clearRegs_pending (p : Page) (lo hi : Nat) : (s.clearRegs p lo hi).pending = s.pending := rfl

/-! ### blankRegs -/

@[simp] theorem blankRegs_fuse : (s.blankRegs).fuse = s.fuse := rfl
@[simp] theorem blankRegs_shd : (s.blankRegs).shd = s.shd := rfl
@[simp] theorem blankRegs_latched : (s.blankRegs).latched = s.latched := rfl
@[simp] theorem blankRegs_held : (s.blankRegs).held = s.held := rfl
@[simp] theorem blankRegs_hiveTime : (s.blankRegs).hiveTime = s.hiveTime := rfl
@[simp] theorem blankRegs_timeRuns : (s.blankRegs).timeRuns = s.timeRuns := rfl
@[simp] theorem blankRegs_superTime : (s.blankRegs).superTime = s.superTime := rfl
@[simp] theorem blankRegs_loadWanted : (s.blankRegs).loadWanted = s.loadWanted := rfl
@[simp] theorem blankRegs_turnAt : (s.blankRegs).turnAt = s.turnAt := rfl
@[simp] theorem blankRegs_stopped : (s.blankRegs).stopped = s.stopped := rfl
@[simp] theorem blankRegs_plls : (s.blankRegs).plls = s.plls := rfl
@[simp] theorem blankRegs_pods : (s.blankRegs).pods = s.pods := rfl
@[simp] theorem blankRegs_frames : (s.blankRegs).frames = s.frames := rfl
@[simp] theorem blankRegs_scouts : (s.blankRegs).scouts = s.scouts := rfl
@[simp] theorem blankRegs_seqs : (s.blankRegs).seqs = s.seqs := rfl
@[simp] theorem blankRegs_take : (s.blankRegs).take = s.take := rfl
@[simp] theorem blankRegs_streams : (s.blankRegs).streams = s.streams := rfl
@[simp] theorem blankRegs_stores : (s.blankRegs).stores = s.stores := rfl
@[simp] theorem blankRegs_ev : (s.blankRegs).ev = s.ev := rfl
@[simp] theorem blankRegs_busMaster : (s.blankRegs).busMaster = s.busMaster := rfl
@[simp] theorem blankRegs_trigIn : (s.blankRegs).trigIn = s.trigIn := rfl
@[simp] theorem blankRegs_trigOut : (s.blankRegs).trigOut = s.trigOut := rfl
@[simp] theorem blankRegs_sides : (s.blankRegs).sides = s.sides := rfl
@[simp] theorem blankRegs_afLog : (s.blankRegs).afLog = s.afLog := rfl
@[simp] theorem blankRegs_afQueue : (s.blankRegs).afQueue = s.afQueue := rfl
@[simp] theorem blankRegs_queues : (s.blankRegs).queues = s.queues := rfl
@[simp] theorem blankRegs_sram : (s.blankRegs).sram = s.sram := rfl
@[simp] theorem blankRegs_srams : (s.blankRegs).srams = s.srams := rfl
@[simp] theorem blankRegs_sramEpoch : (s.blankRegs).sramEpoch = s.sramEpoch := rfl
@[simp] theorem blankRegs_dram : (s.blankRegs).dram = s.dram := rfl
@[simp] theorem blankRegs_chans : (s.blankRegs).chans = s.chans := rfl
@[simp] theorem blankRegs_dramEpoch : (s.blankRegs).dramEpoch = s.dramEpoch := rfl
@[simp] theorem blankRegs_host : (s.blankRegs).host = s.host := rfl
@[simp] theorem blankRegs_nbTolerance : (s.blankRegs).nbTolerance = s.nbTolerance := rfl
@[simp] theorem blankRegs_ring : (s.blankRegs).ring = s.ring := rfl
@[simp] theorem blankRegs_reeve : (s.blankRegs).reeve = s.reeve := rfl
@[simp] theorem blankRegs_boot : (s.blankRegs).boot = s.boot := rfl
@[simp] theorem blankRegs_dies : (s.blankRegs).dies = s.dies := rfl
@[simp] theorem blankRegs_ports : (s.blankRegs).ports = s.ports := rfl
@[simp] theorem blankRegs_board : (s.blankRegs).board = s.board := rfl
@[simp] theorem blankRegs_frees : (s.blankRegs).frees = s.frees := rfl
@[simp] theorem blankRegs_out : (s.blankRegs).out = s.out := rfl
@[simp] theorem blankRegs_pending : (s.blankRegs).pending = s.pending := rfl

/-! ### setPll -/

@[simp] theorem setPll_fuse (p : Page) (x : PllSt) : (s.setPll p x).fuse = s.fuse := rfl
@[simp] theorem setPll_act (p : Page) (x : PllSt) : (s.setPll p x).act = s.act := rfl
@[simp] theorem setPll_shd (p : Page) (x : PllSt) : (s.setPll p x).shd = s.shd := rfl
@[simp] theorem setPll_latched (p : Page) (x : PllSt) : (s.setPll p x).latched = s.latched := rfl
@[simp] theorem setPll_held (p : Page) (x : PllSt) : (s.setPll p x).held = s.held := rfl
@[simp] theorem setPll_hiveTime (p : Page) (x : PllSt) : (s.setPll p x).hiveTime = s.hiveTime := rfl
@[simp] theorem setPll_timeRuns (p : Page) (x : PllSt) : (s.setPll p x).timeRuns = s.timeRuns := rfl
@[simp] theorem setPll_superTime (p : Page) (x : PllSt) : (s.setPll p x).superTime = s.superTime := rfl
@[simp] theorem setPll_loadWanted (p : Page) (x : PllSt) : (s.setPll p x).loadWanted = s.loadWanted := rfl
@[simp] theorem setPll_turnAt (p : Page) (x : PllSt) : (s.setPll p x).turnAt = s.turnAt := rfl
@[simp] theorem setPll_stopped (p : Page) (x : PllSt) : (s.setPll p x).stopped = s.stopped := rfl
@[simp] theorem setPll_plls (p : Page) (x : PllSt) :
    (s.setPll p x).plls = sput (fun _ => PllSt.reset) s.plls (pllIx p) x := rfl
@[simp] theorem setPll_pods (p : Page) (x : PllSt) : (s.setPll p x).pods = s.pods := rfl
@[simp] theorem setPll_frames (p : Page) (x : PllSt) : (s.setPll p x).frames = s.frames := rfl
@[simp] theorem setPll_scouts (p : Page) (x : PllSt) : (s.setPll p x).scouts = s.scouts := rfl
@[simp] theorem setPll_seqs (p : Page) (x : PllSt) : (s.setPll p x).seqs = s.seqs := rfl
@[simp] theorem setPll_take (p : Page) (x : PllSt) : (s.setPll p x).take = s.take := rfl
@[simp] theorem setPll_streams (p : Page) (x : PllSt) : (s.setPll p x).streams = s.streams := rfl
@[simp] theorem setPll_stores (p : Page) (x : PllSt) : (s.setPll p x).stores = s.stores := rfl
@[simp] theorem setPll_ev (p : Page) (x : PllSt) : (s.setPll p x).ev = s.ev := rfl
@[simp] theorem setPll_busMaster (p : Page) (x : PllSt) : (s.setPll p x).busMaster = s.busMaster := rfl
@[simp] theorem setPll_trigIn (p : Page) (x : PllSt) : (s.setPll p x).trigIn = s.trigIn := rfl
@[simp] theorem setPll_trigOut (p : Page) (x : PllSt) : (s.setPll p x).trigOut = s.trigOut := rfl
@[simp] theorem setPll_sides (p : Page) (x : PllSt) : (s.setPll p x).sides = s.sides := rfl
@[simp] theorem setPll_afLog (p : Page) (x : PllSt) : (s.setPll p x).afLog = s.afLog := rfl
@[simp] theorem setPll_afQueue (p : Page) (x : PllSt) : (s.setPll p x).afQueue = s.afQueue := rfl
@[simp] theorem setPll_queues (p : Page) (x : PllSt) : (s.setPll p x).queues = s.queues := rfl
@[simp] theorem setPll_sram (p : Page) (x : PllSt) : (s.setPll p x).sram = s.sram := rfl
@[simp] theorem setPll_srams (p : Page) (x : PllSt) : (s.setPll p x).srams = s.srams := rfl
@[simp] theorem setPll_sramEpoch (p : Page) (x : PllSt) : (s.setPll p x).sramEpoch = s.sramEpoch := rfl
@[simp] theorem setPll_dram (p : Page) (x : PllSt) : (s.setPll p x).dram = s.dram := rfl
@[simp] theorem setPll_chans (p : Page) (x : PllSt) : (s.setPll p x).chans = s.chans := rfl
@[simp] theorem setPll_dramEpoch (p : Page) (x : PllSt) : (s.setPll p x).dramEpoch = s.dramEpoch := rfl
@[simp] theorem setPll_host (p : Page) (x : PllSt) : (s.setPll p x).host = s.host := rfl
@[simp] theorem setPll_nbTolerance (p : Page) (x : PllSt) : (s.setPll p x).nbTolerance = s.nbTolerance := rfl
@[simp] theorem setPll_ring (p : Page) (x : PllSt) : (s.setPll p x).ring = s.ring := rfl
@[simp] theorem setPll_reeve (p : Page) (x : PllSt) : (s.setPll p x).reeve = s.reeve := rfl
@[simp] theorem setPll_boot (p : Page) (x : PllSt) : (s.setPll p x).boot = s.boot := rfl
@[simp] theorem setPll_dies (p : Page) (x : PllSt) : (s.setPll p x).dies = s.dies := rfl
@[simp] theorem setPll_ports (p : Page) (x : PllSt) : (s.setPll p x).ports = s.ports := rfl
@[simp] theorem setPll_board (p : Page) (x : PllSt) : (s.setPll p x).board = s.board := rfl
@[simp] theorem setPll_frees (p : Page) (x : PllSt) : (s.setPll p x).frees = s.frees := rfl
@[simp] theorem setPll_out (p : Page) (x : PllSt) : (s.setPll p x).out = s.out := rfl
@[simp] theorem setPll_pending (p : Page) (x : PllSt) : (s.setPll p x).pending = s.pending := rfl

/-! ### setPod -/

@[simp] theorem setPod_fuse (u f : Nat) (x : PodSt) : (s.setPod u f x).fuse = s.fuse := rfl
@[simp] theorem setPod_act (u f : Nat) (x : PodSt) : (s.setPod u f x).act = s.act := rfl
@[simp] theorem setPod_shd (u f : Nat) (x : PodSt) : (s.setPod u f x).shd = s.shd := rfl
@[simp] theorem setPod_latched (u f : Nat) (x : PodSt) : (s.setPod u f x).latched = s.latched := rfl
@[simp] theorem setPod_held (u f : Nat) (x : PodSt) : (s.setPod u f x).held = s.held := rfl
@[simp] theorem setPod_hiveTime (u f : Nat) (x : PodSt) : (s.setPod u f x).hiveTime = s.hiveTime := rfl
@[simp] theorem setPod_timeRuns (u f : Nat) (x : PodSt) : (s.setPod u f x).timeRuns = s.timeRuns := rfl
@[simp] theorem setPod_superTime (u f : Nat) (x : PodSt) : (s.setPod u f x).superTime = s.superTime := rfl
@[simp] theorem setPod_loadWanted (u f : Nat) (x : PodSt) : (s.setPod u f x).loadWanted = s.loadWanted := rfl
@[simp] theorem setPod_turnAt (u f : Nat) (x : PodSt) : (s.setPod u f x).turnAt = s.turnAt := rfl
@[simp] theorem setPod_stopped (u f : Nat) (x : PodSt) : (s.setPod u f x).stopped = s.stopped := rfl
@[simp] theorem setPod_plls (u f : Nat) (x : PodSt) : (s.setPod u f x).plls = s.plls := rfl
@[simp] theorem setPod_pods (u f : Nat) (x : PodSt) :
    (s.setPod u f x).pods = sput (fun _ => PodSt.reset) s.pods (unitIx u f) x := rfl
@[simp] theorem setPod_frames (u f : Nat) (x : PodSt) : (s.setPod u f x).frames = s.frames := rfl
@[simp] theorem setPod_scouts (u f : Nat) (x : PodSt) : (s.setPod u f x).scouts = s.scouts := rfl
@[simp] theorem setPod_seqs (u f : Nat) (x : PodSt) : (s.setPod u f x).seqs = s.seqs := rfl
@[simp] theorem setPod_take (u f : Nat) (x : PodSt) : (s.setPod u f x).take = s.take := rfl
@[simp] theorem setPod_streams (u f : Nat) (x : PodSt) : (s.setPod u f x).streams = s.streams := rfl
@[simp] theorem setPod_stores (u f : Nat) (x : PodSt) : (s.setPod u f x).stores = s.stores := rfl
@[simp] theorem setPod_ev (u f : Nat) (x : PodSt) : (s.setPod u f x).ev = s.ev := rfl
@[simp] theorem setPod_busMaster (u f : Nat) (x : PodSt) : (s.setPod u f x).busMaster = s.busMaster := rfl
@[simp] theorem setPod_trigIn (u f : Nat) (x : PodSt) : (s.setPod u f x).trigIn = s.trigIn := rfl
@[simp] theorem setPod_trigOut (u f : Nat) (x : PodSt) : (s.setPod u f x).trigOut = s.trigOut := rfl
@[simp] theorem setPod_sides (u f : Nat) (x : PodSt) : (s.setPod u f x).sides = s.sides := rfl
@[simp] theorem setPod_afLog (u f : Nat) (x : PodSt) : (s.setPod u f x).afLog = s.afLog := rfl
@[simp] theorem setPod_afQueue (u f : Nat) (x : PodSt) : (s.setPod u f x).afQueue = s.afQueue := rfl
@[simp] theorem setPod_queues (u f : Nat) (x : PodSt) : (s.setPod u f x).queues = s.queues := rfl
@[simp] theorem setPod_sram (u f : Nat) (x : PodSt) : (s.setPod u f x).sram = s.sram := rfl
@[simp] theorem setPod_srams (u f : Nat) (x : PodSt) : (s.setPod u f x).srams = s.srams := rfl
@[simp] theorem setPod_sramEpoch (u f : Nat) (x : PodSt) : (s.setPod u f x).sramEpoch = s.sramEpoch := rfl
@[simp] theorem setPod_dram (u f : Nat) (x : PodSt) : (s.setPod u f x).dram = s.dram := rfl
@[simp] theorem setPod_chans (u f : Nat) (x : PodSt) : (s.setPod u f x).chans = s.chans := rfl
@[simp] theorem setPod_dramEpoch (u f : Nat) (x : PodSt) : (s.setPod u f x).dramEpoch = s.dramEpoch := rfl
@[simp] theorem setPod_host (u f : Nat) (x : PodSt) : (s.setPod u f x).host = s.host := rfl
@[simp] theorem setPod_nbTolerance (u f : Nat) (x : PodSt) : (s.setPod u f x).nbTolerance = s.nbTolerance := rfl
@[simp] theorem setPod_ring (u f : Nat) (x : PodSt) : (s.setPod u f x).ring = s.ring := rfl
@[simp] theorem setPod_reeve (u f : Nat) (x : PodSt) : (s.setPod u f x).reeve = s.reeve := rfl
@[simp] theorem setPod_boot (u f : Nat) (x : PodSt) : (s.setPod u f x).boot = s.boot := rfl
@[simp] theorem setPod_dies (u f : Nat) (x : PodSt) : (s.setPod u f x).dies = s.dies := rfl
@[simp] theorem setPod_ports (u f : Nat) (x : PodSt) : (s.setPod u f x).ports = s.ports := rfl
@[simp] theorem setPod_board (u f : Nat) (x : PodSt) : (s.setPod u f x).board = s.board := rfl
@[simp] theorem setPod_frees (u f : Nat) (x : PodSt) : (s.setPod u f x).frees = s.frees := rfl
@[simp] theorem setPod_out (u f : Nat) (x : PodSt) : (s.setPod u f x).out = s.out := rfl
@[simp] theorem setPod_pending (u f : Nat) (x : PodSt) : (s.setPod u f x).pending = s.pending := rfl

/-! ### setFrame -/

@[simp] theorem setFrame_fuse (u f : Nat) (x : FrameSt) : (s.setFrame u f x).fuse = s.fuse := rfl
@[simp] theorem setFrame_act (u f : Nat) (x : FrameSt) : (s.setFrame u f x).act = s.act := rfl
@[simp] theorem setFrame_shd (u f : Nat) (x : FrameSt) : (s.setFrame u f x).shd = s.shd := rfl
@[simp] theorem setFrame_latched (u f : Nat) (x : FrameSt) : (s.setFrame u f x).latched = s.latched := rfl
@[simp] theorem setFrame_held (u f : Nat) (x : FrameSt) : (s.setFrame u f x).held = s.held := rfl
@[simp] theorem setFrame_hiveTime (u f : Nat) (x : FrameSt) : (s.setFrame u f x).hiveTime = s.hiveTime := rfl
@[simp] theorem setFrame_timeRuns (u f : Nat) (x : FrameSt) : (s.setFrame u f x).timeRuns = s.timeRuns := rfl
@[simp] theorem setFrame_superTime (u f : Nat) (x : FrameSt) : (s.setFrame u f x).superTime = s.superTime := rfl
@[simp] theorem setFrame_loadWanted (u f : Nat) (x : FrameSt) : (s.setFrame u f x).loadWanted = s.loadWanted := rfl
@[simp] theorem setFrame_turnAt (u f : Nat) (x : FrameSt) : (s.setFrame u f x).turnAt = s.turnAt := rfl
@[simp] theorem setFrame_stopped (u f : Nat) (x : FrameSt) : (s.setFrame u f x).stopped = s.stopped := rfl
@[simp] theorem setFrame_plls (u f : Nat) (x : FrameSt) : (s.setFrame u f x).plls = s.plls := rfl
@[simp] theorem setFrame_pods (u f : Nat) (x : FrameSt) : (s.setFrame u f x).pods = s.pods := rfl
@[simp] theorem setFrame_frames (u f : Nat) (x : FrameSt) :
    (s.setFrame u f x).frames = sput (fun _ => FrameSt.reset) s.frames (unitIx u f) x := rfl
@[simp] theorem setFrame_scouts (u f : Nat) (x : FrameSt) : (s.setFrame u f x).scouts = s.scouts := rfl
@[simp] theorem setFrame_seqs (u f : Nat) (x : FrameSt) : (s.setFrame u f x).seqs = s.seqs := rfl
@[simp] theorem setFrame_take (u f : Nat) (x : FrameSt) : (s.setFrame u f x).take = s.take := rfl
@[simp] theorem setFrame_streams (u f : Nat) (x : FrameSt) : (s.setFrame u f x).streams = s.streams := rfl
@[simp] theorem setFrame_stores (u f : Nat) (x : FrameSt) : (s.setFrame u f x).stores = s.stores := rfl
@[simp] theorem setFrame_ev (u f : Nat) (x : FrameSt) : (s.setFrame u f x).ev = s.ev := rfl
@[simp] theorem setFrame_busMaster (u f : Nat) (x : FrameSt) : (s.setFrame u f x).busMaster = s.busMaster := rfl
@[simp] theorem setFrame_trigIn (u f : Nat) (x : FrameSt) : (s.setFrame u f x).trigIn = s.trigIn := rfl
@[simp] theorem setFrame_trigOut (u f : Nat) (x : FrameSt) : (s.setFrame u f x).trigOut = s.trigOut := rfl
@[simp] theorem setFrame_sides (u f : Nat) (x : FrameSt) : (s.setFrame u f x).sides = s.sides := rfl
@[simp] theorem setFrame_afLog (u f : Nat) (x : FrameSt) : (s.setFrame u f x).afLog = s.afLog := rfl
@[simp] theorem setFrame_afQueue (u f : Nat) (x : FrameSt) : (s.setFrame u f x).afQueue = s.afQueue := rfl
@[simp] theorem setFrame_queues (u f : Nat) (x : FrameSt) : (s.setFrame u f x).queues = s.queues := rfl
@[simp] theorem setFrame_sram (u f : Nat) (x : FrameSt) : (s.setFrame u f x).sram = s.sram := rfl
@[simp] theorem setFrame_srams (u f : Nat) (x : FrameSt) : (s.setFrame u f x).srams = s.srams := rfl
@[simp] theorem setFrame_sramEpoch (u f : Nat) (x : FrameSt) : (s.setFrame u f x).sramEpoch = s.sramEpoch := rfl
@[simp] theorem setFrame_dram (u f : Nat) (x : FrameSt) : (s.setFrame u f x).dram = s.dram := rfl
@[simp] theorem setFrame_chans (u f : Nat) (x : FrameSt) : (s.setFrame u f x).chans = s.chans := rfl
@[simp] theorem setFrame_dramEpoch (u f : Nat) (x : FrameSt) : (s.setFrame u f x).dramEpoch = s.dramEpoch := rfl
@[simp] theorem setFrame_host (u f : Nat) (x : FrameSt) : (s.setFrame u f x).host = s.host := rfl
@[simp] theorem setFrame_nbTolerance (u f : Nat) (x : FrameSt) : (s.setFrame u f x).nbTolerance = s.nbTolerance := rfl
@[simp] theorem setFrame_ring (u f : Nat) (x : FrameSt) : (s.setFrame u f x).ring = s.ring := rfl
@[simp] theorem setFrame_reeve (u f : Nat) (x : FrameSt) : (s.setFrame u f x).reeve = s.reeve := rfl
@[simp] theorem setFrame_boot (u f : Nat) (x : FrameSt) : (s.setFrame u f x).boot = s.boot := rfl
@[simp] theorem setFrame_dies (u f : Nat) (x : FrameSt) : (s.setFrame u f x).dies = s.dies := rfl
@[simp] theorem setFrame_ports (u f : Nat) (x : FrameSt) : (s.setFrame u f x).ports = s.ports := rfl
@[simp] theorem setFrame_board (u f : Nat) (x : FrameSt) : (s.setFrame u f x).board = s.board := rfl
@[simp] theorem setFrame_frees (u f : Nat) (x : FrameSt) : (s.setFrame u f x).frees = s.frees := rfl
@[simp] theorem setFrame_out (u f : Nat) (x : FrameSt) : (s.setFrame u f x).out = s.out := rfl
@[simp] theorem setFrame_pending (u f : Nat) (x : FrameSt) : (s.setFrame u f x).pending = s.pending := rfl

/-! ### setScout -/

@[simp] theorem setScout_fuse (u k : Nat) (x : ScoutSt) : (s.setScout u k x).fuse = s.fuse := rfl
@[simp] theorem setScout_act (u k : Nat) (x : ScoutSt) : (s.setScout u k x).act = s.act := rfl
@[simp] theorem setScout_shd (u k : Nat) (x : ScoutSt) : (s.setScout u k x).shd = s.shd := rfl
@[simp] theorem setScout_latched (u k : Nat) (x : ScoutSt) : (s.setScout u k x).latched = s.latched := rfl
@[simp] theorem setScout_held (u k : Nat) (x : ScoutSt) : (s.setScout u k x).held = s.held := rfl
@[simp] theorem setScout_hiveTime (u k : Nat) (x : ScoutSt) : (s.setScout u k x).hiveTime = s.hiveTime := rfl
@[simp] theorem setScout_timeRuns (u k : Nat) (x : ScoutSt) : (s.setScout u k x).timeRuns = s.timeRuns := rfl
@[simp] theorem setScout_superTime (u k : Nat) (x : ScoutSt) : (s.setScout u k x).superTime = s.superTime := rfl
@[simp] theorem setScout_loadWanted (u k : Nat) (x : ScoutSt) : (s.setScout u k x).loadWanted = s.loadWanted := rfl
@[simp] theorem setScout_turnAt (u k : Nat) (x : ScoutSt) : (s.setScout u k x).turnAt = s.turnAt := rfl
@[simp] theorem setScout_stopped (u k : Nat) (x : ScoutSt) : (s.setScout u k x).stopped = s.stopped := rfl
@[simp] theorem setScout_plls (u k : Nat) (x : ScoutSt) : (s.setScout u k x).plls = s.plls := rfl
@[simp] theorem setScout_pods (u k : Nat) (x : ScoutSt) : (s.setScout u k x).pods = s.pods := rfl
@[simp] theorem setScout_frames (u k : Nat) (x : ScoutSt) : (s.setScout u k x).frames = s.frames := rfl
@[simp] theorem setScout_scouts (u k : Nat) (x : ScoutSt) :
    (s.setScout u k x).scouts = sput (fun _ => ScoutSt.reset) s.scouts (unitIx u k) x := rfl
@[simp] theorem setScout_seqs (u k : Nat) (x : ScoutSt) : (s.setScout u k x).seqs = s.seqs := rfl
@[simp] theorem setScout_take (u k : Nat) (x : ScoutSt) : (s.setScout u k x).take = s.take := rfl
@[simp] theorem setScout_streams (u k : Nat) (x : ScoutSt) : (s.setScout u k x).streams = s.streams := rfl
@[simp] theorem setScout_stores (u k : Nat) (x : ScoutSt) : (s.setScout u k x).stores = s.stores := rfl
@[simp] theorem setScout_ev (u k : Nat) (x : ScoutSt) : (s.setScout u k x).ev = s.ev := rfl
@[simp] theorem setScout_busMaster (u k : Nat) (x : ScoutSt) : (s.setScout u k x).busMaster = s.busMaster := rfl
@[simp] theorem setScout_trigIn (u k : Nat) (x : ScoutSt) : (s.setScout u k x).trigIn = s.trigIn := rfl
@[simp] theorem setScout_trigOut (u k : Nat) (x : ScoutSt) : (s.setScout u k x).trigOut = s.trigOut := rfl
@[simp] theorem setScout_sides (u k : Nat) (x : ScoutSt) : (s.setScout u k x).sides = s.sides := rfl
@[simp] theorem setScout_afLog (u k : Nat) (x : ScoutSt) : (s.setScout u k x).afLog = s.afLog := rfl
@[simp] theorem setScout_afQueue (u k : Nat) (x : ScoutSt) : (s.setScout u k x).afQueue = s.afQueue := rfl
@[simp] theorem setScout_queues (u k : Nat) (x : ScoutSt) : (s.setScout u k x).queues = s.queues := rfl
@[simp] theorem setScout_sram (u k : Nat) (x : ScoutSt) : (s.setScout u k x).sram = s.sram := rfl
@[simp] theorem setScout_srams (u k : Nat) (x : ScoutSt) : (s.setScout u k x).srams = s.srams := rfl
@[simp] theorem setScout_sramEpoch (u k : Nat) (x : ScoutSt) : (s.setScout u k x).sramEpoch = s.sramEpoch := rfl
@[simp] theorem setScout_dram (u k : Nat) (x : ScoutSt) : (s.setScout u k x).dram = s.dram := rfl
@[simp] theorem setScout_chans (u k : Nat) (x : ScoutSt) : (s.setScout u k x).chans = s.chans := rfl
@[simp] theorem setScout_dramEpoch (u k : Nat) (x : ScoutSt) : (s.setScout u k x).dramEpoch = s.dramEpoch := rfl
@[simp] theorem setScout_host (u k : Nat) (x : ScoutSt) : (s.setScout u k x).host = s.host := rfl
@[simp] theorem setScout_nbTolerance (u k : Nat) (x : ScoutSt) : (s.setScout u k x).nbTolerance = s.nbTolerance := rfl
@[simp] theorem setScout_ring (u k : Nat) (x : ScoutSt) : (s.setScout u k x).ring = s.ring := rfl
@[simp] theorem setScout_reeve (u k : Nat) (x : ScoutSt) : (s.setScout u k x).reeve = s.reeve := rfl
@[simp] theorem setScout_boot (u k : Nat) (x : ScoutSt) : (s.setScout u k x).boot = s.boot := rfl
@[simp] theorem setScout_dies (u k : Nat) (x : ScoutSt) : (s.setScout u k x).dies = s.dies := rfl
@[simp] theorem setScout_ports (u k : Nat) (x : ScoutSt) : (s.setScout u k x).ports = s.ports := rfl
@[simp] theorem setScout_board (u k : Nat) (x : ScoutSt) : (s.setScout u k x).board = s.board := rfl
@[simp] theorem setScout_frees (u k : Nat) (x : ScoutSt) : (s.setScout u k x).frees = s.frees := rfl
@[simp] theorem setScout_out (u k : Nat) (x : ScoutSt) : (s.setScout u k x).out = s.out := rfl
@[simp] theorem setScout_pending (u k : Nat) (x : ScoutSt) : (s.setScout u k x).pending = s.pending := rfl

/-! ### setSeq -/

@[simp] theorem setSeq_fuse (u : Nat) (x : SeqSt) : (s.setSeq u x).fuse = s.fuse := rfl
@[simp] theorem setSeq_act (u : Nat) (x : SeqSt) : (s.setSeq u x).act = s.act := rfl
@[simp] theorem setSeq_shd (u : Nat) (x : SeqSt) : (s.setSeq u x).shd = s.shd := rfl
@[simp] theorem setSeq_latched (u : Nat) (x : SeqSt) : (s.setSeq u x).latched = s.latched := rfl
@[simp] theorem setSeq_held (u : Nat) (x : SeqSt) : (s.setSeq u x).held = s.held := rfl
@[simp] theorem setSeq_hiveTime (u : Nat) (x : SeqSt) : (s.setSeq u x).hiveTime = s.hiveTime := rfl
@[simp] theorem setSeq_timeRuns (u : Nat) (x : SeqSt) : (s.setSeq u x).timeRuns = s.timeRuns := rfl
@[simp] theorem setSeq_superTime (u : Nat) (x : SeqSt) : (s.setSeq u x).superTime = s.superTime := rfl
@[simp] theorem setSeq_loadWanted (u : Nat) (x : SeqSt) : (s.setSeq u x).loadWanted = s.loadWanted := rfl
@[simp] theorem setSeq_turnAt (u : Nat) (x : SeqSt) : (s.setSeq u x).turnAt = s.turnAt := rfl
@[simp] theorem setSeq_stopped (u : Nat) (x : SeqSt) : (s.setSeq u x).stopped = s.stopped := rfl
@[simp] theorem setSeq_plls (u : Nat) (x : SeqSt) : (s.setSeq u x).plls = s.plls := rfl
@[simp] theorem setSeq_pods (u : Nat) (x : SeqSt) : (s.setSeq u x).pods = s.pods := rfl
@[simp] theorem setSeq_frames (u : Nat) (x : SeqSt) : (s.setSeq u x).frames = s.frames := rfl
@[simp] theorem setSeq_scouts (u : Nat) (x : SeqSt) : (s.setSeq u x).scouts = s.scouts := rfl
@[simp] theorem setSeq_seqs (u : Nat) (x : SeqSt) :
    (s.setSeq u x).seqs = sput (fun _ => SeqSt.reset) s.seqs u x := rfl
@[simp] theorem setSeq_take (u : Nat) (x : SeqSt) : (s.setSeq u x).take = s.take := rfl
@[simp] theorem setSeq_streams (u : Nat) (x : SeqSt) : (s.setSeq u x).streams = s.streams := rfl
@[simp] theorem setSeq_stores (u : Nat) (x : SeqSt) : (s.setSeq u x).stores = s.stores := rfl
@[simp] theorem setSeq_ev (u : Nat) (x : SeqSt) : (s.setSeq u x).ev = s.ev := rfl
@[simp] theorem setSeq_busMaster (u : Nat) (x : SeqSt) : (s.setSeq u x).busMaster = s.busMaster := rfl
@[simp] theorem setSeq_trigIn (u : Nat) (x : SeqSt) : (s.setSeq u x).trigIn = s.trigIn := rfl
@[simp] theorem setSeq_trigOut (u : Nat) (x : SeqSt) : (s.setSeq u x).trigOut = s.trigOut := rfl
@[simp] theorem setSeq_sides (u : Nat) (x : SeqSt) : (s.setSeq u x).sides = s.sides := rfl
@[simp] theorem setSeq_afLog (u : Nat) (x : SeqSt) : (s.setSeq u x).afLog = s.afLog := rfl
@[simp] theorem setSeq_afQueue (u : Nat) (x : SeqSt) : (s.setSeq u x).afQueue = s.afQueue := rfl
@[simp] theorem setSeq_queues (u : Nat) (x : SeqSt) : (s.setSeq u x).queues = s.queues := rfl
@[simp] theorem setSeq_sram (u : Nat) (x : SeqSt) : (s.setSeq u x).sram = s.sram := rfl
@[simp] theorem setSeq_srams (u : Nat) (x : SeqSt) : (s.setSeq u x).srams = s.srams := rfl
@[simp] theorem setSeq_sramEpoch (u : Nat) (x : SeqSt) : (s.setSeq u x).sramEpoch = s.sramEpoch := rfl
@[simp] theorem setSeq_dram (u : Nat) (x : SeqSt) : (s.setSeq u x).dram = s.dram := rfl
@[simp] theorem setSeq_chans (u : Nat) (x : SeqSt) : (s.setSeq u x).chans = s.chans := rfl
@[simp] theorem setSeq_dramEpoch (u : Nat) (x : SeqSt) : (s.setSeq u x).dramEpoch = s.dramEpoch := rfl
@[simp] theorem setSeq_host (u : Nat) (x : SeqSt) : (s.setSeq u x).host = s.host := rfl
@[simp] theorem setSeq_nbTolerance (u : Nat) (x : SeqSt) : (s.setSeq u x).nbTolerance = s.nbTolerance := rfl
@[simp] theorem setSeq_ring (u : Nat) (x : SeqSt) : (s.setSeq u x).ring = s.ring := rfl
@[simp] theorem setSeq_reeve (u : Nat) (x : SeqSt) : (s.setSeq u x).reeve = s.reeve := rfl
@[simp] theorem setSeq_boot (u : Nat) (x : SeqSt) : (s.setSeq u x).boot = s.boot := rfl
@[simp] theorem setSeq_dies (u : Nat) (x : SeqSt) : (s.setSeq u x).dies = s.dies := rfl
@[simp] theorem setSeq_ports (u : Nat) (x : SeqSt) : (s.setSeq u x).ports = s.ports := rfl
@[simp] theorem setSeq_board (u : Nat) (x : SeqSt) : (s.setSeq u x).board = s.board := rfl
@[simp] theorem setSeq_frees (u : Nat) (x : SeqSt) : (s.setSeq u x).frees = s.frees := rfl
@[simp] theorem setSeq_out (u : Nat) (x : SeqSt) : (s.setSeq u x).out = s.out := rfl
@[simp] theorem setSeq_pending (u : Nat) (x : SeqSt) : (s.setSeq u x).pending = s.pending := rfl

/-! ### setStream -/

@[simp] theorem setStream_fuse (i : StreamId) (x : StreamSt) : (s.setStream i x).fuse = s.fuse := rfl
@[simp] theorem setStream_act (i : StreamId) (x : StreamSt) : (s.setStream i x).act = s.act := rfl
@[simp] theorem setStream_shd (i : StreamId) (x : StreamSt) : (s.setStream i x).shd = s.shd := rfl
@[simp] theorem setStream_latched (i : StreamId) (x : StreamSt) : (s.setStream i x).latched = s.latched := rfl
@[simp] theorem setStream_held (i : StreamId) (x : StreamSt) : (s.setStream i x).held = s.held := rfl
@[simp] theorem setStream_hiveTime (i : StreamId) (x : StreamSt) : (s.setStream i x).hiveTime = s.hiveTime := rfl
@[simp] theorem setStream_timeRuns (i : StreamId) (x : StreamSt) : (s.setStream i x).timeRuns = s.timeRuns := rfl
@[simp] theorem setStream_superTime (i : StreamId) (x : StreamSt) : (s.setStream i x).superTime = s.superTime := rfl
@[simp] theorem setStream_loadWanted (i : StreamId) (x : StreamSt) : (s.setStream i x).loadWanted = s.loadWanted := rfl
@[simp] theorem setStream_turnAt (i : StreamId) (x : StreamSt) : (s.setStream i x).turnAt = s.turnAt := rfl
@[simp] theorem setStream_stopped (i : StreamId) (x : StreamSt) : (s.setStream i x).stopped = s.stopped := rfl
@[simp] theorem setStream_plls (i : StreamId) (x : StreamSt) : (s.setStream i x).plls = s.plls := rfl
@[simp] theorem setStream_pods (i : StreamId) (x : StreamSt) : (s.setStream i x).pods = s.pods := rfl
@[simp] theorem setStream_frames (i : StreamId) (x : StreamSt) : (s.setStream i x).frames = s.frames := rfl
@[simp] theorem setStream_scouts (i : StreamId) (x : StreamSt) : (s.setStream i x).scouts = s.scouts := rfl
@[simp] theorem setStream_seqs (i : StreamId) (x : StreamSt) : (s.setStream i x).seqs = s.seqs := rfl
@[simp] theorem setStream_take (i : StreamId) (x : StreamSt) : (s.setStream i x).take = s.take := rfl
@[simp] theorem setStream_streams (i : StreamId) (x : StreamSt) :
    (s.setStream i x).streams = sput (fun _ => StreamSt.reset) s.streams (streamNumber i) x := rfl
@[simp] theorem setStream_stores (i : StreamId) (x : StreamSt) : (s.setStream i x).stores = s.stores := rfl
@[simp] theorem setStream_ev (i : StreamId) (x : StreamSt) : (s.setStream i x).ev = s.ev := rfl
@[simp] theorem setStream_busMaster (i : StreamId) (x : StreamSt) : (s.setStream i x).busMaster = s.busMaster := rfl
@[simp] theorem setStream_trigIn (i : StreamId) (x : StreamSt) : (s.setStream i x).trigIn = s.trigIn := rfl
@[simp] theorem setStream_trigOut (i : StreamId) (x : StreamSt) : (s.setStream i x).trigOut = s.trigOut := rfl
@[simp] theorem setStream_sides (i : StreamId) (x : StreamSt) : (s.setStream i x).sides = s.sides := rfl
@[simp] theorem setStream_afLog (i : StreamId) (x : StreamSt) : (s.setStream i x).afLog = s.afLog := rfl
@[simp] theorem setStream_afQueue (i : StreamId) (x : StreamSt) : (s.setStream i x).afQueue = s.afQueue := rfl
@[simp] theorem setStream_queues (i : StreamId) (x : StreamSt) : (s.setStream i x).queues = s.queues := rfl
@[simp] theorem setStream_sram (i : StreamId) (x : StreamSt) : (s.setStream i x).sram = s.sram := rfl
@[simp] theorem setStream_srams (i : StreamId) (x : StreamSt) : (s.setStream i x).srams = s.srams := rfl
@[simp] theorem setStream_sramEpoch (i : StreamId) (x : StreamSt) : (s.setStream i x).sramEpoch = s.sramEpoch := rfl
@[simp] theorem setStream_dram (i : StreamId) (x : StreamSt) : (s.setStream i x).dram = s.dram := rfl
@[simp] theorem setStream_chans (i : StreamId) (x : StreamSt) : (s.setStream i x).chans = s.chans := rfl
@[simp] theorem setStream_dramEpoch (i : StreamId) (x : StreamSt) : (s.setStream i x).dramEpoch = s.dramEpoch := rfl
@[simp] theorem setStream_host (i : StreamId) (x : StreamSt) : (s.setStream i x).host = s.host := rfl
@[simp] theorem setStream_nbTolerance (i : StreamId) (x : StreamSt) : (s.setStream i x).nbTolerance = s.nbTolerance := rfl
@[simp] theorem setStream_ring (i : StreamId) (x : StreamSt) : (s.setStream i x).ring = s.ring := rfl
@[simp] theorem setStream_reeve (i : StreamId) (x : StreamSt) : (s.setStream i x).reeve = s.reeve := rfl
@[simp] theorem setStream_boot (i : StreamId) (x : StreamSt) : (s.setStream i x).boot = s.boot := rfl
@[simp] theorem setStream_dies (i : StreamId) (x : StreamSt) : (s.setStream i x).dies = s.dies := rfl
@[simp] theorem setStream_ports (i : StreamId) (x : StreamSt) : (s.setStream i x).ports = s.ports := rfl
@[simp] theorem setStream_board (i : StreamId) (x : StreamSt) : (s.setStream i x).board = s.board := rfl
@[simp] theorem setStream_frees (i : StreamId) (x : StreamSt) : (s.setStream i x).frees = s.frees := rfl
@[simp] theorem setStream_out (i : StreamId) (x : StreamSt) : (s.setStream i x).out = s.out := rfl
@[simp] theorem setStream_pending (i : StreamId) (x : StreamSt) : (s.setStream i x).pending = s.pending := rfl

/-! ### setStore -/

@[simp] theorem setStore_fuse (u : Nat) (x : StoreSt) : (s.setStore u x).fuse = s.fuse := rfl
@[simp] theorem setStore_act (u : Nat) (x : StoreSt) : (s.setStore u x).act = s.act := rfl
@[simp] theorem setStore_shd (u : Nat) (x : StoreSt) : (s.setStore u x).shd = s.shd := rfl
@[simp] theorem setStore_latched (u : Nat) (x : StoreSt) : (s.setStore u x).latched = s.latched := rfl
@[simp] theorem setStore_held (u : Nat) (x : StoreSt) : (s.setStore u x).held = s.held := rfl
@[simp] theorem setStore_hiveTime (u : Nat) (x : StoreSt) : (s.setStore u x).hiveTime = s.hiveTime := rfl
@[simp] theorem setStore_timeRuns (u : Nat) (x : StoreSt) : (s.setStore u x).timeRuns = s.timeRuns := rfl
@[simp] theorem setStore_superTime (u : Nat) (x : StoreSt) : (s.setStore u x).superTime = s.superTime := rfl
@[simp] theorem setStore_loadWanted (u : Nat) (x : StoreSt) : (s.setStore u x).loadWanted = s.loadWanted := rfl
@[simp] theorem setStore_turnAt (u : Nat) (x : StoreSt) : (s.setStore u x).turnAt = s.turnAt := rfl
@[simp] theorem setStore_stopped (u : Nat) (x : StoreSt) : (s.setStore u x).stopped = s.stopped := rfl
@[simp] theorem setStore_plls (u : Nat) (x : StoreSt) : (s.setStore u x).plls = s.plls := rfl
@[simp] theorem setStore_pods (u : Nat) (x : StoreSt) : (s.setStore u x).pods = s.pods := rfl
@[simp] theorem setStore_frames (u : Nat) (x : StoreSt) : (s.setStore u x).frames = s.frames := rfl
@[simp] theorem setStore_scouts (u : Nat) (x : StoreSt) : (s.setStore u x).scouts = s.scouts := rfl
@[simp] theorem setStore_seqs (u : Nat) (x : StoreSt) : (s.setStore u x).seqs = s.seqs := rfl
@[simp] theorem setStore_take (u : Nat) (x : StoreSt) : (s.setStore u x).take = s.take := rfl
@[simp] theorem setStore_streams (u : Nat) (x : StoreSt) : (s.setStore u x).streams = s.streams := rfl
@[simp] theorem setStore_stores (u : Nat) (x : StoreSt) :
    (s.setStore u x).stores = sput (fun _ => StoreSt.reset) s.stores u x := rfl
@[simp] theorem setStore_ev (u : Nat) (x : StoreSt) : (s.setStore u x).ev = s.ev := rfl
@[simp] theorem setStore_busMaster (u : Nat) (x : StoreSt) : (s.setStore u x).busMaster = s.busMaster := rfl
@[simp] theorem setStore_trigIn (u : Nat) (x : StoreSt) : (s.setStore u x).trigIn = s.trigIn := rfl
@[simp] theorem setStore_trigOut (u : Nat) (x : StoreSt) : (s.setStore u x).trigOut = s.trigOut := rfl
@[simp] theorem setStore_sides (u : Nat) (x : StoreSt) : (s.setStore u x).sides = s.sides := rfl
@[simp] theorem setStore_afLog (u : Nat) (x : StoreSt) : (s.setStore u x).afLog = s.afLog := rfl
@[simp] theorem setStore_afQueue (u : Nat) (x : StoreSt) : (s.setStore u x).afQueue = s.afQueue := rfl
@[simp] theorem setStore_queues (u : Nat) (x : StoreSt) : (s.setStore u x).queues = s.queues := rfl
@[simp] theorem setStore_sram (u : Nat) (x : StoreSt) : (s.setStore u x).sram = s.sram := rfl
@[simp] theorem setStore_srams (u : Nat) (x : StoreSt) : (s.setStore u x).srams = s.srams := rfl
@[simp] theorem setStore_sramEpoch (u : Nat) (x : StoreSt) : (s.setStore u x).sramEpoch = s.sramEpoch := rfl
@[simp] theorem setStore_dram (u : Nat) (x : StoreSt) : (s.setStore u x).dram = s.dram := rfl
@[simp] theorem setStore_chans (u : Nat) (x : StoreSt) : (s.setStore u x).chans = s.chans := rfl
@[simp] theorem setStore_dramEpoch (u : Nat) (x : StoreSt) : (s.setStore u x).dramEpoch = s.dramEpoch := rfl
@[simp] theorem setStore_host (u : Nat) (x : StoreSt) : (s.setStore u x).host = s.host := rfl
@[simp] theorem setStore_nbTolerance (u : Nat) (x : StoreSt) : (s.setStore u x).nbTolerance = s.nbTolerance := rfl
@[simp] theorem setStore_ring (u : Nat) (x : StoreSt) : (s.setStore u x).ring = s.ring := rfl
@[simp] theorem setStore_reeve (u : Nat) (x : StoreSt) : (s.setStore u x).reeve = s.reeve := rfl
@[simp] theorem setStore_boot (u : Nat) (x : StoreSt) : (s.setStore u x).boot = s.boot := rfl
@[simp] theorem setStore_dies (u : Nat) (x : StoreSt) : (s.setStore u x).dies = s.dies := rfl
@[simp] theorem setStore_ports (u : Nat) (x : StoreSt) : (s.setStore u x).ports = s.ports := rfl
@[simp] theorem setStore_board (u : Nat) (x : StoreSt) : (s.setStore u x).board = s.board := rfl
@[simp] theorem setStore_frees (u : Nat) (x : StoreSt) : (s.setStore u x).frees = s.frees := rfl
@[simp] theorem setStore_out (u : Nat) (x : StoreSt) : (s.setStore u x).out = s.out := rfl
@[simp] theorem setStore_pending (u : Nat) (x : StoreSt) : (s.setStore u x).pending = s.pending := rfl

/-! ### setSide -/

@[simp] theorem setSide_fuse (u : Nat) (x : SideSt) : (s.setSide u x).fuse = s.fuse := rfl
@[simp] theorem setSide_act (u : Nat) (x : SideSt) : (s.setSide u x).act = s.act := rfl
@[simp] theorem setSide_shd (u : Nat) (x : SideSt) : (s.setSide u x).shd = s.shd := rfl
@[simp] theorem setSide_latched (u : Nat) (x : SideSt) : (s.setSide u x).latched = s.latched := rfl
@[simp] theorem setSide_held (u : Nat) (x : SideSt) : (s.setSide u x).held = s.held := rfl
@[simp] theorem setSide_hiveTime (u : Nat) (x : SideSt) : (s.setSide u x).hiveTime = s.hiveTime := rfl
@[simp] theorem setSide_timeRuns (u : Nat) (x : SideSt) : (s.setSide u x).timeRuns = s.timeRuns := rfl
@[simp] theorem setSide_superTime (u : Nat) (x : SideSt) : (s.setSide u x).superTime = s.superTime := rfl
@[simp] theorem setSide_loadWanted (u : Nat) (x : SideSt) : (s.setSide u x).loadWanted = s.loadWanted := rfl
@[simp] theorem setSide_turnAt (u : Nat) (x : SideSt) : (s.setSide u x).turnAt = s.turnAt := rfl
@[simp] theorem setSide_stopped (u : Nat) (x : SideSt) : (s.setSide u x).stopped = s.stopped := rfl
@[simp] theorem setSide_plls (u : Nat) (x : SideSt) : (s.setSide u x).plls = s.plls := rfl
@[simp] theorem setSide_pods (u : Nat) (x : SideSt) : (s.setSide u x).pods = s.pods := rfl
@[simp] theorem setSide_frames (u : Nat) (x : SideSt) : (s.setSide u x).frames = s.frames := rfl
@[simp] theorem setSide_scouts (u : Nat) (x : SideSt) : (s.setSide u x).scouts = s.scouts := rfl
@[simp] theorem setSide_seqs (u : Nat) (x : SideSt) : (s.setSide u x).seqs = s.seqs := rfl
@[simp] theorem setSide_take (u : Nat) (x : SideSt) : (s.setSide u x).take = s.take := rfl
@[simp] theorem setSide_streams (u : Nat) (x : SideSt) : (s.setSide u x).streams = s.streams := rfl
@[simp] theorem setSide_stores (u : Nat) (x : SideSt) : (s.setSide u x).stores = s.stores := rfl
@[simp] theorem setSide_ev (u : Nat) (x : SideSt) : (s.setSide u x).ev = s.ev := rfl
@[simp] theorem setSide_busMaster (u : Nat) (x : SideSt) : (s.setSide u x).busMaster = s.busMaster := rfl
@[simp] theorem setSide_trigIn (u : Nat) (x : SideSt) : (s.setSide u x).trigIn = s.trigIn := rfl
@[simp] theorem setSide_trigOut (u : Nat) (x : SideSt) : (s.setSide u x).trigOut = s.trigOut := rfl
@[simp] theorem setSide_sides (u : Nat) (x : SideSt) :
    (s.setSide u x).sides = sput (fun _ => SideSt.reset) s.sides u x := rfl
@[simp] theorem setSide_afLog (u : Nat) (x : SideSt) : (s.setSide u x).afLog = s.afLog := rfl
@[simp] theorem setSide_afQueue (u : Nat) (x : SideSt) : (s.setSide u x).afQueue = s.afQueue := rfl
@[simp] theorem setSide_queues (u : Nat) (x : SideSt) : (s.setSide u x).queues = s.queues := rfl
@[simp] theorem setSide_sram (u : Nat) (x : SideSt) : (s.setSide u x).sram = s.sram := rfl
@[simp] theorem setSide_srams (u : Nat) (x : SideSt) : (s.setSide u x).srams = s.srams := rfl
@[simp] theorem setSide_sramEpoch (u : Nat) (x : SideSt) : (s.setSide u x).sramEpoch = s.sramEpoch := rfl
@[simp] theorem setSide_dram (u : Nat) (x : SideSt) : (s.setSide u x).dram = s.dram := rfl
@[simp] theorem setSide_chans (u : Nat) (x : SideSt) : (s.setSide u x).chans = s.chans := rfl
@[simp] theorem setSide_dramEpoch (u : Nat) (x : SideSt) : (s.setSide u x).dramEpoch = s.dramEpoch := rfl
@[simp] theorem setSide_host (u : Nat) (x : SideSt) : (s.setSide u x).host = s.host := rfl
@[simp] theorem setSide_nbTolerance (u : Nat) (x : SideSt) : (s.setSide u x).nbTolerance = s.nbTolerance := rfl
@[simp] theorem setSide_ring (u : Nat) (x : SideSt) : (s.setSide u x).ring = s.ring := rfl
@[simp] theorem setSide_reeve (u : Nat) (x : SideSt) : (s.setSide u x).reeve = s.reeve := rfl
@[simp] theorem setSide_boot (u : Nat) (x : SideSt) : (s.setSide u x).boot = s.boot := rfl
@[simp] theorem setSide_dies (u : Nat) (x : SideSt) : (s.setSide u x).dies = s.dies := rfl
@[simp] theorem setSide_ports (u : Nat) (x : SideSt) : (s.setSide u x).ports = s.ports := rfl
@[simp] theorem setSide_board (u : Nat) (x : SideSt) : (s.setSide u x).board = s.board := rfl
@[simp] theorem setSide_frees (u : Nat) (x : SideSt) : (s.setSide u x).frees = s.frees := rfl
@[simp] theorem setSide_out (u : Nat) (x : SideSt) : (s.setSide u x).out = s.out := rfl
@[simp] theorem setSide_pending (u : Nat) (x : SideSt) : (s.setSide u x).pending = s.pending := rfl

/-! ### setQueue -/

@[simp] theorem setQueue_fuse (q : QueueId) (x : QueueSt) : (s.setQueue q x).fuse = s.fuse := rfl
@[simp] theorem setQueue_act (q : QueueId) (x : QueueSt) : (s.setQueue q x).act = s.act := rfl
@[simp] theorem setQueue_shd (q : QueueId) (x : QueueSt) : (s.setQueue q x).shd = s.shd := rfl
@[simp] theorem setQueue_latched (q : QueueId) (x : QueueSt) : (s.setQueue q x).latched = s.latched := rfl
@[simp] theorem setQueue_held (q : QueueId) (x : QueueSt) : (s.setQueue q x).held = s.held := rfl
@[simp] theorem setQueue_hiveTime (q : QueueId) (x : QueueSt) : (s.setQueue q x).hiveTime = s.hiveTime := rfl
@[simp] theorem setQueue_timeRuns (q : QueueId) (x : QueueSt) : (s.setQueue q x).timeRuns = s.timeRuns := rfl
@[simp] theorem setQueue_superTime (q : QueueId) (x : QueueSt) : (s.setQueue q x).superTime = s.superTime := rfl
@[simp] theorem setQueue_loadWanted (q : QueueId) (x : QueueSt) : (s.setQueue q x).loadWanted = s.loadWanted := rfl
@[simp] theorem setQueue_turnAt (q : QueueId) (x : QueueSt) : (s.setQueue q x).turnAt = s.turnAt := rfl
@[simp] theorem setQueue_stopped (q : QueueId) (x : QueueSt) : (s.setQueue q x).stopped = s.stopped := rfl
@[simp] theorem setQueue_plls (q : QueueId) (x : QueueSt) : (s.setQueue q x).plls = s.plls := rfl
@[simp] theorem setQueue_pods (q : QueueId) (x : QueueSt) : (s.setQueue q x).pods = s.pods := rfl
@[simp] theorem setQueue_frames (q : QueueId) (x : QueueSt) : (s.setQueue q x).frames = s.frames := rfl
@[simp] theorem setQueue_scouts (q : QueueId) (x : QueueSt) : (s.setQueue q x).scouts = s.scouts := rfl
@[simp] theorem setQueue_seqs (q : QueueId) (x : QueueSt) : (s.setQueue q x).seqs = s.seqs := rfl
@[simp] theorem setQueue_take (q : QueueId) (x : QueueSt) : (s.setQueue q x).take = s.take := rfl
@[simp] theorem setQueue_streams (q : QueueId) (x : QueueSt) : (s.setQueue q x).streams = s.streams := rfl
@[simp] theorem setQueue_stores (q : QueueId) (x : QueueSt) : (s.setQueue q x).stores = s.stores := rfl
@[simp] theorem setQueue_ev (q : QueueId) (x : QueueSt) : (s.setQueue q x).ev = s.ev := rfl
@[simp] theorem setQueue_busMaster (q : QueueId) (x : QueueSt) : (s.setQueue q x).busMaster = s.busMaster := rfl
@[simp] theorem setQueue_trigIn (q : QueueId) (x : QueueSt) : (s.setQueue q x).trigIn = s.trigIn := rfl
@[simp] theorem setQueue_trigOut (q : QueueId) (x : QueueSt) : (s.setQueue q x).trigOut = s.trigOut := rfl
@[simp] theorem setQueue_sides (q : QueueId) (x : QueueSt) : (s.setQueue q x).sides = s.sides := rfl
@[simp] theorem setQueue_afLog (q : QueueId) (x : QueueSt) : (s.setQueue q x).afLog = s.afLog := rfl
@[simp] theorem setQueue_afQueue (q : QueueId) (x : QueueSt) : (s.setQueue q x).afQueue = s.afQueue := rfl
@[simp] theorem setQueue_queues (q : QueueId) (x : QueueSt) :
    (s.setQueue q x).queues = sput (fun _ => QueueSt.reset) s.queues (queueIx q) x := rfl
@[simp] theorem setQueue_sram (q : QueueId) (x : QueueSt) : (s.setQueue q x).sram = s.sram := rfl
@[simp] theorem setQueue_srams (q : QueueId) (x : QueueSt) : (s.setQueue q x).srams = s.srams := rfl
@[simp] theorem setQueue_sramEpoch (q : QueueId) (x : QueueSt) : (s.setQueue q x).sramEpoch = s.sramEpoch := rfl
@[simp] theorem setQueue_dram (q : QueueId) (x : QueueSt) : (s.setQueue q x).dram = s.dram := rfl
@[simp] theorem setQueue_chans (q : QueueId) (x : QueueSt) : (s.setQueue q x).chans = s.chans := rfl
@[simp] theorem setQueue_dramEpoch (q : QueueId) (x : QueueSt) : (s.setQueue q x).dramEpoch = s.dramEpoch := rfl
@[simp] theorem setQueue_host (q : QueueId) (x : QueueSt) : (s.setQueue q x).host = s.host := rfl
@[simp] theorem setQueue_nbTolerance (q : QueueId) (x : QueueSt) : (s.setQueue q x).nbTolerance = s.nbTolerance := rfl
@[simp] theorem setQueue_ring (q : QueueId) (x : QueueSt) : (s.setQueue q x).ring = s.ring := rfl
@[simp] theorem setQueue_reeve (q : QueueId) (x : QueueSt) : (s.setQueue q x).reeve = s.reeve := rfl
@[simp] theorem setQueue_boot (q : QueueId) (x : QueueSt) : (s.setQueue q x).boot = s.boot := rfl
@[simp] theorem setQueue_dies (q : QueueId) (x : QueueSt) : (s.setQueue q x).dies = s.dies := rfl
@[simp] theorem setQueue_ports (q : QueueId) (x : QueueSt) : (s.setQueue q x).ports = s.ports := rfl
@[simp] theorem setQueue_board (q : QueueId) (x : QueueSt) : (s.setQueue q x).board = s.board := rfl
@[simp] theorem setQueue_frees (q : QueueId) (x : QueueSt) : (s.setQueue q x).frees = s.frees := rfl
@[simp] theorem setQueue_out (q : QueueId) (x : QueueSt) : (s.setQueue q x).out = s.out := rfl
@[simp] theorem setQueue_pending (q : QueueId) (x : QueueSt) : (s.setQueue q x).pending = s.pending := rfl

/-! ### setSramOf -/

@[simp] theorem setSramOf_fuse (u : Nat) (x : SramSt) : (s.setSramOf u x).fuse = s.fuse := rfl
@[simp] theorem setSramOf_act (u : Nat) (x : SramSt) : (s.setSramOf u x).act = s.act := rfl
@[simp] theorem setSramOf_shd (u : Nat) (x : SramSt) : (s.setSramOf u x).shd = s.shd := rfl
@[simp] theorem setSramOf_latched (u : Nat) (x : SramSt) : (s.setSramOf u x).latched = s.latched := rfl
@[simp] theorem setSramOf_held (u : Nat) (x : SramSt) : (s.setSramOf u x).held = s.held := rfl
@[simp] theorem setSramOf_hiveTime (u : Nat) (x : SramSt) : (s.setSramOf u x).hiveTime = s.hiveTime := rfl
@[simp] theorem setSramOf_timeRuns (u : Nat) (x : SramSt) : (s.setSramOf u x).timeRuns = s.timeRuns := rfl
@[simp] theorem setSramOf_superTime (u : Nat) (x : SramSt) : (s.setSramOf u x).superTime = s.superTime := rfl
@[simp] theorem setSramOf_loadWanted (u : Nat) (x : SramSt) : (s.setSramOf u x).loadWanted = s.loadWanted := rfl
@[simp] theorem setSramOf_turnAt (u : Nat) (x : SramSt) : (s.setSramOf u x).turnAt = s.turnAt := rfl
@[simp] theorem setSramOf_stopped (u : Nat) (x : SramSt) : (s.setSramOf u x).stopped = s.stopped := rfl
@[simp] theorem setSramOf_plls (u : Nat) (x : SramSt) : (s.setSramOf u x).plls = s.plls := rfl
@[simp] theorem setSramOf_pods (u : Nat) (x : SramSt) : (s.setSramOf u x).pods = s.pods := rfl
@[simp] theorem setSramOf_frames (u : Nat) (x : SramSt) : (s.setSramOf u x).frames = s.frames := rfl
@[simp] theorem setSramOf_scouts (u : Nat) (x : SramSt) : (s.setSramOf u x).scouts = s.scouts := rfl
@[simp] theorem setSramOf_seqs (u : Nat) (x : SramSt) : (s.setSramOf u x).seqs = s.seqs := rfl
@[simp] theorem setSramOf_take (u : Nat) (x : SramSt) : (s.setSramOf u x).take = s.take := rfl
@[simp] theorem setSramOf_streams (u : Nat) (x : SramSt) : (s.setSramOf u x).streams = s.streams := rfl
@[simp] theorem setSramOf_stores (u : Nat) (x : SramSt) : (s.setSramOf u x).stores = s.stores := rfl
@[simp] theorem setSramOf_ev (u : Nat) (x : SramSt) : (s.setSramOf u x).ev = s.ev := rfl
@[simp] theorem setSramOf_busMaster (u : Nat) (x : SramSt) : (s.setSramOf u x).busMaster = s.busMaster := rfl
@[simp] theorem setSramOf_trigIn (u : Nat) (x : SramSt) : (s.setSramOf u x).trigIn = s.trigIn := rfl
@[simp] theorem setSramOf_trigOut (u : Nat) (x : SramSt) : (s.setSramOf u x).trigOut = s.trigOut := rfl
@[simp] theorem setSramOf_sides (u : Nat) (x : SramSt) : (s.setSramOf u x).sides = s.sides := rfl
@[simp] theorem setSramOf_afLog (u : Nat) (x : SramSt) : (s.setSramOf u x).afLog = s.afLog := rfl
@[simp] theorem setSramOf_afQueue (u : Nat) (x : SramSt) : (s.setSramOf u x).afQueue = s.afQueue := rfl
@[simp] theorem setSramOf_queues (u : Nat) (x : SramSt) : (s.setSramOf u x).queues = s.queues := rfl
@[simp] theorem setSramOf_sram (u : Nat) (x : SramSt) : (s.setSramOf u x).sram = s.sram := rfl
@[simp] theorem setSramOf_srams (u : Nat) (x : SramSt) :
    (s.setSramOf u x).srams = sput (fun _ => SramSt.reset) s.srams u x := rfl
@[simp] theorem setSramOf_sramEpoch (u : Nat) (x : SramSt) : (s.setSramOf u x).sramEpoch = s.sramEpoch := rfl
@[simp] theorem setSramOf_dram (u : Nat) (x : SramSt) : (s.setSramOf u x).dram = s.dram := rfl
@[simp] theorem setSramOf_chans (u : Nat) (x : SramSt) : (s.setSramOf u x).chans = s.chans := rfl
@[simp] theorem setSramOf_dramEpoch (u : Nat) (x : SramSt) : (s.setSramOf u x).dramEpoch = s.dramEpoch := rfl
@[simp] theorem setSramOf_host (u : Nat) (x : SramSt) : (s.setSramOf u x).host = s.host := rfl
@[simp] theorem setSramOf_nbTolerance (u : Nat) (x : SramSt) : (s.setSramOf u x).nbTolerance = s.nbTolerance := rfl
@[simp] theorem setSramOf_ring (u : Nat) (x : SramSt) : (s.setSramOf u x).ring = s.ring := rfl
@[simp] theorem setSramOf_reeve (u : Nat) (x : SramSt) : (s.setSramOf u x).reeve = s.reeve := rfl
@[simp] theorem setSramOf_boot (u : Nat) (x : SramSt) : (s.setSramOf u x).boot = s.boot := rfl
@[simp] theorem setSramOf_dies (u : Nat) (x : SramSt) : (s.setSramOf u x).dies = s.dies := rfl
@[simp] theorem setSramOf_ports (u : Nat) (x : SramSt) : (s.setSramOf u x).ports = s.ports := rfl
@[simp] theorem setSramOf_board (u : Nat) (x : SramSt) : (s.setSramOf u x).board = s.board := rfl
@[simp] theorem setSramOf_frees (u : Nat) (x : SramSt) : (s.setSramOf u x).frees = s.frees := rfl
@[simp] theorem setSramOf_out (u : Nat) (x : SramSt) : (s.setSramOf u x).out = s.out := rfl
@[simp] theorem setSramOf_pending (u : Nat) (x : SramSt) : (s.setSramOf u x).pending = s.pending := rfl

/-! ### setChan -/

@[simp] theorem setChan_fuse (u k : Nat) (x : ChanSt) : (s.setChan u k x).fuse = s.fuse := rfl
@[simp] theorem setChan_act (u k : Nat) (x : ChanSt) : (s.setChan u k x).act = s.act := rfl
@[simp] theorem setChan_shd (u k : Nat) (x : ChanSt) : (s.setChan u k x).shd = s.shd := rfl
@[simp] theorem setChan_latched (u k : Nat) (x : ChanSt) : (s.setChan u k x).latched = s.latched := rfl
@[simp] theorem setChan_held (u k : Nat) (x : ChanSt) : (s.setChan u k x).held = s.held := rfl
@[simp] theorem setChan_hiveTime (u k : Nat) (x : ChanSt) : (s.setChan u k x).hiveTime = s.hiveTime := rfl
@[simp] theorem setChan_timeRuns (u k : Nat) (x : ChanSt) : (s.setChan u k x).timeRuns = s.timeRuns := rfl
@[simp] theorem setChan_superTime (u k : Nat) (x : ChanSt) : (s.setChan u k x).superTime = s.superTime := rfl
@[simp] theorem setChan_loadWanted (u k : Nat) (x : ChanSt) : (s.setChan u k x).loadWanted = s.loadWanted := rfl
@[simp] theorem setChan_turnAt (u k : Nat) (x : ChanSt) : (s.setChan u k x).turnAt = s.turnAt := rfl
@[simp] theorem setChan_stopped (u k : Nat) (x : ChanSt) : (s.setChan u k x).stopped = s.stopped := rfl
@[simp] theorem setChan_plls (u k : Nat) (x : ChanSt) : (s.setChan u k x).plls = s.plls := rfl
@[simp] theorem setChan_pods (u k : Nat) (x : ChanSt) : (s.setChan u k x).pods = s.pods := rfl
@[simp] theorem setChan_frames (u k : Nat) (x : ChanSt) : (s.setChan u k x).frames = s.frames := rfl
@[simp] theorem setChan_scouts (u k : Nat) (x : ChanSt) : (s.setChan u k x).scouts = s.scouts := rfl
@[simp] theorem setChan_seqs (u k : Nat) (x : ChanSt) : (s.setChan u k x).seqs = s.seqs := rfl
@[simp] theorem setChan_take (u k : Nat) (x : ChanSt) : (s.setChan u k x).take = s.take := rfl
@[simp] theorem setChan_streams (u k : Nat) (x : ChanSt) : (s.setChan u k x).streams = s.streams := rfl
@[simp] theorem setChan_stores (u k : Nat) (x : ChanSt) : (s.setChan u k x).stores = s.stores := rfl
@[simp] theorem setChan_ev (u k : Nat) (x : ChanSt) : (s.setChan u k x).ev = s.ev := rfl
@[simp] theorem setChan_busMaster (u k : Nat) (x : ChanSt) : (s.setChan u k x).busMaster = s.busMaster := rfl
@[simp] theorem setChan_trigIn (u k : Nat) (x : ChanSt) : (s.setChan u k x).trigIn = s.trigIn := rfl
@[simp] theorem setChan_trigOut (u k : Nat) (x : ChanSt) : (s.setChan u k x).trigOut = s.trigOut := rfl
@[simp] theorem setChan_sides (u k : Nat) (x : ChanSt) : (s.setChan u k x).sides = s.sides := rfl
@[simp] theorem setChan_afLog (u k : Nat) (x : ChanSt) : (s.setChan u k x).afLog = s.afLog := rfl
@[simp] theorem setChan_afQueue (u k : Nat) (x : ChanSt) : (s.setChan u k x).afQueue = s.afQueue := rfl
@[simp] theorem setChan_queues (u k : Nat) (x : ChanSt) : (s.setChan u k x).queues = s.queues := rfl
@[simp] theorem setChan_sram (u k : Nat) (x : ChanSt) : (s.setChan u k x).sram = s.sram := rfl
@[simp] theorem setChan_srams (u k : Nat) (x : ChanSt) : (s.setChan u k x).srams = s.srams := rfl
@[simp] theorem setChan_sramEpoch (u k : Nat) (x : ChanSt) : (s.setChan u k x).sramEpoch = s.sramEpoch := rfl
@[simp] theorem setChan_dram (u k : Nat) (x : ChanSt) : (s.setChan u k x).dram = s.dram := rfl
@[simp] theorem setChan_chans (u k : Nat) (x : ChanSt) :
    (s.setChan u k x).chans = sput (fun _ => ChanSt.reset) s.chans (2 * u + k) x := rfl
@[simp] theorem setChan_dramEpoch (u k : Nat) (x : ChanSt) : (s.setChan u k x).dramEpoch = s.dramEpoch := rfl
@[simp] theorem setChan_host (u k : Nat) (x : ChanSt) : (s.setChan u k x).host = s.host := rfl
@[simp] theorem setChan_nbTolerance (u k : Nat) (x : ChanSt) : (s.setChan u k x).nbTolerance = s.nbTolerance := rfl
@[simp] theorem setChan_ring (u k : Nat) (x : ChanSt) : (s.setChan u k x).ring = s.ring := rfl
@[simp] theorem setChan_reeve (u k : Nat) (x : ChanSt) : (s.setChan u k x).reeve = s.reeve := rfl
@[simp] theorem setChan_boot (u k : Nat) (x : ChanSt) : (s.setChan u k x).boot = s.boot := rfl
@[simp] theorem setChan_dies (u k : Nat) (x : ChanSt) : (s.setChan u k x).dies = s.dies := rfl
@[simp] theorem setChan_ports (u k : Nat) (x : ChanSt) : (s.setChan u k x).ports = s.ports := rfl
@[simp] theorem setChan_board (u k : Nat) (x : ChanSt) : (s.setChan u k x).board = s.board := rfl
@[simp] theorem setChan_frees (u k : Nat) (x : ChanSt) : (s.setChan u k x).frees = s.frees := rfl
@[simp] theorem setChan_out (u k : Nat) (x : ChanSt) : (s.setChan u k x).out = s.out := rfl
@[simp] theorem setChan_pending (u k : Nat) (x : ChanSt) : (s.setChan u k x).pending = s.pending := rfl

/-! ### setDie -/

@[simp] theorem setDie_fuse (link : Nat) (back : Bool) (x : DieSt) : (s.setDie link back x).fuse = s.fuse := rfl
@[simp] theorem setDie_act (link : Nat) (back : Bool) (x : DieSt) : (s.setDie link back x).act = s.act := rfl
@[simp] theorem setDie_shd (link : Nat) (back : Bool) (x : DieSt) : (s.setDie link back x).shd = s.shd := rfl
@[simp] theorem setDie_latched (link : Nat) (back : Bool) (x : DieSt) : (s.setDie link back x).latched = s.latched := rfl
@[simp] theorem setDie_held (link : Nat) (back : Bool) (x : DieSt) : (s.setDie link back x).held = s.held := rfl
@[simp] theorem setDie_hiveTime (link : Nat) (back : Bool) (x : DieSt) : (s.setDie link back x).hiveTime = s.hiveTime := rfl
@[simp] theorem setDie_timeRuns (link : Nat) (back : Bool) (x : DieSt) : (s.setDie link back x).timeRuns = s.timeRuns := rfl
@[simp] theorem setDie_superTime (link : Nat) (back : Bool) (x : DieSt) : (s.setDie link back x).superTime = s.superTime := rfl
@[simp] theorem setDie_loadWanted (link : Nat) (back : Bool) (x : DieSt) : (s.setDie link back x).loadWanted = s.loadWanted := rfl
@[simp] theorem setDie_turnAt (link : Nat) (back : Bool) (x : DieSt) : (s.setDie link back x).turnAt = s.turnAt := rfl
@[simp] theorem setDie_stopped (link : Nat) (back : Bool) (x : DieSt) : (s.setDie link back x).stopped = s.stopped := rfl
@[simp] theorem setDie_plls (link : Nat) (back : Bool) (x : DieSt) : (s.setDie link back x).plls = s.plls := rfl
@[simp] theorem setDie_pods (link : Nat) (back : Bool) (x : DieSt) : (s.setDie link back x).pods = s.pods := rfl
@[simp] theorem setDie_frames (link : Nat) (back : Bool) (x : DieSt) : (s.setDie link back x).frames = s.frames := rfl
@[simp] theorem setDie_scouts (link : Nat) (back : Bool) (x : DieSt) : (s.setDie link back x).scouts = s.scouts := rfl
@[simp] theorem setDie_seqs (link : Nat) (back : Bool) (x : DieSt) : (s.setDie link back x).seqs = s.seqs := rfl
@[simp] theorem setDie_take (link : Nat) (back : Bool) (x : DieSt) : (s.setDie link back x).take = s.take := rfl
@[simp] theorem setDie_streams (link : Nat) (back : Bool) (x : DieSt) : (s.setDie link back x).streams = s.streams := rfl
@[simp] theorem setDie_stores (link : Nat) (back : Bool) (x : DieSt) : (s.setDie link back x).stores = s.stores := rfl
@[simp] theorem setDie_ev (link : Nat) (back : Bool) (x : DieSt) : (s.setDie link back x).ev = s.ev := rfl
@[simp] theorem setDie_busMaster (link : Nat) (back : Bool) (x : DieSt) : (s.setDie link back x).busMaster = s.busMaster := rfl
@[simp] theorem setDie_trigIn (link : Nat) (back : Bool) (x : DieSt) : (s.setDie link back x).trigIn = s.trigIn := rfl
@[simp] theorem setDie_trigOut (link : Nat) (back : Bool) (x : DieSt) : (s.setDie link back x).trigOut = s.trigOut := rfl
@[simp] theorem setDie_sides (link : Nat) (back : Bool) (x : DieSt) : (s.setDie link back x).sides = s.sides := rfl
@[simp] theorem setDie_afLog (link : Nat) (back : Bool) (x : DieSt) : (s.setDie link back x).afLog = s.afLog := rfl
@[simp] theorem setDie_afQueue (link : Nat) (back : Bool) (x : DieSt) : (s.setDie link back x).afQueue = s.afQueue := rfl
@[simp] theorem setDie_queues (link : Nat) (back : Bool) (x : DieSt) : (s.setDie link back x).queues = s.queues := rfl
@[simp] theorem setDie_sram (link : Nat) (back : Bool) (x : DieSt) : (s.setDie link back x).sram = s.sram := rfl
@[simp] theorem setDie_srams (link : Nat) (back : Bool) (x : DieSt) : (s.setDie link back x).srams = s.srams := rfl
@[simp] theorem setDie_sramEpoch (link : Nat) (back : Bool) (x : DieSt) : (s.setDie link back x).sramEpoch = s.sramEpoch := rfl
@[simp] theorem setDie_dram (link : Nat) (back : Bool) (x : DieSt) : (s.setDie link back x).dram = s.dram := rfl
@[simp] theorem setDie_chans (link : Nat) (back : Bool) (x : DieSt) : (s.setDie link back x).chans = s.chans := rfl
@[simp] theorem setDie_dramEpoch (link : Nat) (back : Bool) (x : DieSt) : (s.setDie link back x).dramEpoch = s.dramEpoch := rfl
@[simp] theorem setDie_host (link : Nat) (back : Bool) (x : DieSt) : (s.setDie link back x).host = s.host := rfl
@[simp] theorem setDie_nbTolerance (link : Nat) (back : Bool) (x : DieSt) : (s.setDie link back x).nbTolerance = s.nbTolerance := rfl
@[simp] theorem setDie_ring (link : Nat) (back : Bool) (x : DieSt) : (s.setDie link back x).ring = s.ring := rfl
@[simp] theorem setDie_reeve (link : Nat) (back : Bool) (x : DieSt) : (s.setDie link back x).reeve = s.reeve := rfl
@[simp] theorem setDie_boot (link : Nat) (back : Bool) (x : DieSt) : (s.setDie link back x).boot = s.boot := rfl
@[simp] theorem setDie_dies (link : Nat) (back : Bool) (x : DieSt) :
    (s.setDie link back x).dies = sput (fun _ => DieSt.reset) s.dies (2 * link + flag back) x := rfl
@[simp] theorem setDie_ports (link : Nat) (back : Bool) (x : DieSt) : (s.setDie link back x).ports = s.ports := rfl
@[simp] theorem setDie_board (link : Nat) (back : Bool) (x : DieSt) : (s.setDie link back x).board = s.board := rfl
@[simp] theorem setDie_frees (link : Nat) (back : Bool) (x : DieSt) : (s.setDie link back x).frees = s.frees := rfl
@[simp] theorem setDie_out (link : Nat) (back : Bool) (x : DieSt) : (s.setDie link back x).out = s.out := rfl
@[simp] theorem setDie_pending (link : Nat) (back : Bool) (x : DieSt) : (s.setDie link back x).pending = s.pending := rfl

/-! ### blankSrams -/

@[simp] theorem blankSrams_fuse : (s.blankSrams).fuse = s.fuse := rfl
@[simp] theorem blankSrams_act : (s.blankSrams).act = s.act := rfl
@[simp] theorem blankSrams_shd : (s.blankSrams).shd = s.shd := rfl
@[simp] theorem blankSrams_latched : (s.blankSrams).latched = s.latched := rfl
@[simp] theorem blankSrams_held : (s.blankSrams).held = s.held := rfl
@[simp] theorem blankSrams_hiveTime : (s.blankSrams).hiveTime = s.hiveTime := rfl
@[simp] theorem blankSrams_timeRuns : (s.blankSrams).timeRuns = s.timeRuns := rfl
@[simp] theorem blankSrams_superTime : (s.blankSrams).superTime = s.superTime := rfl
@[simp] theorem blankSrams_loadWanted : (s.blankSrams).loadWanted = s.loadWanted := rfl
@[simp] theorem blankSrams_turnAt : (s.blankSrams).turnAt = s.turnAt := rfl
@[simp] theorem blankSrams_stopped : (s.blankSrams).stopped = s.stopped := rfl
@[simp] theorem blankSrams_plls : (s.blankSrams).plls = s.plls := rfl
@[simp] theorem blankSrams_pods : (s.blankSrams).pods = s.pods := rfl
@[simp] theorem blankSrams_frames : (s.blankSrams).frames = s.frames := rfl
@[simp] theorem blankSrams_scouts : (s.blankSrams).scouts = s.scouts := rfl
@[simp] theorem blankSrams_seqs : (s.blankSrams).seqs = s.seqs := rfl
@[simp] theorem blankSrams_take : (s.blankSrams).take = s.take := rfl
@[simp] theorem blankSrams_streams : (s.blankSrams).streams = s.streams := rfl
@[simp] theorem blankSrams_stores : (s.blankSrams).stores = s.stores := rfl
@[simp] theorem blankSrams_ev : (s.blankSrams).ev = s.ev := rfl
@[simp] theorem blankSrams_busMaster : (s.blankSrams).busMaster = s.busMaster := rfl
@[simp] theorem blankSrams_trigIn : (s.blankSrams).trigIn = s.trigIn := rfl
@[simp] theorem blankSrams_trigOut : (s.blankSrams).trigOut = s.trigOut := rfl
@[simp] theorem blankSrams_sides : (s.blankSrams).sides = s.sides := rfl
@[simp] theorem blankSrams_afLog : (s.blankSrams).afLog = s.afLog := rfl
@[simp] theorem blankSrams_afQueue : (s.blankSrams).afQueue = s.afQueue := rfl
@[simp] theorem blankSrams_queues : (s.blankSrams).queues = s.queues := rfl
@[simp] theorem blankSrams_sram : (s.blankSrams).sram = s.sram := rfl
@[simp] theorem blankSrams_sramEpoch : (s.blankSrams).sramEpoch = s.sramEpoch := rfl
@[simp] theorem blankSrams_dram : (s.blankSrams).dram = s.dram := rfl
@[simp] theorem blankSrams_chans : (s.blankSrams).chans = s.chans := rfl
@[simp] theorem blankSrams_dramEpoch : (s.blankSrams).dramEpoch = s.dramEpoch := rfl
@[simp] theorem blankSrams_host : (s.blankSrams).host = s.host := rfl
@[simp] theorem blankSrams_nbTolerance : (s.blankSrams).nbTolerance = s.nbTolerance := rfl
@[simp] theorem blankSrams_ring : (s.blankSrams).ring = s.ring := rfl
@[simp] theorem blankSrams_reeve : (s.blankSrams).reeve = s.reeve := rfl
@[simp] theorem blankSrams_boot : (s.blankSrams).boot = s.boot := rfl
@[simp] theorem blankSrams_dies : (s.blankSrams).dies = s.dies := rfl
@[simp] theorem blankSrams_ports : (s.blankSrams).ports = s.ports := rfl
@[simp] theorem blankSrams_board : (s.blankSrams).board = s.board := rfl
@[simp] theorem blankSrams_frees : (s.blankSrams).frees = s.frees := rfl
@[simp] theorem blankSrams_out : (s.blankSrams).out = s.out := rfl
@[simp] theorem blankSrams_pending : (s.blankSrams).pending = s.pending := rfl

/-! ### setSramByte -/

@[simp] theorem setSramByte_fuse (u off : Nat) (b : Byte) : (s.setSramByte u off b).fuse = s.fuse := rfl
@[simp] theorem setSramByte_act (u off : Nat) (b : Byte) : (s.setSramByte u off b).act = s.act := rfl
@[simp] theorem setSramByte_shd (u off : Nat) (b : Byte) : (s.setSramByte u off b).shd = s.shd := rfl
@[simp] theorem setSramByte_latched (u off : Nat) (b : Byte) : (s.setSramByte u off b).latched = s.latched := rfl
@[simp] theorem setSramByte_held (u off : Nat) (b : Byte) : (s.setSramByte u off b).held = s.held := rfl
@[simp] theorem setSramByte_hiveTime (u off : Nat) (b : Byte) : (s.setSramByte u off b).hiveTime = s.hiveTime := rfl
@[simp] theorem setSramByte_timeRuns (u off : Nat) (b : Byte) : (s.setSramByte u off b).timeRuns = s.timeRuns := rfl
@[simp] theorem setSramByte_superTime (u off : Nat) (b : Byte) : (s.setSramByte u off b).superTime = s.superTime := rfl
@[simp] theorem setSramByte_loadWanted (u off : Nat) (b : Byte) : (s.setSramByte u off b).loadWanted = s.loadWanted := rfl
@[simp] theorem setSramByte_turnAt (u off : Nat) (b : Byte) : (s.setSramByte u off b).turnAt = s.turnAt := rfl
@[simp] theorem setSramByte_stopped (u off : Nat) (b : Byte) : (s.setSramByte u off b).stopped = s.stopped := rfl
@[simp] theorem setSramByte_plls (u off : Nat) (b : Byte) : (s.setSramByte u off b).plls = s.plls := rfl
@[simp] theorem setSramByte_pods (u off : Nat) (b : Byte) : (s.setSramByte u off b).pods = s.pods := rfl
@[simp] theorem setSramByte_frames (u off : Nat) (b : Byte) : (s.setSramByte u off b).frames = s.frames := rfl
@[simp] theorem setSramByte_scouts (u off : Nat) (b : Byte) : (s.setSramByte u off b).scouts = s.scouts := rfl
@[simp] theorem setSramByte_seqs (u off : Nat) (b : Byte) : (s.setSramByte u off b).seqs = s.seqs := rfl
@[simp] theorem setSramByte_take (u off : Nat) (b : Byte) : (s.setSramByte u off b).take = s.take := rfl
@[simp] theorem setSramByte_streams (u off : Nat) (b : Byte) : (s.setSramByte u off b).streams = s.streams := rfl
@[simp] theorem setSramByte_stores (u off : Nat) (b : Byte) : (s.setSramByte u off b).stores = s.stores := rfl
@[simp] theorem setSramByte_ev (u off : Nat) (b : Byte) : (s.setSramByte u off b).ev = s.ev := rfl
@[simp] theorem setSramByte_busMaster (u off : Nat) (b : Byte) : (s.setSramByte u off b).busMaster = s.busMaster := rfl
@[simp] theorem setSramByte_trigIn (u off : Nat) (b : Byte) : (s.setSramByte u off b).trigIn = s.trigIn := rfl
@[simp] theorem setSramByte_trigOut (u off : Nat) (b : Byte) : (s.setSramByte u off b).trigOut = s.trigOut := rfl
@[simp] theorem setSramByte_sides (u off : Nat) (b : Byte) : (s.setSramByte u off b).sides = s.sides := rfl
@[simp] theorem setSramByte_afLog (u off : Nat) (b : Byte) : (s.setSramByte u off b).afLog = s.afLog := rfl
@[simp] theorem setSramByte_afQueue (u off : Nat) (b : Byte) : (s.setSramByte u off b).afQueue = s.afQueue := rfl
@[simp] theorem setSramByte_queues (u off : Nat) (b : Byte) : (s.setSramByte u off b).queues = s.queues := rfl
@[simp] theorem setSramByte_srams (u off : Nat) (b : Byte) : (s.setSramByte u off b).srams = s.srams := rfl
@[simp] theorem setSramByte_sramEpoch (u off : Nat) (b : Byte) : (s.setSramByte u off b).sramEpoch = s.sramEpoch := rfl
@[simp] theorem setSramByte_dram (u off : Nat) (b : Byte) : (s.setSramByte u off b).dram = s.dram := rfl
@[simp] theorem setSramByte_chans (u off : Nat) (b : Byte) : (s.setSramByte u off b).chans = s.chans := rfl
@[simp] theorem setSramByte_dramEpoch (u off : Nat) (b : Byte) : (s.setSramByte u off b).dramEpoch = s.dramEpoch := rfl
@[simp] theorem setSramByte_host (u off : Nat) (b : Byte) : (s.setSramByte u off b).host = s.host := rfl
@[simp] theorem setSramByte_nbTolerance (u off : Nat) (b : Byte) : (s.setSramByte u off b).nbTolerance = s.nbTolerance := rfl
@[simp] theorem setSramByte_ring (u off : Nat) (b : Byte) : (s.setSramByte u off b).ring = s.ring := rfl
@[simp] theorem setSramByte_reeve (u off : Nat) (b : Byte) : (s.setSramByte u off b).reeve = s.reeve := rfl
@[simp] theorem setSramByte_boot (u off : Nat) (b : Byte) : (s.setSramByte u off b).boot = s.boot := rfl
@[simp] theorem setSramByte_dies (u off : Nat) (b : Byte) : (s.setSramByte u off b).dies = s.dies := rfl
@[simp] theorem setSramByte_ports (u off : Nat) (b : Byte) : (s.setSramByte u off b).ports = s.ports := rfl
@[simp] theorem setSramByte_board (u off : Nat) (b : Byte) : (s.setSramByte u off b).board = s.board := rfl
@[simp] theorem setSramByte_frees (u off : Nat) (b : Byte) : (s.setSramByte u off b).frees = s.frees := rfl
@[simp] theorem setSramByte_out (u off : Nat) (b : Byte) : (s.setSramByte u off b).out = s.out := rfl
@[simp] theorem setSramByte_pending (u off : Nat) (b : Byte) : (s.setSramByte u off b).pending = s.pending := rfl

/-! ### clearSram -/

@[simp] theorem clearSram_fuse (q : Nat → Bool) : (s.clearSram q).fuse = s.fuse := rfl
@[simp] theorem clearSram_act (q : Nat → Bool) : (s.clearSram q).act = s.act := rfl
@[simp] theorem clearSram_shd (q : Nat → Bool) : (s.clearSram q).shd = s.shd := rfl
@[simp] theorem clearSram_latched (q : Nat → Bool) : (s.clearSram q).latched = s.latched := rfl
@[simp] theorem clearSram_held (q : Nat → Bool) : (s.clearSram q).held = s.held := rfl
@[simp] theorem clearSram_hiveTime (q : Nat → Bool) : (s.clearSram q).hiveTime = s.hiveTime := rfl
@[simp] theorem clearSram_timeRuns (q : Nat → Bool) : (s.clearSram q).timeRuns = s.timeRuns := rfl
@[simp] theorem clearSram_superTime (q : Nat → Bool) : (s.clearSram q).superTime = s.superTime := rfl
@[simp] theorem clearSram_loadWanted (q : Nat → Bool) : (s.clearSram q).loadWanted = s.loadWanted := rfl
@[simp] theorem clearSram_turnAt (q : Nat → Bool) : (s.clearSram q).turnAt = s.turnAt := rfl
@[simp] theorem clearSram_stopped (q : Nat → Bool) : (s.clearSram q).stopped = s.stopped := rfl
@[simp] theorem clearSram_plls (q : Nat → Bool) : (s.clearSram q).plls = s.plls := rfl
@[simp] theorem clearSram_pods (q : Nat → Bool) : (s.clearSram q).pods = s.pods := rfl
@[simp] theorem clearSram_frames (q : Nat → Bool) : (s.clearSram q).frames = s.frames := rfl
@[simp] theorem clearSram_scouts (q : Nat → Bool) : (s.clearSram q).scouts = s.scouts := rfl
@[simp] theorem clearSram_seqs (q : Nat → Bool) : (s.clearSram q).seqs = s.seqs := rfl
@[simp] theorem clearSram_take (q : Nat → Bool) : (s.clearSram q).take = s.take := rfl
@[simp] theorem clearSram_streams (q : Nat → Bool) : (s.clearSram q).streams = s.streams := rfl
@[simp] theorem clearSram_stores (q : Nat → Bool) : (s.clearSram q).stores = s.stores := rfl
@[simp] theorem clearSram_ev (q : Nat → Bool) : (s.clearSram q).ev = s.ev := rfl
@[simp] theorem clearSram_busMaster (q : Nat → Bool) : (s.clearSram q).busMaster = s.busMaster := rfl
@[simp] theorem clearSram_trigIn (q : Nat → Bool) : (s.clearSram q).trigIn = s.trigIn := rfl
@[simp] theorem clearSram_trigOut (q : Nat → Bool) : (s.clearSram q).trigOut = s.trigOut := rfl
@[simp] theorem clearSram_sides (q : Nat → Bool) : (s.clearSram q).sides = s.sides := rfl
@[simp] theorem clearSram_afLog (q : Nat → Bool) : (s.clearSram q).afLog = s.afLog := rfl
@[simp] theorem clearSram_afQueue (q : Nat → Bool) : (s.clearSram q).afQueue = s.afQueue := rfl
@[simp] theorem clearSram_queues (q : Nat → Bool) : (s.clearSram q).queues = s.queues := rfl
@[simp] theorem clearSram_srams (q : Nat → Bool) : (s.clearSram q).srams = s.srams := rfl
@[simp] theorem clearSram_sramEpoch (q : Nat → Bool) : (s.clearSram q).sramEpoch = s.sramEpoch := rfl
@[simp] theorem clearSram_dram (q : Nat → Bool) : (s.clearSram q).dram = s.dram := rfl
@[simp] theorem clearSram_chans (q : Nat → Bool) : (s.clearSram q).chans = s.chans := rfl
@[simp] theorem clearSram_dramEpoch (q : Nat → Bool) : (s.clearSram q).dramEpoch = s.dramEpoch := rfl
@[simp] theorem clearSram_host (q : Nat → Bool) : (s.clearSram q).host = s.host := rfl
@[simp] theorem clearSram_nbTolerance (q : Nat → Bool) : (s.clearSram q).nbTolerance = s.nbTolerance := rfl
@[simp] theorem clearSram_ring (q : Nat → Bool) : (s.clearSram q).ring = s.ring := rfl
@[simp] theorem clearSram_reeve (q : Nat → Bool) : (s.clearSram q).reeve = s.reeve := rfl
@[simp] theorem clearSram_boot (q : Nat → Bool) : (s.clearSram q).boot = s.boot := rfl
@[simp] theorem clearSram_dies (q : Nat → Bool) : (s.clearSram q).dies = s.dies := rfl
@[simp] theorem clearSram_ports (q : Nat → Bool) : (s.clearSram q).ports = s.ports := rfl
@[simp] theorem clearSram_board (q : Nat → Bool) : (s.clearSram q).board = s.board := rfl
@[simp] theorem clearSram_frees (q : Nat → Bool) : (s.clearSram q).frees = s.frees := rfl
@[simp] theorem clearSram_out (q : Nat → Bool) : (s.clearSram q).out = s.out := rfl
@[simp] theorem clearSram_pending (q : Nat → Bool) : (s.clearSram q).pending = s.pending := rfl

/-! ### renewSram -/

@[simp] theorem renewSram_fuse (u n : Nat) : (s.renewSram u n).fuse = s.fuse := rfl
@[simp] theorem renewSram_act (u n : Nat) : (s.renewSram u n).act = s.act := rfl
@[simp] theorem renewSram_shd (u n : Nat) : (s.renewSram u n).shd = s.shd := rfl
@[simp] theorem renewSram_latched (u n : Nat) : (s.renewSram u n).latched = s.latched := rfl
@[simp] theorem renewSram_held (u n : Nat) : (s.renewSram u n).held = s.held := rfl
@[simp] theorem renewSram_hiveTime (u n : Nat) : (s.renewSram u n).hiveTime = s.hiveTime := rfl
@[simp] theorem renewSram_timeRuns (u n : Nat) : (s.renewSram u n).timeRuns = s.timeRuns := rfl
@[simp] theorem renewSram_superTime (u n : Nat) : (s.renewSram u n).superTime = s.superTime := rfl
@[simp] theorem renewSram_loadWanted (u n : Nat) : (s.renewSram u n).loadWanted = s.loadWanted := rfl
@[simp] theorem renewSram_turnAt (u n : Nat) : (s.renewSram u n).turnAt = s.turnAt := rfl
@[simp] theorem renewSram_stopped (u n : Nat) : (s.renewSram u n).stopped = s.stopped := rfl
@[simp] theorem renewSram_plls (u n : Nat) : (s.renewSram u n).plls = s.plls := rfl
@[simp] theorem renewSram_pods (u n : Nat) : (s.renewSram u n).pods = s.pods := rfl
@[simp] theorem renewSram_frames (u n : Nat) : (s.renewSram u n).frames = s.frames := rfl
@[simp] theorem renewSram_scouts (u n : Nat) : (s.renewSram u n).scouts = s.scouts := rfl
@[simp] theorem renewSram_seqs (u n : Nat) : (s.renewSram u n).seqs = s.seqs := rfl
@[simp] theorem renewSram_take (u n : Nat) : (s.renewSram u n).take = s.take := rfl
@[simp] theorem renewSram_streams (u n : Nat) : (s.renewSram u n).streams = s.streams := rfl
@[simp] theorem renewSram_stores (u n : Nat) : (s.renewSram u n).stores = s.stores := rfl
@[simp] theorem renewSram_ev (u n : Nat) : (s.renewSram u n).ev = s.ev := rfl
@[simp] theorem renewSram_busMaster (u n : Nat) : (s.renewSram u n).busMaster = s.busMaster := rfl
@[simp] theorem renewSram_trigIn (u n : Nat) : (s.renewSram u n).trigIn = s.trigIn := rfl
@[simp] theorem renewSram_trigOut (u n : Nat) : (s.renewSram u n).trigOut = s.trigOut := rfl
@[simp] theorem renewSram_sides (u n : Nat) : (s.renewSram u n).sides = s.sides := rfl
@[simp] theorem renewSram_afLog (u n : Nat) : (s.renewSram u n).afLog = s.afLog := rfl
@[simp] theorem renewSram_afQueue (u n : Nat) : (s.renewSram u n).afQueue = s.afQueue := rfl
@[simp] theorem renewSram_queues (u n : Nat) : (s.renewSram u n).queues = s.queues := rfl
@[simp] theorem renewSram_srams (u n : Nat) : (s.renewSram u n).srams = s.srams := rfl
@[simp] theorem renewSram_dram (u n : Nat) : (s.renewSram u n).dram = s.dram := rfl
@[simp] theorem renewSram_chans (u n : Nat) : (s.renewSram u n).chans = s.chans := rfl
@[simp] theorem renewSram_dramEpoch (u n : Nat) : (s.renewSram u n).dramEpoch = s.dramEpoch := rfl
@[simp] theorem renewSram_host (u n : Nat) : (s.renewSram u n).host = s.host := rfl
@[simp] theorem renewSram_nbTolerance (u n : Nat) : (s.renewSram u n).nbTolerance = s.nbTolerance := rfl
@[simp] theorem renewSram_ring (u n : Nat) : (s.renewSram u n).ring = s.ring := rfl
@[simp] theorem renewSram_reeve (u n : Nat) : (s.renewSram u n).reeve = s.reeve := rfl
@[simp] theorem renewSram_boot (u n : Nat) : (s.renewSram u n).boot = s.boot := rfl
@[simp] theorem renewSram_dies (u n : Nat) : (s.renewSram u n).dies = s.dies := rfl
@[simp] theorem renewSram_ports (u n : Nat) : (s.renewSram u n).ports = s.ports := rfl
@[simp] theorem renewSram_board (u n : Nat) : (s.renewSram u n).board = s.board := rfl
@[simp] theorem renewSram_frees (u n : Nat) : (s.renewSram u n).frees = s.frees := rfl
@[simp] theorem renewSram_out (u n : Nat) : (s.renewSram u n).out = s.out := rfl
@[simp] theorem renewSram_pending (u n : Nat) : (s.renewSram u n).pending = s.pending := rfl

/-! ### setDramStored -/

@[simp] theorem setDramStored_fuse (u k sub off : Nat) (b : Byte) : (s.setDramStored u k sub off b).fuse = s.fuse := rfl
@[simp] theorem setDramStored_act (u k sub off : Nat) (b : Byte) : (s.setDramStored u k sub off b).act = s.act := rfl
@[simp] theorem setDramStored_shd (u k sub off : Nat) (b : Byte) : (s.setDramStored u k sub off b).shd = s.shd := rfl
@[simp] theorem setDramStored_latched (u k sub off : Nat) (b : Byte) : (s.setDramStored u k sub off b).latched = s.latched := rfl
@[simp] theorem setDramStored_held (u k sub off : Nat) (b : Byte) : (s.setDramStored u k sub off b).held = s.held := rfl
@[simp] theorem setDramStored_hiveTime (u k sub off : Nat) (b : Byte) : (s.setDramStored u k sub off b).hiveTime = s.hiveTime := rfl
@[simp] theorem setDramStored_timeRuns (u k sub off : Nat) (b : Byte) : (s.setDramStored u k sub off b).timeRuns = s.timeRuns := rfl
@[simp] theorem setDramStored_superTime (u k sub off : Nat) (b : Byte) : (s.setDramStored u k sub off b).superTime = s.superTime := rfl
@[simp] theorem setDramStored_loadWanted (u k sub off : Nat) (b : Byte) : (s.setDramStored u k sub off b).loadWanted = s.loadWanted := rfl
@[simp] theorem setDramStored_turnAt (u k sub off : Nat) (b : Byte) : (s.setDramStored u k sub off b).turnAt = s.turnAt := rfl
@[simp] theorem setDramStored_stopped (u k sub off : Nat) (b : Byte) : (s.setDramStored u k sub off b).stopped = s.stopped := rfl
@[simp] theorem setDramStored_plls (u k sub off : Nat) (b : Byte) : (s.setDramStored u k sub off b).plls = s.plls := rfl
@[simp] theorem setDramStored_pods (u k sub off : Nat) (b : Byte) : (s.setDramStored u k sub off b).pods = s.pods := rfl
@[simp] theorem setDramStored_frames (u k sub off : Nat) (b : Byte) : (s.setDramStored u k sub off b).frames = s.frames := rfl
@[simp] theorem setDramStored_scouts (u k sub off : Nat) (b : Byte) : (s.setDramStored u k sub off b).scouts = s.scouts := rfl
@[simp] theorem setDramStored_seqs (u k sub off : Nat) (b : Byte) : (s.setDramStored u k sub off b).seqs = s.seqs := rfl
@[simp] theorem setDramStored_take (u k sub off : Nat) (b : Byte) : (s.setDramStored u k sub off b).take = s.take := rfl
@[simp] theorem setDramStored_streams (u k sub off : Nat) (b : Byte) : (s.setDramStored u k sub off b).streams = s.streams := rfl
@[simp] theorem setDramStored_stores (u k sub off : Nat) (b : Byte) : (s.setDramStored u k sub off b).stores = s.stores := rfl
@[simp] theorem setDramStored_ev (u k sub off : Nat) (b : Byte) : (s.setDramStored u k sub off b).ev = s.ev := rfl
@[simp] theorem setDramStored_busMaster (u k sub off : Nat) (b : Byte) : (s.setDramStored u k sub off b).busMaster = s.busMaster := rfl
@[simp] theorem setDramStored_trigIn (u k sub off : Nat) (b : Byte) : (s.setDramStored u k sub off b).trigIn = s.trigIn := rfl
@[simp] theorem setDramStored_trigOut (u k sub off : Nat) (b : Byte) : (s.setDramStored u k sub off b).trigOut = s.trigOut := rfl
@[simp] theorem setDramStored_sides (u k sub off : Nat) (b : Byte) : (s.setDramStored u k sub off b).sides = s.sides := rfl
@[simp] theorem setDramStored_afLog (u k sub off : Nat) (b : Byte) : (s.setDramStored u k sub off b).afLog = s.afLog := rfl
@[simp] theorem setDramStored_afQueue (u k sub off : Nat) (b : Byte) : (s.setDramStored u k sub off b).afQueue = s.afQueue := rfl
@[simp] theorem setDramStored_queues (u k sub off : Nat) (b : Byte) : (s.setDramStored u k sub off b).queues = s.queues := rfl
@[simp] theorem setDramStored_sram (u k sub off : Nat) (b : Byte) : (s.setDramStored u k sub off b).sram = s.sram := rfl
@[simp] theorem setDramStored_srams (u k sub off : Nat) (b : Byte) : (s.setDramStored u k sub off b).srams = s.srams := rfl
@[simp] theorem setDramStored_sramEpoch (u k sub off : Nat) (b : Byte) : (s.setDramStored u k sub off b).sramEpoch = s.sramEpoch := rfl
@[simp] theorem setDramStored_chans (u k sub off : Nat) (b : Byte) : (s.setDramStored u k sub off b).chans = s.chans := rfl
@[simp] theorem setDramStored_dramEpoch (u k sub off : Nat) (b : Byte) : (s.setDramStored u k sub off b).dramEpoch = s.dramEpoch := rfl
@[simp] theorem setDramStored_host (u k sub off : Nat) (b : Byte) : (s.setDramStored u k sub off b).host = s.host := rfl
@[simp] theorem setDramStored_nbTolerance (u k sub off : Nat) (b : Byte) : (s.setDramStored u k sub off b).nbTolerance = s.nbTolerance := rfl
@[simp] theorem setDramStored_ring (u k sub off : Nat) (b : Byte) : (s.setDramStored u k sub off b).ring = s.ring := rfl
@[simp] theorem setDramStored_reeve (u k sub off : Nat) (b : Byte) : (s.setDramStored u k sub off b).reeve = s.reeve := rfl
@[simp] theorem setDramStored_boot (u k sub off : Nat) (b : Byte) : (s.setDramStored u k sub off b).boot = s.boot := rfl
@[simp] theorem setDramStored_dies (u k sub off : Nat) (b : Byte) : (s.setDramStored u k sub off b).dies = s.dies := rfl
@[simp] theorem setDramStored_ports (u k sub off : Nat) (b : Byte) : (s.setDramStored u k sub off b).ports = s.ports := rfl
@[simp] theorem setDramStored_board (u k sub off : Nat) (b : Byte) : (s.setDramStored u k sub off b).board = s.board := rfl
@[simp] theorem setDramStored_frees (u k sub off : Nat) (b : Byte) : (s.setDramStored u k sub off b).frees = s.frees := rfl
@[simp] theorem setDramStored_out (u k sub off : Nat) (b : Byte) : (s.setDramStored u k sub off b).out = s.out := rfl
@[simp] theorem setDramStored_pending (u k sub off : Nat) (b : Byte) : (s.setDramStored u k sub off b).pending = s.pending := rfl

/-! ### renewDram -/

@[simp] theorem renewDram_fuse (u k n : Nat) : (s.renewDram u k n).fuse = s.fuse := rfl
@[simp] theorem renewDram_act (u k n : Nat) : (s.renewDram u k n).act = s.act := rfl
@[simp] theorem renewDram_shd (u k n : Nat) : (s.renewDram u k n).shd = s.shd := rfl
@[simp] theorem renewDram_latched (u k n : Nat) : (s.renewDram u k n).latched = s.latched := rfl
@[simp] theorem renewDram_held (u k n : Nat) : (s.renewDram u k n).held = s.held := rfl
@[simp] theorem renewDram_hiveTime (u k n : Nat) : (s.renewDram u k n).hiveTime = s.hiveTime := rfl
@[simp] theorem renewDram_timeRuns (u k n : Nat) : (s.renewDram u k n).timeRuns = s.timeRuns := rfl
@[simp] theorem renewDram_superTime (u k n : Nat) : (s.renewDram u k n).superTime = s.superTime := rfl
@[simp] theorem renewDram_loadWanted (u k n : Nat) : (s.renewDram u k n).loadWanted = s.loadWanted := rfl
@[simp] theorem renewDram_turnAt (u k n : Nat) : (s.renewDram u k n).turnAt = s.turnAt := rfl
@[simp] theorem renewDram_stopped (u k n : Nat) : (s.renewDram u k n).stopped = s.stopped := rfl
@[simp] theorem renewDram_plls (u k n : Nat) : (s.renewDram u k n).plls = s.plls := rfl
@[simp] theorem renewDram_pods (u k n : Nat) : (s.renewDram u k n).pods = s.pods := rfl
@[simp] theorem renewDram_frames (u k n : Nat) : (s.renewDram u k n).frames = s.frames := rfl
@[simp] theorem renewDram_scouts (u k n : Nat) : (s.renewDram u k n).scouts = s.scouts := rfl
@[simp] theorem renewDram_seqs (u k n : Nat) : (s.renewDram u k n).seqs = s.seqs := rfl
@[simp] theorem renewDram_take (u k n : Nat) : (s.renewDram u k n).take = s.take := rfl
@[simp] theorem renewDram_streams (u k n : Nat) : (s.renewDram u k n).streams = s.streams := rfl
@[simp] theorem renewDram_stores (u k n : Nat) : (s.renewDram u k n).stores = s.stores := rfl
@[simp] theorem renewDram_ev (u k n : Nat) : (s.renewDram u k n).ev = s.ev := rfl
@[simp] theorem renewDram_busMaster (u k n : Nat) : (s.renewDram u k n).busMaster = s.busMaster := rfl
@[simp] theorem renewDram_trigIn (u k n : Nat) : (s.renewDram u k n).trigIn = s.trigIn := rfl
@[simp] theorem renewDram_trigOut (u k n : Nat) : (s.renewDram u k n).trigOut = s.trigOut := rfl
@[simp] theorem renewDram_sides (u k n : Nat) : (s.renewDram u k n).sides = s.sides := rfl
@[simp] theorem renewDram_afLog (u k n : Nat) : (s.renewDram u k n).afLog = s.afLog := rfl
@[simp] theorem renewDram_afQueue (u k n : Nat) : (s.renewDram u k n).afQueue = s.afQueue := rfl
@[simp] theorem renewDram_queues (u k n : Nat) : (s.renewDram u k n).queues = s.queues := rfl
@[simp] theorem renewDram_sram (u k n : Nat) : (s.renewDram u k n).sram = s.sram := rfl
@[simp] theorem renewDram_srams (u k n : Nat) : (s.renewDram u k n).srams = s.srams := rfl
@[simp] theorem renewDram_sramEpoch (u k n : Nat) : (s.renewDram u k n).sramEpoch = s.sramEpoch := rfl
@[simp] theorem renewDram_chans (u k n : Nat) : (s.renewDram u k n).chans = s.chans := rfl
@[simp] theorem renewDram_host (u k n : Nat) : (s.renewDram u k n).host = s.host := rfl
@[simp] theorem renewDram_nbTolerance (u k n : Nat) : (s.renewDram u k n).nbTolerance = s.nbTolerance := rfl
@[simp] theorem renewDram_ring (u k n : Nat) : (s.renewDram u k n).ring = s.ring := rfl
@[simp] theorem renewDram_reeve (u k n : Nat) : (s.renewDram u k n).reeve = s.reeve := rfl
@[simp] theorem renewDram_boot (u k n : Nat) : (s.renewDram u k n).boot = s.boot := rfl
@[simp] theorem renewDram_dies (u k n : Nat) : (s.renewDram u k n).dies = s.dies := rfl
@[simp] theorem renewDram_ports (u k n : Nat) : (s.renewDram u k n).ports = s.ports := rfl
@[simp] theorem renewDram_board (u k n : Nat) : (s.renewDram u k n).board = s.board := rfl
@[simp] theorem renewDram_frees (u k n : Nat) : (s.renewDram u k n).frees = s.frees := rfl
@[simp] theorem renewDram_out (u k n : Nat) : (s.renewDram u k n).out = s.out := rfl
@[simp] theorem renewDram_pending (u k n : Nat) : (s.renewDram u k n).pending = s.pending := rfl

/-! ### setTimeOf -/

@[simp] theorem setTimeOf_fuse (u t : Nat) : (s.setTimeOf u t).fuse = s.fuse := rfl
@[simp] theorem setTimeOf_act (u t : Nat) : (s.setTimeOf u t).act = s.act := rfl
@[simp] theorem setTimeOf_shd (u t : Nat) : (s.setTimeOf u t).shd = s.shd := rfl
@[simp] theorem setTimeOf_latched (u t : Nat) : (s.setTimeOf u t).latched = s.latched := rfl
@[simp] theorem setTimeOf_held (u t : Nat) : (s.setTimeOf u t).held = s.held := rfl
@[simp] theorem setTimeOf_hiveTime (u t : Nat) : (s.setTimeOf u t).hiveTime = s.hiveTime := rfl
@[simp] theorem setTimeOf_timeRuns (u t : Nat) : (s.setTimeOf u t).timeRuns = s.timeRuns := rfl
@[simp] theorem setTimeOf_loadWanted (u t : Nat) : (s.setTimeOf u t).loadWanted = s.loadWanted := rfl
@[simp] theorem setTimeOf_turnAt (u t : Nat) : (s.setTimeOf u t).turnAt = s.turnAt := rfl
@[simp] theorem setTimeOf_stopped (u t : Nat) : (s.setTimeOf u t).stopped = s.stopped := rfl
@[simp] theorem setTimeOf_plls (u t : Nat) : (s.setTimeOf u t).plls = s.plls := rfl
@[simp] theorem setTimeOf_pods (u t : Nat) : (s.setTimeOf u t).pods = s.pods := rfl
@[simp] theorem setTimeOf_frames (u t : Nat) : (s.setTimeOf u t).frames = s.frames := rfl
@[simp] theorem setTimeOf_scouts (u t : Nat) : (s.setTimeOf u t).scouts = s.scouts := rfl
@[simp] theorem setTimeOf_seqs (u t : Nat) : (s.setTimeOf u t).seqs = s.seqs := rfl
@[simp] theorem setTimeOf_take (u t : Nat) : (s.setTimeOf u t).take = s.take := rfl
@[simp] theorem setTimeOf_streams (u t : Nat) : (s.setTimeOf u t).streams = s.streams := rfl
@[simp] theorem setTimeOf_stores (u t : Nat) : (s.setTimeOf u t).stores = s.stores := rfl
@[simp] theorem setTimeOf_ev (u t : Nat) : (s.setTimeOf u t).ev = s.ev := rfl
@[simp] theorem setTimeOf_busMaster (u t : Nat) : (s.setTimeOf u t).busMaster = s.busMaster := rfl
@[simp] theorem setTimeOf_trigIn (u t : Nat) : (s.setTimeOf u t).trigIn = s.trigIn := rfl
@[simp] theorem setTimeOf_trigOut (u t : Nat) : (s.setTimeOf u t).trigOut = s.trigOut := rfl
@[simp] theorem setTimeOf_sides (u t : Nat) : (s.setTimeOf u t).sides = s.sides := rfl
@[simp] theorem setTimeOf_afLog (u t : Nat) : (s.setTimeOf u t).afLog = s.afLog := rfl
@[simp] theorem setTimeOf_afQueue (u t : Nat) : (s.setTimeOf u t).afQueue = s.afQueue := rfl
@[simp] theorem setTimeOf_queues (u t : Nat) : (s.setTimeOf u t).queues = s.queues := rfl
@[simp] theorem setTimeOf_sram (u t : Nat) : (s.setTimeOf u t).sram = s.sram := rfl
@[simp] theorem setTimeOf_srams (u t : Nat) : (s.setTimeOf u t).srams = s.srams := rfl
@[simp] theorem setTimeOf_sramEpoch (u t : Nat) : (s.setTimeOf u t).sramEpoch = s.sramEpoch := rfl
@[simp] theorem setTimeOf_dram (u t : Nat) : (s.setTimeOf u t).dram = s.dram := rfl
@[simp] theorem setTimeOf_chans (u t : Nat) : (s.setTimeOf u t).chans = s.chans := rfl
@[simp] theorem setTimeOf_dramEpoch (u t : Nat) : (s.setTimeOf u t).dramEpoch = s.dramEpoch := rfl
@[simp] theorem setTimeOf_host (u t : Nat) : (s.setTimeOf u t).host = s.host := rfl
@[simp] theorem setTimeOf_nbTolerance (u t : Nat) : (s.setTimeOf u t).nbTolerance = s.nbTolerance := rfl
@[simp] theorem setTimeOf_ring (u t : Nat) : (s.setTimeOf u t).ring = s.ring := rfl
@[simp] theorem setTimeOf_reeve (u t : Nat) : (s.setTimeOf u t).reeve = s.reeve := rfl
@[simp] theorem setTimeOf_boot (u t : Nat) : (s.setTimeOf u t).boot = s.boot := rfl
@[simp] theorem setTimeOf_dies (u t : Nat) : (s.setTimeOf u t).dies = s.dies := rfl
@[simp] theorem setTimeOf_ports (u t : Nat) : (s.setTimeOf u t).ports = s.ports := rfl
@[simp] theorem setTimeOf_board (u t : Nat) : (s.setTimeOf u t).board = s.board := rfl
@[simp] theorem setTimeOf_frees (u t : Nat) : (s.setTimeOf u t).frees = s.frees := rfl
@[simp] theorem setTimeOf_out (u t : Nat) : (s.setTimeOf u t).out = s.out := rfl
@[simp] theorem setTimeOf_pending (u t : Nat) : (s.setTimeOf u t).pending = s.pending := rfl

/-! ### tick -/

@[simp] theorem tick_fuse (d : Nat) : (s.tick d).fuse = s.fuse := rfl
@[simp] theorem tick_act (d : Nat) : (s.tick d).act = s.act := rfl
@[simp] theorem tick_shd (d : Nat) : (s.tick d).shd = s.shd := rfl
@[simp] theorem tick_latched (d : Nat) : (s.tick d).latched = s.latched := rfl
@[simp] theorem tick_held (d : Nat) : (s.tick d).held = s.held := rfl
@[simp] theorem tick_timeRuns (d : Nat) : (s.tick d).timeRuns = s.timeRuns := rfl
@[simp] theorem tick_loadWanted (d : Nat) : (s.tick d).loadWanted = s.loadWanted := rfl
@[simp] theorem tick_turnAt (d : Nat) : (s.tick d).turnAt = s.turnAt := rfl
@[simp] theorem tick_stopped (d : Nat) : (s.tick d).stopped = s.stopped := rfl
@[simp] theorem tick_plls (d : Nat) : (s.tick d).plls = s.plls := rfl
@[simp] theorem tick_pods (d : Nat) : (s.tick d).pods = s.pods := rfl
@[simp] theorem tick_frames (d : Nat) : (s.tick d).frames = s.frames := rfl
@[simp] theorem tick_scouts (d : Nat) : (s.tick d).scouts = s.scouts := rfl
@[simp] theorem tick_seqs (d : Nat) : (s.tick d).seqs = s.seqs := rfl
@[simp] theorem tick_take (d : Nat) : (s.tick d).take = s.take := rfl
@[simp] theorem tick_streams (d : Nat) : (s.tick d).streams = s.streams := rfl
@[simp] theorem tick_stores (d : Nat) : (s.tick d).stores = s.stores := rfl
@[simp] theorem tick_ev (d : Nat) : (s.tick d).ev = s.ev := rfl
@[simp] theorem tick_busMaster (d : Nat) : (s.tick d).busMaster = s.busMaster := rfl
@[simp] theorem tick_trigIn (d : Nat) : (s.tick d).trigIn = s.trigIn := rfl
@[simp] theorem tick_trigOut (d : Nat) : (s.tick d).trigOut = s.trigOut := rfl
@[simp] theorem tick_sides (d : Nat) : (s.tick d).sides = s.sides := rfl
@[simp] theorem tick_afLog (d : Nat) : (s.tick d).afLog = s.afLog := rfl
@[simp] theorem tick_afQueue (d : Nat) : (s.tick d).afQueue = s.afQueue := rfl
@[simp] theorem tick_queues (d : Nat) : (s.tick d).queues = s.queues := rfl
@[simp] theorem tick_sram (d : Nat) : (s.tick d).sram = s.sram := rfl
@[simp] theorem tick_srams (d : Nat) : (s.tick d).srams = s.srams := rfl
@[simp] theorem tick_sramEpoch (d : Nat) : (s.tick d).sramEpoch = s.sramEpoch := rfl
@[simp] theorem tick_dram (d : Nat) : (s.tick d).dram = s.dram := rfl
@[simp] theorem tick_chans (d : Nat) : (s.tick d).chans = s.chans := rfl
@[simp] theorem tick_dramEpoch (d : Nat) : (s.tick d).dramEpoch = s.dramEpoch := rfl
@[simp] theorem tick_host (d : Nat) : (s.tick d).host = s.host := rfl
@[simp] theorem tick_nbTolerance (d : Nat) : (s.tick d).nbTolerance = s.nbTolerance := rfl
@[simp] theorem tick_ring (d : Nat) : (s.tick d).ring = s.ring := rfl
@[simp] theorem tick_reeve (d : Nat) : (s.tick d).reeve = s.reeve := rfl
@[simp] theorem tick_boot (d : Nat) : (s.tick d).boot = s.boot := rfl
@[simp] theorem tick_dies (d : Nat) : (s.tick d).dies = s.dies := rfl
@[simp] theorem tick_ports (d : Nat) : (s.tick d).ports = s.ports := rfl
@[simp] theorem tick_board (d : Nat) : (s.tick d).board = s.board := rfl
@[simp] theorem tick_frees (d : Nat) : (s.tick d).frees = s.frees := rfl
@[simp] theorem tick_out (d : Nat) : (s.tick d).out = s.out := rfl
@[simp] theorem tick_pending (d : Nat) : (s.tick d).pending = s.pending := rfl

/-! ### loadTime -/

@[simp] theorem loadTime_fuse (t : Nat) : (s.loadTime t).fuse = s.fuse := rfl
@[simp] theorem loadTime_act (t : Nat) : (s.loadTime t).act = s.act := rfl
@[simp] theorem loadTime_shd (t : Nat) : (s.loadTime t).shd = s.shd := rfl
@[simp] theorem loadTime_latched (t : Nat) : (s.loadTime t).latched = s.latched := rfl
@[simp] theorem loadTime_held (t : Nat) : (s.loadTime t).held = s.held := rfl
@[simp] theorem loadTime_timeRuns (t : Nat) : (s.loadTime t).timeRuns = s.timeRuns := rfl
@[simp] theorem loadTime_loadWanted (t : Nat) : (s.loadTime t).loadWanted = s.loadWanted := rfl
@[simp] theorem loadTime_turnAt (t : Nat) : (s.loadTime t).turnAt = s.turnAt := rfl
@[simp] theorem loadTime_stopped (t : Nat) : (s.loadTime t).stopped = s.stopped := rfl
@[simp] theorem loadTime_plls (t : Nat) : (s.loadTime t).plls = s.plls := rfl
@[simp] theorem loadTime_pods (t : Nat) : (s.loadTime t).pods = s.pods := rfl
@[simp] theorem loadTime_frames (t : Nat) : (s.loadTime t).frames = s.frames := rfl
@[simp] theorem loadTime_scouts (t : Nat) : (s.loadTime t).scouts = s.scouts := rfl
@[simp] theorem loadTime_seqs (t : Nat) : (s.loadTime t).seqs = s.seqs := rfl
@[simp] theorem loadTime_take (t : Nat) : (s.loadTime t).take = s.take := rfl
@[simp] theorem loadTime_streams (t : Nat) : (s.loadTime t).streams = s.streams := rfl
@[simp] theorem loadTime_stores (t : Nat) : (s.loadTime t).stores = s.stores := rfl
@[simp] theorem loadTime_ev (t : Nat) : (s.loadTime t).ev = s.ev := rfl
@[simp] theorem loadTime_busMaster (t : Nat) : (s.loadTime t).busMaster = s.busMaster := rfl
@[simp] theorem loadTime_trigIn (t : Nat) : (s.loadTime t).trigIn = s.trigIn := rfl
@[simp] theorem loadTime_trigOut (t : Nat) : (s.loadTime t).trigOut = s.trigOut := rfl
@[simp] theorem loadTime_sides (t : Nat) : (s.loadTime t).sides = s.sides := rfl
@[simp] theorem loadTime_afLog (t : Nat) : (s.loadTime t).afLog = s.afLog := rfl
@[simp] theorem loadTime_afQueue (t : Nat) : (s.loadTime t).afQueue = s.afQueue := rfl
@[simp] theorem loadTime_queues (t : Nat) : (s.loadTime t).queues = s.queues := rfl
@[simp] theorem loadTime_sram (t : Nat) : (s.loadTime t).sram = s.sram := rfl
@[simp] theorem loadTime_srams (t : Nat) : (s.loadTime t).srams = s.srams := rfl
@[simp] theorem loadTime_sramEpoch (t : Nat) : (s.loadTime t).sramEpoch = s.sramEpoch := rfl
@[simp] theorem loadTime_dram (t : Nat) : (s.loadTime t).dram = s.dram := rfl
@[simp] theorem loadTime_chans (t : Nat) : (s.loadTime t).chans = s.chans := rfl
@[simp] theorem loadTime_dramEpoch (t : Nat) : (s.loadTime t).dramEpoch = s.dramEpoch := rfl
@[simp] theorem loadTime_host (t : Nat) : (s.loadTime t).host = s.host := rfl
@[simp] theorem loadTime_nbTolerance (t : Nat) : (s.loadTime t).nbTolerance = s.nbTolerance := rfl
@[simp] theorem loadTime_ring (t : Nat) : (s.loadTime t).ring = s.ring := rfl
@[simp] theorem loadTime_reeve (t : Nat) : (s.loadTime t).reeve = s.reeve := rfl
@[simp] theorem loadTime_boot (t : Nat) : (s.loadTime t).boot = s.boot := rfl
@[simp] theorem loadTime_dies (t : Nat) : (s.loadTime t).dies = s.dies := rfl
@[simp] theorem loadTime_ports (t : Nat) : (s.loadTime t).ports = s.ports := rfl
@[simp] theorem loadTime_board (t : Nat) : (s.loadTime t).board = s.board := rfl
@[simp] theorem loadTime_frees (t : Nat) : (s.loadTime t).frees = s.frees := rfl
@[simp] theorem loadTime_out (t : Nat) : (s.loadTime t).out = s.out := rfl
@[simp] theorem loadTime_pending (t : Nat) : (s.loadTime t).pending = s.pending := rfl

/-! ### emit -/

@[simp] theorem emit_fuse (o : Out) : (s.emit o).fuse = s.fuse := rfl
@[simp] theorem emit_act (o : Out) : (s.emit o).act = s.act := rfl
@[simp] theorem emit_shd (o : Out) : (s.emit o).shd = s.shd := rfl
@[simp] theorem emit_latched (o : Out) : (s.emit o).latched = s.latched := rfl
@[simp] theorem emit_held (o : Out) : (s.emit o).held = s.held := rfl
@[simp] theorem emit_hiveTime (o : Out) : (s.emit o).hiveTime = s.hiveTime := rfl
@[simp] theorem emit_timeRuns (o : Out) : (s.emit o).timeRuns = s.timeRuns := rfl
@[simp] theorem emit_superTime (o : Out) : (s.emit o).superTime = s.superTime := rfl
@[simp] theorem emit_loadWanted (o : Out) : (s.emit o).loadWanted = s.loadWanted := rfl
@[simp] theorem emit_turnAt (o : Out) : (s.emit o).turnAt = s.turnAt := rfl
@[simp] theorem emit_stopped (o : Out) : (s.emit o).stopped = s.stopped := rfl
@[simp] theorem emit_plls (o : Out) : (s.emit o).plls = s.plls := rfl
@[simp] theorem emit_pods (o : Out) : (s.emit o).pods = s.pods := rfl
@[simp] theorem emit_frames (o : Out) : (s.emit o).frames = s.frames := rfl
@[simp] theorem emit_scouts (o : Out) : (s.emit o).scouts = s.scouts := rfl
@[simp] theorem emit_seqs (o : Out) : (s.emit o).seqs = s.seqs := rfl
@[simp] theorem emit_take (o : Out) : (s.emit o).take = s.take := rfl
@[simp] theorem emit_streams (o : Out) : (s.emit o).streams = s.streams := rfl
@[simp] theorem emit_stores (o : Out) : (s.emit o).stores = s.stores := rfl
@[simp] theorem emit_ev (o : Out) : (s.emit o).ev = s.ev := rfl
@[simp] theorem emit_busMaster (o : Out) : (s.emit o).busMaster = s.busMaster := rfl
@[simp] theorem emit_trigIn (o : Out) : (s.emit o).trigIn = s.trigIn := rfl
@[simp] theorem emit_trigOut (o : Out) : (s.emit o).trigOut = s.trigOut := rfl
@[simp] theorem emit_sides (o : Out) : (s.emit o).sides = s.sides := rfl
@[simp] theorem emit_afLog (o : Out) : (s.emit o).afLog = s.afLog := rfl
@[simp] theorem emit_afQueue (o : Out) : (s.emit o).afQueue = s.afQueue := rfl
@[simp] theorem emit_queues (o : Out) : (s.emit o).queues = s.queues := rfl
@[simp] theorem emit_sram (o : Out) : (s.emit o).sram = s.sram := rfl
@[simp] theorem emit_srams (o : Out) : (s.emit o).srams = s.srams := rfl
@[simp] theorem emit_sramEpoch (o : Out) : (s.emit o).sramEpoch = s.sramEpoch := rfl
@[simp] theorem emit_dram (o : Out) : (s.emit o).dram = s.dram := rfl
@[simp] theorem emit_chans (o : Out) : (s.emit o).chans = s.chans := rfl
@[simp] theorem emit_dramEpoch (o : Out) : (s.emit o).dramEpoch = s.dramEpoch := rfl
@[simp] theorem emit_host (o : Out) : (s.emit o).host = s.host := rfl
@[simp] theorem emit_nbTolerance (o : Out) : (s.emit o).nbTolerance = s.nbTolerance := rfl
@[simp] theorem emit_ring (o : Out) : (s.emit o).ring = s.ring := rfl
@[simp] theorem emit_reeve (o : Out) : (s.emit o).reeve = s.reeve := rfl
@[simp] theorem emit_boot (o : Out) : (s.emit o).boot = s.boot := rfl
@[simp] theorem emit_dies (o : Out) : (s.emit o).dies = s.dies := rfl
@[simp] theorem emit_ports (o : Out) : (s.emit o).ports = s.ports := rfl
@[simp] theorem emit_board (o : Out) : (s.emit o).board = s.board := rfl
@[simp] theorem emit_frees (o : Out) : (s.emit o).frees = s.frees := rfl
@[simp] theorem emit_out (o : Out) :
    (s.emit o).out = o :: s.out := rfl
@[simp] theorem emit_pending (o : Out) : (s.emit o).pending = s.pending := rfl

/-! ### drawFree -/

@[simp] theorem drawFree_fst : s.drawFree.1 = s.frees := rfl
@[simp] theorem drawFree_frees : s.drawFree.2.frees = s.frees + 1 := rfl
@[simp] theorem drawFree_fuse : s.drawFree.2.fuse = s.fuse := rfl
@[simp] theorem drawFree_act : s.drawFree.2.act = s.act := rfl
@[simp] theorem drawFree_shd : s.drawFree.2.shd = s.shd := rfl
@[simp] theorem drawFree_latched : s.drawFree.2.latched = s.latched := rfl
@[simp] theorem drawFree_held : s.drawFree.2.held = s.held := rfl
@[simp] theorem drawFree_hiveTime : s.drawFree.2.hiveTime = s.hiveTime := rfl
@[simp] theorem drawFree_timeRuns : s.drawFree.2.timeRuns = s.timeRuns := rfl
@[simp] theorem drawFree_superTime : s.drawFree.2.superTime = s.superTime := rfl
@[simp] theorem drawFree_loadWanted : s.drawFree.2.loadWanted = s.loadWanted := rfl
@[simp] theorem drawFree_turnAt : s.drawFree.2.turnAt = s.turnAt := rfl
@[simp] theorem drawFree_stopped : s.drawFree.2.stopped = s.stopped := rfl
@[simp] theorem drawFree_plls : s.drawFree.2.plls = s.plls := rfl
@[simp] theorem drawFree_pods : s.drawFree.2.pods = s.pods := rfl
@[simp] theorem drawFree_frames : s.drawFree.2.frames = s.frames := rfl
@[simp] theorem drawFree_scouts : s.drawFree.2.scouts = s.scouts := rfl
@[simp] theorem drawFree_seqs : s.drawFree.2.seqs = s.seqs := rfl
@[simp] theorem drawFree_take : s.drawFree.2.take = s.take := rfl
@[simp] theorem drawFree_streams : s.drawFree.2.streams = s.streams := rfl
@[simp] theorem drawFree_stores : s.drawFree.2.stores = s.stores := rfl
@[simp] theorem drawFree_ev : s.drawFree.2.ev = s.ev := rfl
@[simp] theorem drawFree_busMaster : s.drawFree.2.busMaster = s.busMaster := rfl
@[simp] theorem drawFree_trigIn : s.drawFree.2.trigIn = s.trigIn := rfl
@[simp] theorem drawFree_trigOut : s.drawFree.2.trigOut = s.trigOut := rfl
@[simp] theorem drawFree_sides : s.drawFree.2.sides = s.sides := rfl
@[simp] theorem drawFree_afLog : s.drawFree.2.afLog = s.afLog := rfl
@[simp] theorem drawFree_afQueue : s.drawFree.2.afQueue = s.afQueue := rfl
@[simp] theorem drawFree_queues : s.drawFree.2.queues = s.queues := rfl
@[simp] theorem drawFree_sram : s.drawFree.2.sram = s.sram := rfl
@[simp] theorem drawFree_srams : s.drawFree.2.srams = s.srams := rfl
@[simp] theorem drawFree_sramEpoch : s.drawFree.2.sramEpoch = s.sramEpoch := rfl
@[simp] theorem drawFree_dram : s.drawFree.2.dram = s.dram := rfl
@[simp] theorem drawFree_chans : s.drawFree.2.chans = s.chans := rfl
@[simp] theorem drawFree_dramEpoch : s.drawFree.2.dramEpoch = s.dramEpoch := rfl
@[simp] theorem drawFree_host : s.drawFree.2.host = s.host := rfl
@[simp] theorem drawFree_nbTolerance : s.drawFree.2.nbTolerance = s.nbTolerance := rfl
@[simp] theorem drawFree_ring : s.drawFree.2.ring = s.ring := rfl
@[simp] theorem drawFree_reeve : s.drawFree.2.reeve = s.reeve := rfl
@[simp] theorem drawFree_boot : s.drawFree.2.boot = s.boot := rfl
@[simp] theorem drawFree_dies : s.drawFree.2.dies = s.dies := rfl
@[simp] theorem drawFree_ports : s.drawFree.2.ports = s.ports := rfl
@[simp] theorem drawFree_board : s.drawFree.2.board = s.board := rfl
@[simp] theorem drawFree_out : s.drawFree.2.out = s.out := rfl
@[simp] theorem drawFree_pending : s.drawFree.2.pending = s.pending := rfl

end Sys2Proof.Machine
end

