-- ==== Sys2Proof/Laws/Registers.lean ====
section
/-!
SUPPORT. Register words and fields: what a read of a field gives after a write of the same field, of other bits of its word,
of another word, and after every operation that writes registers here and there (events, HOLD outputs).
-/
namespace Sys2Proof.Machine

/-! ### Bits of a word -/

/-- The bits of a mask. -/
theorem testBit_maskOf (hi lo i : Nat) : (maskOf hi lo).testBit i = (decide (lo ≤ i) && decide (i < hi + 1)) := by
  unfold maskOf
  rw [Nat.testBit_shiftLeft, Nat.testBit_two_pow_sub_one]
  by_cases h : lo ≤ i
  · have : (i - lo < hi + 1 - lo) = (i < hi + 1) := by
      apply propext
      omega
    simp [h, this]
  · simp [h]

/-- The bits of a placed value. -/
theorem testBit_placed (v hi lo i : Nat) :
    (placed v hi lo).testBit i = (decide (lo ≤ i) && decide (i < hi + 1) && v.testBit (i - lo)) := by
  unfold placed
  rw [Nat.testBit_shiftLeft, Nat.testBit_mod_two_pow]
  by_cases h : lo ≤ i
  · have : (i - lo < hi + 1 - lo) = (i < hi + 1) := by
      apply propext
      omega
    simp [h, this]
  · simp [h]

/-- The bits of a field of a number. -/
theorem testBit_bitsOf (w hi lo i : Nat) :
    (bitsOf w hi lo).testBit i = (decide (i < hi + 1 - lo) && w.testBit (i + lo)) := by
  unfold bitsOf
  rw [Nat.testBit_mod_two_pow, Nat.testBit_shiftRight, Nat.add_comm lo i]

/-- The bits of a word with a field replaced. -/
theorem testBit_setBits (w : Word) (hi lo v i : Nat) (hi32 : i < 32) :
    (setBits w hi lo v).toNat.testBit i =
      if lo ≤ i ∧ i < hi + 1 then v.testBit (i - lo) else w.toNat.testBit i := by
  have h : ((setBits w hi lo v).getLsbD i) = if lo ≤ i ∧ i < hi + 1 then v.testBit (i - lo) else w.getLsbD i := by
    unfold setBits
    rw [BitVec.getLsbD_or, BitVec.getLsbD_and, BitVec.getLsbD_not, BitVec.getLsbD_ofNat, BitVec.getLsbD_ofNat,
      testBit_maskOf, testBit_placed]
    by_cases hc : lo ≤ i ∧ i < hi + 1
    · simp [hc.1, hc.2, hi32]
    · rw [if_neg hc]
      have : (decide (lo ≤ i) && decide (i < hi + 1)) = false := by simpa using hc
      rw [this]
      simp [hi32]
  simpa [BitVec.getLsbD] using h

/-- A field that has been replaced reads as the new value, cut to its width. -/
theorem bitsOf_setBits_self (w : Word) (hi lo v : Nat) (h : lo ≤ hi) (h32 : hi < 32) :
    bitsOf (setBits w hi lo v).toNat hi lo = v % 2 ^ (hi + 1 - lo) := by
  apply Nat.eq_of_testBit_eq
  intro i
  rw [testBit_bitsOf, Nat.testBit_mod_two_pow]
  by_cases hi' : i < hi + 1 - lo
  · rw [testBit_setBits _ _ _ _ _ (by omega)]
    have : lo ≤ i + lo ∧ i + lo < hi + 1 := by omega
    simp [hi', this]
  · simp [hi']

/-- Replacing a field leaves the fields beside it alone. -/
theorem bitsOf_setBits_apart (w : Word) (hi lo hi' lo' v : Nat) (h32 : hi' < 32) (h : hi < lo' ∨ hi' < lo) :
    bitsOf (setBits w hi lo v).toNat hi' lo' = bitsOf w.toNat hi' lo' := by
  apply Nat.eq_of_testBit_eq
  intro i
  rw [testBit_bitsOf, testBit_bitsOf]
  by_cases hi'' : i < hi' + 1 - lo'
  · rw [testBit_setBits _ _ _ _ _ (by omega), if_neg (by omega)]
  · simp [hi'']

/-- A field fits its width. -/
theorem bitsOf_lt (w hi lo : Nat) : bitsOf w hi lo < 2 ^ (hi + 1 - lo) := Nat.mod_lt _ (Nat.two_pow_pos _)

/-! ### Words -/

@[simp] theorem word_setWord_self (s : State) (a : Nat) (w : Word) : (s.setWord a w).word a = w :=
  sget_sput_self _ _ _ _

theorem word_setWord_ne (s : State) {a b : Nat} (w : Word) (h : b ≠ a) : (s.setWord a w).word b = s.word b :=
  sget_sput_ne _ _ _ h

@[simp] theorem shadow_setShadow_self (s : State) (a : Nat) (w : Word) : (s.setShadow a w).shadow a = w :=
  sget_sput_self _ _ _ _

theorem shadow_setShadow_ne (s : State) {a b : Nat} (w : Word) (h : b ≠ a) :
    (s.setShadow a w).shadow b = s.shadow b :=
  sget_sput_ne _ _ _ h

@[simp] theorem word_setShadow (s : State) (a b : Nat) (w : Word) : (s.setShadow a w).word b = s.word b := rfl
@[simp] theorem shadow_setWord (s : State) (a b : Nat) (w : Word) : (s.setWord a w).shadow b = s.shadow b := rfl

/-- A word depends on the active table and the part alone. -/
theorem word_congr {s t : State} (ha : t.act = s.act) (hf : t.fuse = s.fuse) (a : Nat) : t.word a = s.word a := by
  unfold State.word
  rw [ha, hf]

/-- A shadow word depends on the shadow table and the part alone. -/
theorem shadow_congr {s t : State} (ha : t.shd = s.shd) (hf : t.fuse = s.fuse) (a : Nat) : t.shadow a = s.shadow a := by
  unfold State.shadow
  rw [ha, hf]

theorem getF_congr {s t : State} {p : Page} {f : Fld} (h : t.word (pageBase p + f.off) = s.word (pageBase p + f.off)) :
    t.getF p f = s.getF p f := by
  unfold State.getF
  rw [h]

/-! ### Fields -/

/-- The field lies in a 32-bit word. -/
def Fld.fits (f : Fld) : Bool := decide (f.lo ≤ f.hi) && decide (f.hi < 32)

/-- Two fields of a page share no bit. -/
def Fld.apart (f g : Fld) : Bool := f.off != g.off || decide (f.hi < g.lo) || decide (g.hi < f.lo)

/-- The values that a field takes. -/
def Fld.size (f : Fld) : Nat := 2 ^ (f.hi + 1 - f.lo)

theorem putF_word_self (s : State) (p : Page) (f : Fld) (v : Nat) :
    (s.putF p f v).word (pageBase p + f.off) = setBits (s.word (pageBase p + f.off)) f.hi f.lo v :=
  word_setWord_self _ _ _

theorem putF_word_ne (s : State) (p : Page) (f : Fld) (v : Nat) {a : Nat} (h : a ≠ pageBase p + f.off) :
    (s.putF p f v).word a = s.word a :=
  word_setWord_ne _ _ h

/-- A field that has been given a value reads as that value, cut to its width. -/
theorem getF_putF_self (s : State) (p : Page) (f : Fld) (v : Nat) (h : f.fits = true) :
    (s.putF p f v).getF p f = v % f.size := by
  simp only [Fld.fits, Bool.and_eq_true, decide_eq_true_eq] at h
  unfold State.getF
  rw [putF_word_self, bitsOf_setBits_self _ _ _ _ h.1 h.2]
  rfl

/-- A field keeps its value while another field of the page takes one. -/
theorem getF_putF_apart (s : State) (p : Page) (f g : Fld) (v : Nat) (hg : g.fits = true) (h : f.apart g = true) :
    (s.putF p f v).getF p g = s.getF p g := by
  simp only [Fld.fits, Bool.and_eq_true, decide_eq_true_eq] at hg
  unfold State.getF
  by_cases ho : g.off = f.off
  · rw [ho, putF_word_self, bitsOf_setBits_apart]
    · exact hg.2
    · simp only [Fld.apart, ho, bne_self_eq_false, Bool.false_or, Bool.or_eq_true, decide_eq_true_eq] at h
      exact h
  · rw [putF_word_ne]
    omega

/-- A field keeps its value while a field at another address takes one. -/
theorem getF_putF_ne (s : State) (p q : Page) (f g : Fld) (v : Nat) (h : pageBase q + g.off ≠ pageBase p + f.off) :
    (s.putF p f v).getF q g = s.getF q g :=
  getF_congr (putF_word_ne s p f v h)

/-- Pages lie at multiples of 4 KiB. -/
theorem pageBase_mod (p : Page) : pageBase p % 0x1000 = 0 := by
  cases p <;> simp only [pageBase, superBase] <;> omega

/-- Words of different pages have different addresses. -/
theorem page_ne {p q : Page} {f g : Fld} (hp : pageBase p ≠ pageBase q) (hf : f.off < 0x1000) (hg : g.off < 0x1000) :
    pageBase q + g.off ≠ pageBase p + f.off := by
  have h1 := pageBase_mod p
  have h2 := pageBase_mod q
  omega

/-- A field keeps its value while a field of another page takes one. -/
theorem getF_putF_page (s : State) (p q : Page) (f g : Fld) (v : Nat) (hp : pageBase p ≠ pageBase q)
    (hf : f.off < 0x1000) (hg : g.off < 0x1000) : (s.putF p f v).getF q g = s.getF q g :=
  getF_putF_ne s p q f g v (page_ne hp hf hg)

/-- A saturating sum fits its width. -/
theorem satAdd_lt (bits a n : Nat) : satAdd bits a n < 2 ^ bits := by
  have := Nat.two_pow_pos bits
  unfold satAdd
  omega

/-- A counter goes up, and stops at the greatest value of its field. -/
theorem getF_bump_self (s : State) (p : Page) (f : Fld) (n : Nat) (h : f.fits = true) :
    (s.bump p f n).getF p f = satAdd (f.hi + 1 - f.lo) (s.getF p f) n := by
  unfold State.bump
  rw [getF_putF_self _ _ _ _ h]
  exact Nat.mod_eq_of_lt (satAdd_lt _ _ _)

theorem bump_word_ne (s : State) (p : Page) (f : Fld) (n : Nat) {a : Nat} (h : a ≠ pageBase p + f.off) :
    (s.bump p f n).word a = s.word a :=
  putF_word_ne s p f _ h

theorem getF_bump_apart (s : State) (p : Page) (f g : Fld) (n : Nat) (hg : g.fits = true) (h : f.apart g = true) :
    (s.bump p f n).getF p g = s.getF p g :=
  getF_putF_apart s p f g _ hg h

theorem getF_bump_page (s : State) (p q : Page) (f g : Fld) (n : Nat) (hp : pageBase p ≠ pageBase q)
    (hf : f.off < 0x1000) (hg : g.off < 0x1000) : (s.bump p f n).getF q g = s.getF q g :=
  getF_putF_page s p q f g _ hp hf hg

theorem setBitF_word_ne (s : State) (p : Page) (f : Fld) (i : Nat) {a : Nat} (h : a ≠ pageBase p + f.off) :
    (s.setBitF p f i).word a = s.word a :=
  putF_word_ne s p f _ h

theorem putBitF_word_ne (s : State) (p : Page) (f : Fld) (i : Nat) (b : Bool) {a : Nat} (h : a ≠ pageBase p + f.off) :
    (s.putBitF p f i b).word a = s.word a :=
  putF_word_ne s p f _ h

/-! ### Events -/

theorem eventWord_pending {a : Nat} (h : eventWord a = false) : pendingWord a = false := by
  simp only [eventWord, Bool.or_eq_false_iff] at h
  exact h.2

/-- No word but the pending bits of MSI-X changes when a vector sends. -/
theorem serveVector_word (s : State) (v a : Nat) (hv : v < 64) (h : pendingWord a = false) :
    (s.serveVector v).word a = s.word a := by
  have hp : a ≠ pageBase .host + (R.MSIX_PBA (v / 32)).off := by
    simp only [pendingWord, Bool.and_eq_false_iff, decide_eq_false_iff_not] at h
    simp only [pageBase, R.MSIX_PBA]
    omega
  unfold State.serveVector
  split
  · split
    · exact setBitF_word_ne _ _ _ _ hp
    · split
      · dsimp only
        rw [putBitF_word_ne _ _ _ _ _ hp]
        rfl
      · rfl
  · rfl

theorem vectorOf_lt (s : State) (g : Nat) : s.vectorOf g < 64 := bitsOf_lt _ _ _

theorem serveVectors_word (s : State) (a : Nat) (h : pendingWord a = false) : s.serveVectors.word a = s.word a := by
  have key : ∀ (l : List Nat) (t : State), (∀ v ∈ l, v < 64) →
      (l.foldl (fun (t : State) v => t.serveVector v) t).word a = t.word a := by
    intro l
    induction l with
    | nil => intros; rfl
    | cons v l ih =>
      intro t hl
      rw [List.foldl_cons, ih _ (fun w hw => hl w (List.mem_cons_of_mem _ hw))]
      exact serveVector_word t v a (hl v (List.mem_cons_self ..)) h
  refine key _ _ (fun v hv => ?_)
  obtain ⟨g, -, rfl⟩ := List.mem_map.mp hv
  exact vectorOf_lt s g

/-- A recorded raise writes no word but the pending bits of MSI-X. -/
theorem recordRaise_word (s : State) (n time : Nat) (forced : Bool) (count a : Nat) (h : pendingWord a = false) :
    (s.recordRaise n time forced count).word a = s.word a := by
  have hf : (s.flushUnrec n).word a = s.word a := by
    unfold State.flushUnrec
    split <;> rfl
  unfold State.recordRaise
  split
  · rfl
  · split
    · split
      · rfl
      · exact hf
    · exact serveVectors_word _ _ h

/-- The source, if there is one, is one of at most 16 of a page, or one of the 30 of the link bank. -/
def inBounds (o : Option SourceAt) : Prop :=
  ∀ x, o = some x → (∃ p k, k < 16 ∧ x = pageSource p k) ∨ ∃ k, k < 30 ∧ x = bankSource k

theorem inBounds_ite {c : Prop} [Decidable c] {a b : Option SourceAt} (ha : c → inBounds a) (hb : ¬ c → inBounds b) :
    inBounds (if c then a else b) := by
  by_cases h : c
  · rw [if_pos h]
    exact ha h
  · rw [if_neg h]
    exact hb h

theorem inBounds_none : inBounds none := by
  intro _ h
  cases h

theorem inBounds_page (p : Page) {k : Nat} (h : k < 16) : inBounds (some (pageSource p k)) :=
  fun _ hx => .inl ⟨p, k, h, (Option.some.inj hx).symm⟩

theorem inBounds_bank {k : Nat} (h : k < 30) : inBounds (some (bankSource k)) :=
  fun _ hx => .inr ⟨k, h, (Option.some.inj hx).symm⟩

theorem sourceOf_cases (n : Nat) : inBounds (sourceOf n) := by
  have sup : ∀ s i, inBounds (superSource s i) := by
    intro s i
    unfold superSource
    repeat' first
      | with_reducible exact inBounds_none
      | (with_reducible apply inBounds_page; omega)
      | (with_reducible apply inBounds_ite <;> intro _)
  unfold sourceOf
  repeat' first
    | with_reducible exact inBounds_none
    | (with_reducible apply inBounds_page; omega)
    | (with_reducible apply inBounds_bank; omega)
    | (with_reducible apply inBounds_ite <;> intro _)
    | with_reducible exact sup _ _

/-- Where the words of a source lie. -/
theorem sourceOf_words {n : Nat} {x : SourceAt} (hx : sourceOf n = some x) :
    pendingWord (pageBase x.page + x.sticky) = false ∧ x.count.off ≠ x.sticky ∧
      ∀ a, eventWord a = false → a ≠ pageBase x.page + x.sticky ∧ a ≠ pageBase x.page + x.count.off := by
  have hm := pageBase_mod x.page
  rcases sourceOf_cases n x hx with ⟨p, k, hk, rfl⟩ | ⟨k, hk, rfl⟩
  · have hw : pendingWord (pageBase p + 0x014) = false := by
      have hm : pageBase p % 0x1000 = 0 := hm
      unfold pendingWord
      by_cases h : 0x3380 ≤ pageBase p + 0x014
      · rw [decide_eq_false (p := pageBase p + 0x014 < 0x3388) (by omega), Bool.and_false]
      · rw [decide_eq_false h, Bool.false_and]
    refine ⟨hw, ?_, fun a h => ?_⟩
    · simp only [pageSource, R.EV_COUNT]
      omega
    · simp only [pageSource, R.EV_COUNT, pendingWord, eventWord, Bool.or_eq_false_iff, Bool.and_eq_false_iff,
        decide_eq_false_iff_not, beq_eq_false_iff_ne, ne_eq] at hm h ⊢
      omega
  · have hb : (bankSource k).count.off = 0x250 + 4 * (k / 2) := by
      unfold bankSource
      dsimp only
      split <;> rfl
    rw [hb]
    simp only [bankSource, pageBase, pendingWord, eventWord, Bool.or_eq_false_iff, Bool.and_eq_false_iff,
      decide_eq_false_iff_not, beq_eq_false_iff_ne, ne_eq] at hm ⊢
    refine ⟨by simp, by omega, fun a h => by omega⟩

/-- A raise writes no word but those of events. -/
theorem raiseAt_word (s : State) (n time : Nat) (forced : Bool) (a : Nat) (h : eventWord a = false) :
    (s.raiseAt n time forced).word a = s.word a := by
  unfold State.raiseAt
  split
  · split
    · rfl
    · rename_i x hx
      have ha := (sourceOf_words hx).2.2 a h
      have ht : ((s.setBitF x.page ⟨x.sticky, 31, 0⟩ x.bit).bump x.page x.count 1).word a = s.word a := by
        rw [bump_word_ne _ _ _ _ ha.2, setBitF_word_ne _ _ _ _ ha.1]
      dsimp only
      split
      · rw [recordRaise_word _ _ _ _ _ _ (eventWord_pending h), ht]
      · exact ht
  · rfl

/-- Raising a source of a page writes no word but those of events. -/
theorem raise_word (s : State) (p : Page) (n a : Nat) (h : eventWord a = false) : (s.raise p n).word a = s.word a :=
  raiseAt_word _ _ _ _ _ h

theorem raiseLink_word (s : State) (l j a : Nat) (h : eventWord a = false) : (s.raiseLink l j).word a = s.word a :=
  raiseAt_word _ _ _ _ _ h

/-- A field outside the words of events keeps its value while a source is raised. -/
theorem raise_getF (s : State) (p q : Page) (n : Nat) (f : Fld) (h : eventWord (pageBase q + f.off) = false) :
    (s.raise p n).getF q f = s.getF q f :=
  getF_congr (raise_word _ _ _ _ h)

/-- A source of a present unit that is raised shows in its STICKY bit. -/
theorem raiseAt_sticky (s : State) (n time : Nat) (forced : Bool) {x : SourceAt} (hx : sourceOf n = some x)
    (hp : sourcePresent s.fuse.part n = true) (hb : x.bit < 32) :
    bitOf ((s.raiseAt n time forced).word (pageBase x.page + x.sticky)).toNat x.bit = true := by
  obtain ⟨h1, h2, -⟩ := sourceOf_words hx
  have ht : bitOf (((s.setBitF x.page ⟨x.sticky, 31, 0⟩ x.bit).bump x.page x.count 1).word
      (pageBase x.page + x.sticky)).toNat x.bit = true := by
    rw [bump_word_ne _ _ _ _ (by omega)]
    unfold bitOf State.setBitF
    rw [show pageBase x.page + x.sticky = pageBase x.page + (⟨x.sticky, 31, 0⟩ : Fld).off from rfl, putF_word_self,
      testBit_setBits _ _ _ _ _ hb, if_pos (by dsimp only; omega)]
    simp
  unfold State.raiseAt
  rw [if_pos hp, hx]
  dsimp only
  split
  · rw [recordRaise_word _ _ _ _ _ _ h1]
    exact ht
  · exact ht

/-! ### HOLD outputs -/

/-- Settling the HOLD outputs writes no other word. -/
theorem settleHolds_word (s : State) (a : Nat) (h : holdWordAt a = false) : s.settleHolds.word a = s.word a := by
  simp only [holdWordAt, Bool.and_eq_false_iff, decide_eq_false_iff_not] at h
  have key : ∀ (l : List Nat) (c : Nat → Bool) (t : State), (∀ i ∈ l, i < 8) →
      (l.foldl (fun (t : State) i => if c i then t.bump .hive (holdCount i) 1 else t) t).word a = t.word a := by
    intro l c
    induction l with
    | nil => intros; rfl
    | cons i l ih =>
      intro t hl
      rw [List.foldl_cons, ih _ (fun w hw => hl w (List.mem_cons_of_mem _ hw))]
      split
      · refine bump_word_ne _ _ _ _ ?_
        have := hl i (List.mem_cons_self ..)
        have ho : (holdCount i).off = 0x248 + 4 * (i / 2) := by
          unfold holdCount
          split <;> rfl
        rw [ho]
        simp only [pageBase]
        omega
      · rfl
  unfold State.settleHolds
  dsimp only
  rw [key _ (fun h => bitOf s.holdDrive h && !bitOf (s.getF .hive R.HIVE_HOLD_STATE_DRIVE) h) _
    (fun i hi => List.mem_range.mp hi)]
  rw [putF_word_ne, putF_word_ne]
  · simp only [pageBase, R.HIVE_HOLD_STATE_DRIVE]
    omega
  · simp only [pageBase, R.HIVE_HOLD_STATE_QUEUE]
    omega

/-- Settling the HOLD outputs writes registers alone. -/
theorem settleHolds_eq (s : State) : ∃ m, s.settleHolds = { s with act := m } := by
  have key : ∀ (l : List Nat) (c : Nat → Bool) (t : State), (∃ m, t = { s with act := m }) →
      ∃ m, l.foldl (fun (t : State) i => if c i then t.bump .hive (holdCount i) 1 else t) t = { s with act := m } := by
    intro l c
    induction l with
    | nil => intro t h; exact h
    | cons i l ih =>
      rintro t ⟨m, rfl⟩
      rw [List.foldl_cons]
      apply ih
      split
      · exact ⟨_, rfl⟩
      · exact ⟨_, rfl⟩
  exact key _ _ _ ⟨_, rfl⟩

end Sys2Proof.Machine
end

