-- ==== Sys2Proof/Laws/Sound.lean ====
section
/-!
SUPPORT. Soundness (Sys2Proof/Safety.lean) is kept by every primitive update, and the memories' canonical form by every
operation on them.
-/
namespace Sys2Proof.Machine

/-- Soundness, table by table. -/
theorem Sound.tables {s : State} : s.Sound ↔
    (canonical (resetWord s.fuse) s.act = true ∧ canonical (resetWord s.fuse) s.shd = true ∧ sorted s.latched = true
      ∧ sorted s.held = true)
    ∧ (canonical (fun _ => PllSt.reset) s.plls = true ∧ canonical (fun _ => PodSt.reset) s.pods = true
      ∧ canonical (fun _ => FrameSt.reset) s.frames = true ∧ canonical (fun _ => ScoutSt.reset) s.scouts = true
      ∧ canonical (fun _ => SeqSt.reset) s.seqs = true ∧ canonical (fun _ => StreamSt.reset) s.streams = true
      ∧ canonical (fun _ => StoreSt.reset) s.stores = true ∧ canonical (fun _ => SideSt.reset) s.sides = true
      ∧ canonical (fun _ => QueueSt.reset) s.queues = true ∧ canonical (fun _ => SramSt.reset) s.srams = true
      ∧ canonical (fun _ => ChanSt.reset) s.chans = true ∧ canonical (fun _ => DieSt.reset) s.dies = true)
    ∧ (canonical (fun _ => 0) s.sramEpoch = true ∧ canonical (fun _ => 0) s.dramEpoch = true)
    ∧ (canonical s.sramDefault s.sram = true ∧ canonical s.dramDefault s.dram = true)
    ∧ (s.hiveTime < timeModulus ∧ ∀ e ∈ s.superTime, e.2 < timeModulus) := by
  simp only [State.Sound, State.registersWf, State.unitsWf, State.memoryWf, Memory.wf, State.timeWf, Bool.and_eq_true,
    decide_eq_true_eq, List.all_eq_true, and_assoc]

theorem timeModulus_pos : 0 < timeModulus := by decide

theorem all_sput_lt {m : List (Nat × Nat)} {b : Nat} (k v : Nat) (h : ∀ e ∈ m, e.2 < b) (hv : v < b) :
    ∀ e ∈ sput (fun _ => 0) m k v, e.2 < b := by
  intro e he
  unfold sput at he
  split at he
  · exact h e (List.mem_filter.mp he).1
  · rcases mem_sinsert he with rfl | he
    · exact hv
    · exact h e (List.mem_filter.mp he).1

theorem all_foldl_sput_lt {b : Nat} (hb : 0 < b) (f : List (Nat × Nat) → Nat → Nat) (l : List Nat)
    {m : List (Nat × Nat)} (h : ∀ e ∈ m, e.2 < b) :
    ∀ e ∈ l.foldl (fun m u => sput (fun _ => 0) m u (f m u % b)) m, e.2 < b := by
  induction l generalizing m with
  | nil => exact h
  | cons u l ih => exact ih (all_sput_lt u _ h (Nat.mod_lt _ hb))

/-- Dropping entries and changing the others, none of them to the default, keeps the canonical form. -/
theorem canonical_filterMap [DecidableEq α] {d : Nat → α} (f : Nat × α → Option (Nat × α)) {m : List (Nat × α)}
    (hk : ∀ e e', f e = some e' → e'.1 = e.1) (hd : ∀ e e', f e = some e' → e'.2 ≠ d e'.1)
    (h : sorted m = true) : canonical d (m.filterMap f) = true := by
  induction m with
  | nil => rfl
  | cons e m ih =>
    obtain ⟨j, x⟩ := e
    obtain ⟨ha, hm⟩ := (sorted_cons j x m).mp h
    rw [List.filterMap_cons]
    split
    · exact ih hm
    · rename_i e' he
      have hi := ih hm
      rw [canonical_iff] at hi ⊢
      obtain ⟨k, y⟩ := e'
      have hkj := hk _ _ he
      refine ⟨(sorted_cons ..).mpr ⟨?_, hi.1⟩, ?_⟩
      · intro g hg
        obtain ⟨g', hg', hfg⟩ := List.mem_filterMap.mp hg
        have h1 := hk _ _ hfg
        have h2 := ha g' hg'
        simp only at hkj ⊢
        omega
      · intro g hg
        rcases List.mem_cons.mp hg with rfl | hg
        · exact hd _ _ he
        · exact hi.2 g hg

theorem sorted_range (n : Nat) (f : Nat → Option α) :
    sorted ((List.range n).filterMap (fun u => (f u).map (fun x => (u, x)))) = true ∧
      ∀ e ∈ (List.range n).filterMap (fun u => (f u).map (fun x => (u, x))), e.1 < n := by
  induction n with
  | zero => simp [sorted]
  | succ n ih =>
    rw [List.range_succ, List.filterMap_append]
    constructor
    · cases h : f n with
      | none => simpa [h] using ih.1
      | some x =>
        simp only [List.filterMap_cons, h, Option.map_some, List.filterMap_nil]
        have key : ∀ (m : List (Nat × α)), sorted m = true → (∀ e ∈ m, e.1 < n) → sorted (m ++ [(n, x)]) = true := by
          intro m
          induction m with
          | nil => intro _ _; rfl
          | cons e m ihm =>
            obtain ⟨j, y⟩ := e
            intro hs hb
            obtain ⟨ha, hm⟩ := (sorted_cons j y m).mp hs
            refine (sorted_cons ..).mpr ⟨?_, ihm hm (fun e he => hb e (List.mem_cons_of_mem _ he))⟩
            intro g hg
            rcases List.mem_append.mp hg with hg | hg
            · exact ha g hg
            · have := hb (j, y) (List.mem_cons_self ..)
              simp only [List.mem_singleton] at hg
              subst hg
              exact this
        exact key _ ih.1 ih.2
    · intro e he
      rcases List.mem_append.mp he with he | he
      · have := ih.2 e he
        omega
      · obtain ⟨u, hu, hx⟩ := List.mem_filterMap.mp he
        simp only [List.mem_singleton] at hu
        subst hu
        obtain ⟨x, -, rfl⟩ := Option.map_eq_some_iff.mp hx
        simp

/-! ### The memories' canonical form -/

/-- Removing what is stored where the default changes leaves the canonical form for the new default. -/
theorem canonical_renew [DecidableEq α] {d d' : Nat → α} (p : Nat → Bool) {m : List (Nat × α)}
    (hd : ∀ a, p a = false → d' a = d a) (h : canonical d m = true) : canonical d' (sclear m p) = true := by
  rw [canonical_iff] at h ⊢
  refine ⟨sorted_sclear p h.1, fun e he => ?_⟩
  obtain ⟨hm, hp⟩ := List.mem_filter.mp he
  rw [hd e.1 (by simpa using hp)]
  exact h.2 e hm

/-- A write of a byte of on-chip memory keeps its canonical form. -/
theorem setSramByte_wf (s : State) (u off : Nat) (b : Byte) (h : Memory.wf s.sramDefault s.sram = true) :
    Memory.wf (s.setSramByte u off b).sramDefault (s.setSramByte u off b).sram = true :=
  canonical_sput _ _ h

/-- Clearing on-chip memory keeps its canonical form. -/
theorem clearSram_wf (s : State) (p : Nat → Bool) (h : Memory.wf s.sramDefault s.sram = true) :
    Memory.wf (s.clearSram p).sramDefault (s.clearSram p).sram = true :=
  canonical_sclear _ h

/-- New contents of the working regions keep the canonical form of on-chip memory. -/
theorem renewSram_wf (s : State) (u n : Nat) (h : Memory.wf s.sramDefault s.sram = true) :
    Memory.wf (s.renewSram u n).sramDefault (s.renewSram u n).sram = true := by
  unfold Memory.wf at h ⊢
  refine canonical_renew (d := s.sramDefault) (fun a => a / 2 ^ 23 == u && workArea u (a % 2 ^ 23)) (fun a ha => ?_) h
  by_cases hu : a / 2 ^ 23 = u
  · have hw : workArea (a / 2 ^ 23) (a % 2 ^ 23) = false := by
      rcases (Bool.and_eq_false_iff).mp ha with h1 | h1
      · exact absurd hu (by simpa using h1)
      · rw [hu]
        exact h1
    unfold State.sramDefault
    have hn : ¬ workArea (a / 2 ^ 23) (a % 2 ^ 23) = true := fun h2 => Bool.false_ne_true (hw.symm.trans h2)
    rw [if_pos (Or.inr hn), if_pos (Or.inr hn)]
  · have hk : sget (fun _ => 0) (s.renewSram u n).sramEpoch (a / 2 ^ 23) = sget (fun _ => 0) s.sramEpoch (a / 2 ^ 23) :=
      sget_sput_ne _ _ _ hu
    simp only [State.sramDefault, hk]

/-- A write of a byte of DRAM keeps its canonical form. -/
theorem setDramStored_wf (s : State) (u k sub off : Nat) (b : Byte) (h : Memory.wf s.dramDefault s.dram = true) :
    Memory.wf (s.setDramStored u k sub off b).dramDefault (s.setDramStored u k sub off b).dram = true :=
  canonical_sput _ _ h

/-- New contents of a channel keep the canonical form of DRAM. -/
theorem renewDram_wf (s : State) (u k n : Nat) (h : Memory.wf s.dramDefault s.dram = true) :
    Memory.wf (s.renewDram u k n).dramDefault (s.renewDram u k n).dram = true := by
  unfold Memory.wf at h ⊢
  refine canonical_renew (d := s.dramDefault) (fun a => chanOfKey a == 2 * u + k) (fun a ha => ?_) h
  have hu : chanOfKey a ≠ 2 * u + k := by simpa using ha
  have hk : sget (fun _ => 0) (s.renewDram u k n).dramEpoch (chanOfKey a) = sget (fun _ => 0) s.dramEpoch (chanOfKey a) :=
    sget_sput_ne _ _ _ hu
  simp only [State.dramDefault, hk]

/-! ### Soundness -/

/-- Loss of power leaves a sound state sound. -/
theorem Sound.unpowered {s : State} (h : s.Sound) : s.unpowered.Sound := by
  rw [Sound.tables] at h ⊢
  refine ⟨⟨rfl, rfl, rfl, rfl⟩, ⟨rfl, rfl, rfl, ?_, rfl, rfl, rfl, rfl, rfl, ?_, rfl, rfl⟩, ⟨rfl, rfl⟩, ⟨rfl, rfl⟩,
    timeModulus_pos, by simp [State.unpowered, State.reset]⟩
  · refine canonical_filterMap _ ?_ ?_ ((canonical_iff _ _).mp h.2.1.2.2.2.1).1
    · intro e e' he
      split at he <;> simp_all
      rw [← he]
    · intro e e' he
      split at he
      · simp only [Option.some.injEq] at he
        subst he
        simp [ScoutSt.reset]
      · simp at he
  · have key : s.unpowered.srams = (List.range 8).filterMap (fun u =>
        (if (s.sramOf u).repairs.isEmpty then none else some { SramSt.reset with repairs := (s.sramOf u).repairs }).map
          (fun x => (u, x))) := by
      unfold State.unpowered
      dsimp only
      congr 1
      funext u
      split <;> rfl
    rw [key, canonical_iff]
    refine ⟨(sorted_range 8 _).1, ?_⟩
    intro e he
    obtain ⟨u, -, hx⟩ := List.mem_filterMap.mp he
    obtain ⟨x, hy, rfl⟩ := Option.map_eq_some_iff.mp hx
    by_cases hr : (s.sramOf u).repairs.isEmpty = true
    · rw [if_pos hr] at hy
      exact absurd hy (by simp)
    · rw [if_neg hr, Option.some.injEq] at hy
      intro hc
      apply hr
      have hc : x = SramSt.reset := hc
      have := congrArg SramSt.repairs (hy.trans hc)
      simp only [SramSt.reset] at this
      simp [this]

/-- Every primitive update keeps soundness. -/
theorem Sound.closed : Closed (fun _ => True) State.Sound where
  other _ _ _ _ _ _ _ _ _ _ _ _ _ _ _ _ _ _ _ _ _ _ _ _ _ _ _ _ _ _ _ _ _ _ _ _ _ _ _ _ _ h := h
  setWord _ _ _ _ h := Sound.tables.mpr (by
    have h := Sound.tables.mp h
    exact ⟨⟨canonical_sput _ _ h.1.1, h.1.2⟩, h.2⟩)
  setShadow _ _ _ _ h := Sound.tables.mpr (by
    have h := Sound.tables.mp h
    exact ⟨⟨h.1.1, canonical_sput _ _ h.1.2.1, h.1.2.2⟩, h.2⟩)
  holdWord _ _ a w h := Sound.tables.mpr (by
    have h := Sound.tables.mp h
    exact ⟨⟨h.1.1, h.1.2.1, h.1.2.2.1, sorted_replace a w h.1.2.2.2⟩, h.2⟩)
  unhold _ _ a h := Sound.tables.mpr (by
    have h := Sound.tables.mp h
    exact ⟨⟨h.1.1, h.1.2.1, h.1.2.2.1, sorted_serase a h.1.2.2.2⟩, h.2⟩)
  latchWord _ _ a w h := Sound.tables.mpr (by
    have h := Sound.tables.mp h
    exact ⟨⟨h.1.1, h.1.2.1, sorted_replace a w h.1.2.2.1, h.1.2.2.2⟩, h.2⟩)
  unlatch _ _ a h := Sound.tables.mpr (by
    have h := Sound.tables.mp h
    exact ⟨⟨h.1.1, h.1.2.1, sorted_serase a h.1.2.2.1, h.1.2.2.2⟩, h.2⟩)
  clearRegs _ _ _ _ _ h := Sound.tables.mpr (by
    obtain ⟨⟨ha, hb, hc, hd⟩, hr⟩ := Sound.tables.mp h
    exact ⟨⟨canonical_filter _ ha, canonical_filter _ hb, sorted_filter _ hc, sorted_filter _ hd⟩, hr⟩)
  blankRegs _ _ h := Sound.tables.mpr (by
    have h := Sound.tables.mp h
    exact ⟨⟨rfl, h.1.2⟩, h.2⟩)
  setPll _ _ _ _ h := Sound.tables.mpr (by
    obtain ⟨hr, ⟨a, b, c, d, e, f, g, i, j, k, l, m⟩, ht⟩ := Sound.tables.mp h
    exact ⟨hr, ⟨canonical_sput _ _ a, b, c, d, e, f, g, i, j, k, l, m⟩, ht⟩)
  setPod _ _ _ _ _ h := Sound.tables.mpr (by
    obtain ⟨hr, ⟨a, b, c, d, e, f, g, i, j, k, l, m⟩, ht⟩ := Sound.tables.mp h
    exact ⟨hr, ⟨a, canonical_sput _ _ b, c, d, e, f, g, i, j, k, l, m⟩, ht⟩)
  setFrame _ _ _ _ _ h := Sound.tables.mpr (by
    obtain ⟨hr, ⟨a, b, c, d, e, f, g, i, j, k, l, m⟩, ht⟩ := Sound.tables.mp h
    exact ⟨hr, ⟨a, b, canonical_sput _ _ c, d, e, f, g, i, j, k, l, m⟩, ht⟩)
  setScout _ _ _ _ _ h := Sound.tables.mpr (by
    obtain ⟨hr, ⟨a, b, c, d, e, f, g, i, j, k, l, m⟩, ht⟩ := Sound.tables.mp h
    exact ⟨hr, ⟨a, b, c, canonical_sput _ _ d, e, f, g, i, j, k, l, m⟩, ht⟩)
  setSeq _ _ _ _ h := Sound.tables.mpr (by
    obtain ⟨hr, ⟨a, b, c, d, e, f, g, i, j, k, l, m⟩, ht⟩ := Sound.tables.mp h
    exact ⟨hr, ⟨a, b, c, d, canonical_sput _ _ e, f, g, i, j, k, l, m⟩, ht⟩)
  setStream _ _ _ _ h := Sound.tables.mpr (by
    obtain ⟨hr, ⟨a, b, c, d, e, f, g, i, j, k, l, m⟩, ht⟩ := Sound.tables.mp h
    exact ⟨hr, ⟨a, b, c, d, e, canonical_sput _ _ f, g, i, j, k, l, m⟩, ht⟩)
  setStore _ _ _ _ h := Sound.tables.mpr (by
    obtain ⟨hr, ⟨a, b, c, d, e, f, g, i, j, k, l, m⟩, ht⟩ := Sound.tables.mp h
    exact ⟨hr, ⟨a, b, c, d, e, f, canonical_sput _ _ g, i, j, k, l, m⟩, ht⟩)
  setSide _ _ _ _ h := Sound.tables.mpr (by
    obtain ⟨hr, ⟨a, b, c, d, e, f, g, i, j, k, l, m⟩, ht⟩ := Sound.tables.mp h
    exact ⟨hr, ⟨a, b, c, d, e, f, g, canonical_sput _ _ i, j, k, l, m⟩, ht⟩)
  setQueue _ _ _ _ h := Sound.tables.mpr (by
    obtain ⟨hr, ⟨a, b, c, d, e, f, g, i, j, k, l, m⟩, ht⟩ := Sound.tables.mp h
    exact ⟨hr, ⟨a, b, c, d, e, f, g, i, canonical_sput _ _ j, k, l, m⟩, ht⟩)
  setSramOf _ _ _ _ h := Sound.tables.mpr (by
    obtain ⟨hr, ⟨a, b, c, d, e, f, g, i, j, k, l, m⟩, ht⟩ := Sound.tables.mp h
    exact ⟨hr, ⟨a, b, c, d, e, f, g, i, j, canonical_sput _ _ k, l, m⟩, ht⟩)
  setChan _ _ _ _ _ h := Sound.tables.mpr (by
    obtain ⟨hr, ⟨a, b, c, d, e, f, g, i, j, k, l, m⟩, ht⟩ := Sound.tables.mp h
    exact ⟨hr, ⟨a, b, c, d, e, f, g, i, j, k, canonical_sput _ _ l, m⟩, ht⟩)
  setDie _ _ _ _ _ h := Sound.tables.mpr (by
    obtain ⟨hr, ⟨a, b, c, d, e, f, g, i, j, k, l, m⟩, ht⟩ := Sound.tables.mp h
    exact ⟨hr, ⟨a, b, c, d, e, f, g, i, j, k, l, canonical_sput _ _ m⟩, ht⟩)
  blankSrams _ _ h := Sound.tables.mpr (by
    obtain ⟨hr, ⟨a, b, c, d, e, f, g, i, j, _, l, m⟩, ht⟩ := Sound.tables.mp h
    exact ⟨hr, ⟨a, b, c, d, e, f, g, i, j, rfl, l, m⟩, ht⟩)
  setSramByte _ s u off b h := Sound.tables.mpr (by
    obtain ⟨hr, hu, he, hm, ht⟩ := Sound.tables.mp h
    exact ⟨hr, hu, he, ⟨setSramByte_wf s u off b hm.1, hm.2⟩, ht⟩)
  clearSram _ s q h := Sound.tables.mpr (by
    obtain ⟨hr, hu, he, hm, ht⟩ := Sound.tables.mp h
    exact ⟨hr, hu, he, ⟨clearSram_wf s q hm.1, hm.2⟩, ht⟩)
  renewSram _ s u n h := Sound.tables.mpr (by
    obtain ⟨hr, hu, he, hm, ht⟩ := Sound.tables.mp h
    exact ⟨hr, hu, ⟨canonical_sput _ _ he.1, he.2⟩, ⟨renewSram_wf s u n hm.1, hm.2⟩, ht⟩)
  setDramStored _ s u k sub off b h := Sound.tables.mpr (by
    obtain ⟨hr, hu, he, hm, ht⟩ := Sound.tables.mp h
    exact ⟨hr, hu, he, ⟨hm.1, setDramStored_wf s u k sub off b hm.2⟩, ht⟩)
  renewDram _ s u k n h := Sound.tables.mpr (by
    obtain ⟨hr, hu, he, hm, ht⟩ := Sound.tables.mp h
    exact ⟨hr, hu, ⟨he.1, canonical_sput _ _ he.2⟩, ⟨hm.1, renewDram_wf s u k n hm.2⟩, ht⟩)
  setTimeOf _ _ _ _ h := Sound.tables.mpr (by
    obtain ⟨hr, hu, he, hm, ht⟩ := Sound.tables.mp h
    exact ⟨hr, hu, he, hm, ht.1, all_sput_lt _ _ ht.2 (Nat.mod_lt _ timeModulus_pos)⟩)
  tick _ _ d h := Sound.tables.mpr (by
    obtain ⟨hr, hu, he, hm, ht⟩ := Sound.tables.mp h
    exact ⟨hr, hu, he, hm, Nat.mod_lt _ timeModulus_pos,
      all_foldl_sput_lt timeModulus_pos (fun m u => sget (fun _ => 0) m u + d) _ ht.2⟩)
  loadTime _ _ t h := Sound.tables.mpr (by
    obtain ⟨hr, hu, he, hm, ht⟩ := Sound.tables.mp h
    exact ⟨hr, hu, he, hm, Nat.mod_lt _ timeModulus_pos, all_foldl_sput_lt timeModulus_pos (fun _ _ => t) _ ht.2⟩)
  unpowered _ _ h := Sound.unpowered h

/-- The part and the queue of waiting commands are in no primitive update. -/
theorem kept_closed (f : Fuse) (q : List Instr) : Closed (fun _ => True) (fun s => s.fuse = f ∧ s.pending = q) where
  other _ _ _ _ _ _ _ _ _ _ _ _ _ _ _ _ _ _ _ _ _ _ _ _ _ _ _ _ _ _ _ _ _ _ _ _ _ _ _ _ _ h := h
  setWord _ _ _ _ h := h
  setShadow _ _ _ _ h := h
  holdWord _ _ _ _ h := h
  unhold _ _ _ h := h
  latchWord _ _ _ _ h := h
  unlatch _ _ _ h := h
  clearRegs _ _ _ _ _ h := h
  blankRegs _ _ h := h
  setPll _ _ _ _ h := h
  setPod _ _ _ _ _ h := h
  setFrame _ _ _ _ _ h := h
  setScout _ _ _ _ _ h := h
  setSeq _ _ _ _ h := h
  setStream _ _ _ _ h := h
  setStore _ _ _ _ h := h
  setSide _ _ _ _ h := h
  setQueue _ _ _ _ h := h
  setSramOf _ _ _ _ h := h
  setChan _ _ _ _ _ h := h
  setDie _ _ _ _ _ h := h
  blankSrams _ _ h := h
  setSramByte _ _ _ _ _ h := h
  clearSram _ _ _ h := h
  renewSram _ _ _ _ h := h
  setDramStored _ _ _ _ _ _ _ h := h
  renewDram _ _ _ _ _ h := h
  setTimeOf _ _ _ _ h := h
  tick _ _ _ h := h
  loadTime _ _ _ h := h
  unpowered _ _ h := h

/-- A primitive update changes no kind of state but its own. -/
theorem frame_closed (l : List StateKind) (s : State) : Closed (· ∈ l) (s.onlyChanges l) where
  other t timeRuns loadWanted turnAt stopped take ev busMaster trigIn trigOut afLog afQueue host nbTolerance ring reeve
      boot ports board frees out h1 h2 h3 h4 h5 h6 h7 h8 h9 h10 h11 h12 h13 h14 h15 h16 h17 h18 h19 h20 h := by
    intro k hk
    have h := h k hk
    cases k
    case registers => exact h
    case plls => exact h
    case pods => exact h
    case frames => exact h
    case scouts => exact h
    case sequencers => exact h
    case streams => exact h
    case stores => exact h
    case sidebands => exact h
    case queues => exact h
    case sram => exact h
    case march => exact h
    case dram => exact h
    case channels => exact h
    case dies => exact h
    case time =>
      exact ⟨h.1, (h1.resolve_left hk).trans h.2.1, h.2.2.1, (h2.resolve_left hk).trans h.2.2.2.1,
        (h3.resolve_left hk).trans h.2.2.2.2⟩
    case intake => exact (h4.resolve_left hk).trans h
    case take => exact (h5.resolve_left hk).trans h
    case events => exact (h6.resolve_left hk).trans h
    case host => exact ⟨(h7.resolve_left hk).trans h.1, (h12.resolve_left hk).trans h.2⟩
    case triggers => exact ⟨(h8.resolve_left hk).trans h.1, (h9.resolve_left hk).trans h.2⟩
    case ring =>
      exact ⟨(h10.resolve_left hk).trans h.1, (h11.resolve_left hk).trans h.2.1, (h14.resolve_left hk).trans h.2.2⟩
    case board => exact ⟨(h13.resolve_left hk).trans h.1, (h18.resolve_left hk).trans h.2⟩
    case reeve => exact (h15.resolve_left hk).trans h
    case boot => exact (h16.resolve_left hk).trans h
    case ports => exact (h17.resolve_left hk).trans h
    case sent => exact ⟨(h19.resolve_left hk).trans h.1, (h20.resolve_left hk).trans h.2⟩
  setWord hm _ _ _ h := fun k hk => by cases k <;> first | exact (hk hm).elim | exact h _ hk
  setShadow hm _ _ _ h := fun k hk => by cases k <;> first | exact (hk hm).elim | exact h _ hk
  holdWord hm _ _ _ h := fun k hk => by cases k <;> first | exact (hk hm).elim | exact h _ hk
  unhold hm _ _ h := fun k hk => by cases k <;> first | exact (hk hm).elim | exact h _ hk
  latchWord hm _ _ _ h := fun k hk => by cases k <;> first | exact (hk hm).elim | exact h _ hk
  unlatch hm _ _ h := fun k hk => by cases k <;> first | exact (hk hm).elim | exact h _ hk
  clearRegs hm _ _ _ _ h := fun k hk => by cases k <;> first | exact (hk hm).elim | exact h _ hk
  blankRegs hm _  h := fun k hk => by cases k <;> first | exact (hk hm).elim | exact h _ hk
  setPll hm _ _ _ h := fun k hk => by cases k <;> first | exact (hk hm).elim | exact h _ hk
  setPod hm _ _ _ _ h := fun k hk => by cases k <;> first | exact (hk hm).elim | exact h _ hk
  setFrame hm _ _ _ _ h := fun k hk => by cases k <;> first | exact (hk hm).elim | exact h _ hk
  setScout hm _ _ _ _ h := fun k hk => by cases k <;> first | exact (hk hm).elim | exact h _ hk
  setSeq hm _ _ _ h := fun k hk => by cases k <;> first | exact (hk hm).elim | exact h _ hk
  setStream hm _ _ _ h := fun k hk => by cases k <;> first | exact (hk hm).elim | exact h _ hk
  setStore hm _ _ _ h := fun k hk => by cases k <;> first | exact (hk hm).elim | exact h _ hk
  setSide hm _ _ _ h := fun k hk => by cases k <;> first | exact (hk hm).elim | exact h _ hk
  setQueue hm _ _ _ h := fun k hk => by cases k <;> first | exact (hk hm).elim | exact h _ hk
  setSramOf hm _ _ _ h := fun k hk => by cases k <;> first | exact (hk hm).elim | exact h _ hk
  setChan hm _ _ _ _ h := fun k hk => by cases k <;> first | exact (hk hm).elim | exact h _ hk
  setDie hm _ _ _ _ h := fun k hk => by cases k <;> first | exact (hk hm).elim | exact h _ hk
  blankSrams hm _  h := fun k hk => by cases k <;> first | exact (hk hm).elim | exact h _ hk
  setSramByte hm _ _ _ _ h := fun k hk => by cases k <;> first | exact (hk hm).elim | exact h _ hk
  clearSram hm _ _ h := fun k hk => by cases k <;> first | exact (hk hm).elim | exact h _ hk
  renewSram hm _ _ _ h := fun k hk => by cases k <;> first | exact (hk hm).elim | exact h _ hk
  setDramStored hm _ _ _ _ _ _ h := fun k hk => by cases k <;> first | exact (hk hm).elim | exact h _ hk
  renewDram hm _ _ _ _ h := fun k hk => by cases k <;> first | exact (hk hm).elim | exact h _ hk
  setTimeOf hm _ _ _ h := fun k hk => by cases k <;> first | exact (hk hm).elim | exact h _ hk
  tick hm _ _ h := fun k hk => by cases k <;> first | exact (hk hm).elim | exact h _ hk
  loadTime hm _ _ h := fun k hk => by cases k <;> first | exact (hk hm).elim | exact h _ hk
  unpowered hm _ _ := fun k hk => (hk (hm k)).elim

end Sys2Proof.Machine
end

