-- ==== Sys2Proof/WellFormed.lean ====
section
/-!
DEFINITION. Well-formed commands: every operand lies in the range that the spec gives it. A unit that a part lacks is
still well formed; its commands leave the state unchanged. A command that is not well formed names no unit of the
family, or a value that no field holds.
-/
namespace Sys2Proof

/-- `w` fits `n` bits. -/
def fits (n w : Nat) : Bool := decide (w < 2 ^ n)

/-- A super of the family: S0 to S7 (R2). -/
def superOk (u : Nat) : Bool := decide (u < 8)

/-- A frame, pod link or scout input of a super: eight of each (R2). -/
def unitOk (u k : Nat) : Bool := superOk u && decide (k < 8)

/-- A DRAM channel of a super (R2). -/
def chanOk (u k : Nat) : Bool := superOk u && decide (k < 2)

/-- A subchannel of a channel (R361). -/
def subOk (u k sub : Nat) : Bool := chanOk u k && decide (sub < 2)

/-- One of a pair: the rings, the eDP outputs, the TE inputs. -/
def pairOk (i : Nat) : Bool := decide (i < 2)

/-- A die-to-die link (R27). -/
def linkOk (i : Nat) : Bool := decide (i < 10)

/-- A ring position (R526). -/
def positionOk (i : Nat) : Bool := decide (i < 32)

/-- A tick of hive time (R78). -/
def tickOk (t : Nat) : Bool := fits 64 t

/-- A register page of the family (R52, R53). -/
def pageOk : Page → Bool
  | .hive => true | .reeve => true | .ivr => true | .host => true | .events => true | .ring => true | .board => true
  | .pll i => decide (i < 4)
  | .hseq => true
  | .hqueue i => decide (i < 2)
  | .frame s f => unitOk s f
  | .pod s f => unitOk s f
  | .scout s k => unitOk s k
  | .sseq s => superOk s
  | .press s => superOk s
  | .queue s i => superOk s && decide (i < 10)
  | .dram s k => chanOk s k
  | .sram s => superOk s
  | .spll s k => superOk s && decide (k < 3)
  | .waggle s => superOk s

/-- A page of a PLL. -/
def pllPageOk (p : Page) : Bool :=
  pageOk p && match p with
    | .pll _ => true
    | .spll _ _ => true
    | _ => false

/-- A stream of the family (R285). -/
def streamOk : StreamId → Bool
  | .frame s f => unitOk s f
  | .scout s => superOk s
  | .mark => true

/-- A queue of the family (R342). -/
def queueOk : QueueId → Bool
  | .super s i => superOk s && decide (i < 10)
  | .hive i => decide (i < 2)

/-- Words of an entry of a queue: eight in the super and drain queues, two in the event queue, otherwise one (R342). -/
def queueWords : QueueId → Nat
  | .super _ 0 => 8
  | .super _ _ => 1
  | .hive 0 => 8
  | .hive _ => 2

/-- A copy of a container arrives on one of the two rings. -/
def copyOk (c : Copy) : Bool := pairOk c.ring

/-- Three samples of the two straps (R637). -/
def strapsOk (l : List Nat) : Bool := l.length == 3 && l.all (fits 2)

/-- A BAR0 offset (R50), and the bytes that follow it there. -/
def bar0Ok (off len : Nat) : Bool := decide (off + len ≤ 0x4000000)

/-- An offset in a memory window of 8 MiB (R71), and the bytes that follow it there. -/
def windowOk (off len : Nat) : Bool := decide (off + len ≤ 0x800000)

/-- A BAR2 offset, for the largest BAR2 (R452). -/
def bar2Ok (off len : Nat) : Bool := decide (off + len ≤ 2 ^ 41)

/-- A training step that identifies a DIMM names a density that the register codes (R362). -/
def stepOk : StepResult → Bool
  | .identified (some d) => decide (d.density < 4) && decide (d.ranks < 3) && fits 4 d.grades
  | .identified none => true
  | .found w => fits 8 w
  | .noSetting => true

/-- Every operand is in range. -/
def Instr.wellFormed : Instr → Bool
  | .registerWrite off bytes _ => bar0Ok off bytes.length
  | .registerRead off len => bar0Ok off len
  | .pageReset p => pageOk p
  | .commit p => pageOk p
  | .discard p => pageOk p
  | .shadowApply p => pageOk p
  | .partialApply p => pageOk p
  | .evForce p bits => pageOk p && fits 32 bits
  | .windowWrite off bytes _ _ => windowOk off bytes.length
  | .bitSetAliasWrite off bytes _ _ => windowOk off bytes.length
  | .bitClearAliasWrite off bytes _ _ => windowOk off bytes.length
  | .windowRead off len _ => windowOk off len
  | .load => true
  | .hiveTimeLoad => true
  | .turnMark tick => tickOk tick
  | .sscChange p => pllPageOk p
  | .pllLock p _ => pllPageOk p
  | .timeAlignMessage u sent => superOk u && tickOk sent
  | .refLost p => pllPageOk p
  | .lockLost p => pllPageOk p
  | .coastLimit p => pllPageOk p
  | .refReturn p _ => pllPageOk p
  | .resumeTry p _ => pllPageOk p
  | .intakeResume u => superOk u
  | .linkRetry u f => unitOk u f
  | .blockLock u f _ => unitOk u f
  | .status u f _ payload => unitOk u f && fits 64 payload
  | .replyTimeout u f => unitOk u f
  | .marker u f _ slot pos laneId mode phase tick =>
    unitOk u f && fits 48 slot && fits 4 pos && fits 2 laneId && fits 2 mode && fits 3 phase && tickOk tick
  | .dataBlock u f _ _ payload _ => unitOk u f && fits 64 payload
  | .typeError u f _ => unitOk u f
  | .idle u f _ => unitOk u f
  | .linkUpAbandon u f => unitOk u f
  | .laneLoss u f _ _ => unitOk u f
  | .laneRetrainRetry u f => unitOk u f
  | .podCmdSend u f => unitOk u f
  | .lateSlot u f => unitOk u f
  | .settlingEnd u k => unitOk u k
  | .scoutTransition u k tick _ => unitOk u k && tickOk tick
  | .resume u k => unitOk u k
  | .counterWrap u f => unitOk u f
  | .counterReload u f => unitOk u f
  | .timerHit u f => unitOk u f
  | .operationEffect u f => unitOk u f
  | .superExit u => superOk u
  | .markForward => true
  | .hiveExit => true
  | .trigOutPulseEnd n => decide (n < 4)
  | .hiveTimerHit => true
  | .trig => true
  | .trigIn pin tick _ => decide (pin < 4) && tickOk tick
  | .waggleLost u _ _ => superOk u
  | .waggleWireFail link => linkOk link
  | .clockPairFail link => linkOk link
  | .arm => true
  | .takeFirstSlot => true
  | .stop => true
  | .takeLastSlot => true
  | .segmentEnd => true
  | .segmentRecord u => superOk u
  | .blockCut i tick _ => streamOk i && tickOk tick
  | .holeEnd i tick => streamOk i && tickOk tick
  | .storeLoss u tick => superOk u && tickOk tick
  | .mBlockAge => true
  | .pressBlock u _ lengths coded _ =>
    superOk u && lengths.all (fits 8) && (coded.getD []).all (fits 32)
  | .queuePush q words _ _ => queueOk q && (words.isEmpty || words.length == queueWords q)
  | .queuePop q corrected uncorrectable => queueOk q && fits 8 corrected && fits 8 uncorrectable
  | .dramWriterPop u corrected uncorrectable => superOk u && fits 512 corrected && fits 512 uncorrectable
  | .dramAccess u k sub _ port _ flaws _ =>
    subOk u k sub && decide (port < 5) && flaws.all (fun e => decide (e.1 < 32))
  | .portHeld u k sub port bank => subOk u k sub && decide (port < 5) && decide (bank < 64)
  | .actWindow u k => chanOk u k
  | .refresh u k => chanOk u k
  | .mr4Read u k code _ => chanOk u k && fits 3 code
  | .powerDown u k sub rank => subOk u k sub && decide (rank < 2)
  | .selfRefreshEntry u k => chanOk u k
  | .selfRefreshExit u k => chanOk u k
  | .rhTableClear u k => chanOk u k
  | .neighbourRefresh u k sub bank row => subOk u k sub && decide (bank < 64) && fits 17 row
  | .scrubRead u k sub flaws => subOk u k sub && flaws.all (fun e => decide (e.1 < 32))
  | .retrain u k => chanOk u k
  | .trainingStepDone u k result => chanOk u k && stepOk result
  | .clearingDone u k => chanOk u k
  | .periodicRetrain u k => chanOk u k
  | .periodicStepAbandon u k => chanOk u k
  | .frequencyChangeRelease p => pllPageOk p
  | .alertN u k => chanOk u k
  | .alertNRelease u k => chanOk u k
  | .commandAcknowledged u k sub => subOk u k sub
  | .layoutSwitch u => superOk u
  | .marchStart u boot _ _ => superOk u && fits 2 boot
  | .marchRetentionWait u => superOk u
  | .marchRunDone u _ => superOk u
  | .bar2Read off len => bar2Ok off len
  | .bar2Write off bytes _ => bar2Ok off bytes.length
  | .reqMajor major => fits 8 major
  | .cmdEnSet => true
  | .cmdEnClear => true
  | .drnEnSet => true
  | .drnEnClear => true
  | .cplEnSet => true
  | .cplEnClear => true
  | .hostCmdPosted tally => fits 32 tally
  | .hostDrnPosted tally => fits 32 tally
  | .commandFetch bytes => bytes.length == 64
  | .fetchTimeout _ => true
  | .nop => true
  | .statusCommand => true
  | .fence => true
  | .drainAbort => true
  | .regWrite => true
  | .badOpcode => true
  | .completionWrite => true
  | .hostCplFreed tally => fits 32 tally
  | .drainDescriptorFetch bytes => bytes.length == 32
  | .drainBlock u => superOk u
  | .functionLevelReset => true
  | .hostLinkLoss => true
  | .linkChanged speed width _ _ => fits 3 speed && fits 5 width
  | .busMasterEnable _ _ => true
  | .eventEnqueue origin => decide (origin < 9)
  | .eventRingWrite corrected uncorrectable => fits 2 corrected && fits 2 uncorrectable
  | .irqModExpire vector => decide (vector < 64)
  | .recordsLost => true
  | .holdoffEnd source => fits 12 source
  | .eventsEnSet => true
  | .eventsEnClear => true
  | .eventsFreed tally => fits 32 tally
  | .hello ring sub data tick => pairOk ring && fits 4 sub && fits 12 data && tickOk tick
  | .leaderElected => true
  | .form position _ => positionOk position
  | .setup copy tally arg => copyOk copy && fits 16 tally && fits 48 arg
  | .path copy dest tally arg => copyOk copy && positionOk dest && fits 16 tally && fits 48 arg
  | .report copy source tally arg => copyOk copy && positionOk source && fits 16 tally && fits 48 arg
  | .hopMeasure ring => pairOk ring
  | .timeLaunch => true
  | .time copy tally t tick => copyOk copy && fits 11 tally && tickOk t && tickOk tick
  | .epochGo => true
  | .epoch copy tally count => copyOk copy && fits 16 tally && fits 48 count
  | .leaderLost => true
  | .flagLaunch ring => pairOk ring
  | .flag copy body => copyOk copy && body.length == 5
  | .flagDelivery => true
  | .containerReturn loop ring => pairOk loop && pairOk ring
  | .hopDown ring cause => pairOk ring && fits 3 cause
  | .brk ring => pairOk ring
  | .unwrap ring => pairOk ring
  | .bypass => true
  | .bypassClose => true
  | .leave copy source tally => copyOk copy && positionOk source && fits 16 tally
  | .mailSend dest argHi => positionOk dest && fits 16 argHi
  | .mail copy source dest tally arg => copyOk copy && positionOk source && positionOk dest && fits 16 tally && fits 48 arg
  | .periodEnd _ _ _ supers _ _ _ => decide (supers.length ≤ 8)
  | .railsOff => true
  | .wearHour => true
  | .reeveWearLoad seconds => fits 20 seconds
  | .trainingSlotGrant u k => chanOk u k
  | .trainingSlotEnd u k => chanOk u k
  | .overVoltage => true
  | .overCurrent => true
  | .railFault rail => decide (rail < 34)
  | .vinHigh => true
  | .vinLow => true
  | .phaseDropped u phase => superOk u && decide (phase < 4)
  | .vstbyLost => true
  | .vstbyReturn => true
  | .uvlo => true
  | .boardApply => true
  | .frameStart => true
  | .edpTrainRetry port => pairOk port
  | .edpTrainingDone port _ => pairOk port
  | .laneStatusPoll port _ => pairOk port
  | .lineBufferFetch => true
  | .underrun line pixel => fits 16 line && fits 16 pixel
  | .lowered => true
  | .te input _ tick => pairOk input && tickOk tick
  | .teMiss => true
  | .frameCrc readA readB => fits 32 readA && fits 32 readB
  | .auxGo port kind lenM1 addr => pairOk port && fits 2 kind && fits 4 lenM1 && fits 20 addr
  | .auxDone result bytes => fits 2 result && decide (bytes.length ≤ 16)
  | .painterColumn _ => true
  | .coldStart _ straps => strapsOk straps
  | .pwrOk => true
  | .patchCheck copyA pseqA copyB pseqB => fits 4 copyA && fits 16 pseqA && fits 4 copyB && fits 16 pseqB
  | .resetNAssert => true
  | .resetNRelease straps => strapsOk straps
  | .vinReturn straps => strapsOk straps
  | .perstNAssert => true
  | .perstNPageReset => true
  | .perstNRelease => true
  | .soft key => fits 8 key
  | .sidebandLoss u _ => superOk u
  | .dieLaneFail link _ => linkOk link
  | .laneRepairDone link _ => linkOk link
  | .smbusPointerWrite addr pointer _ => fits 7 addr && fits 16 pointer
  | .smbusBlockRead addr => fits 7 addr
  | .tapInstruction _ => true
  | .trstN _ => true
  | .waggleFlagsReceivedAgain u _ tick => superOk u && tickOk tick

end Sys2Proof
end

