-- ==== Sys2Proof/Tests/Slice0.lean ====
section
/-!
SUPPORT. Tests: each check of WellFormed refuses an ill-formed command, worked examples of the spec come out as the spec has
them, and every statement with hypotheses has a state and operands that meet them, clause by clause.
-/
set_option Elab.async false
namespace Sys2Proof.Tests
open Sys2Proof Sys2Proof.Machine

/-! ### Small states -/

/-- The page is enabled. -/
def on (p : Page) (s : State) : State := s.putF p R.PAGE_CTRL_ENABLE 1

/-- A take is RUNNING and its first slot has passed. -/
def running (s : State) : State :=
  let t := s.setTakeState 2
  { t with take := { t.take with begun := true } }

/-- Start-up is over. -/
def upOf (s : State) : State := { s with boot := { s.boot with clocks := true, marching := true, trainOwed := [] } }
def up : State := { upOf State.reset with timeRuns := true }

/-- A PLL in a state. -/
def pllIn (p : Page) (st : Nat) (s : State) : State := s.putF p R.PLL_STATUS_STATE st

/-- Page 7, the frames, pods and so on of super 1 stand for the others; register hypotheses are met at `State.reset`. -/
def selects (u : Nat) (s : State) : State := s.putF .hive R.MEMWIN_SEL_SUPER u

/-- A march run of a super. -/
def marching (r : MarchRun) (s : State) : State := s.setSramOf 1 { s.sramOf 1 with run := some r }

/-- The commands' results that the tests ask for. -/
def out1 (c : Instr) (s : State) : State := match exec c s with | .next t => t | _ => s

/-- The command is carried out, or faults. -/
def goesOn (c : Instr) (s : State) : Bool := match exec c s with | .next _ => true | _ => false
def faults (c : Instr) (s : State) : Bool := match exec c s with | .fault .outsideBar => true | _ => false

theorem none_of_nil (a : Nat) (v : Word) : (a, v) ∉ State.reset.held ∧ (a, v) ∉ State.reset.latched :=
  ⟨by simp [State.reset], by simp [State.reset]⟩

/-! ### Witnesses: the whole machine and register pages -/

theorem witness_IdleStepIsOneBeat : State.reset.pending = [] ∧ State.reset.timeRuns = false
    ∧ up.pending = [] ∧ up.timeRuns = true := by decide +kernel
theorem witness_EveryStepKeepsSoundness :
    State.reset.Sound ∧ step State.reset = .next State.reset ∧ up.Sound ∧ ∃ t, step up = .next t := by
  refine ⟨?_, rfl, ?_, _, rfl⟩ <;> unfold State.Sound <;> decide +kernel
theorem witness_CommandsChangeOnlyTheirKinds : goesOn .nop State.reset = true := by decide +kernel
theorem witness_BytesChangeOnlyByStores : goesOn .nop State.reset = true
    ∧ StateKind.sram ∉ touches .nop ∧ StateKind.dram ∉ touches .nop := by decide +kernel
theorem witness_OnlyAccessesBeyondTheBarStop :
    faults (.registerRead 0x3FFFFFD 4) State.reset = true
    ∧ faults (.registerWrite 0x3FFFFFD [1, 2, 3, 4] false) State.reset = true
    ∧ faults (.windowWrite 0x7FFFFF [some 1, some 2] false []) State.reset = true
    ∧ faults (.bitSetAliasWrite 0x7FFFFF [some 1, some 2] false []) State.reset = true
    ∧ faults (.bitClearAliasWrite 0x7FFFFF [some 1, some 2] false []) State.reset = true
    ∧ faults (.windowRead 0x7FFFFD 4 []) State.reset = true
    ∧ faults (.bar2Read 0x3FFFFFFD 4) State.reset = true
    ∧ faults (.bar2Write 0x3FFFFFFF [1, 2] false) State.reset = true := by decide +kernel
theorem witness_RegisterWriteStoresItsBits : State.reset.has (.frame 1 2) = true
    ∧ plainRegister (.frame 1 2) 0x100 = true ∧ pairLow (.frame 1 2) 0x100 = none
    ∧ pairHigh (.frame 1 2) 0x100 = none := by decide +kernel
theorem witness_RegisterWriteStoresItsBits_pair : State.reset.has .hive = true
    ∧ plainRegister .hive R.HIVE_TAKE_PRE_LO_PRE.off = true ∧ pairLow .hive R.HIVE_TAKE_PRE_LO_PRE.off = none
    ∧ pairHigh .hive R.HIVE_TAKE_PRE_LO_PRE.off = some R.HIVE_TAKE_PRE_HI_PRE.off
    ∧ ∀ v, (pageBase .hive + R.HIVE_TAKE_PRE_HI_PRE.off, v) ∉ State.reset.held :=
  ⟨by decide +kernel, by decide +kernel, by decide +kernel, by decide +kernel, fun v => (none_of_nil _ v).1⟩
theorem witness_RegisterPairsWorkAsOne : State.reset.has .hive = true
    ∧ plainRegister .hive R.HIVE_TAKE_PRE_LO_PRE.off = true ∧ plainRegister .hive R.HIVE_TAKE_PRE_HI_PRE.off = true
    ∧ heldRegister .hive R.HIVE_TAKE_PRE_LO_PRE.off = true
    ∧ pairHigh .hive R.HIVE_TAKE_PRE_LO_PRE.off = some R.HIVE_TAKE_PRE_HI_PRE.off
    ∧ ∀ v, (pageBase .hive + R.HIVE_TAKE_PRE_LO_PRE.off, v) ∉ State.reset.latched :=
  ⟨by decide +kernel, by decide +kernel, by decide +kernel, by decide +kernel, by decide +kernel,
    fun v => (none_of_nil _ v).2⟩
theorem witness_RegisterReadAnswersItsWord : State.reset.has (.scout 7 7) = true ∧ heldRegister (.scout 7 7) 0x100 = true
    ∧ (0x100 % 4 = 0 ∧ 0x100 < 0x800 ∧ 0 < 1 ∧ 3 + 1 ≤ 4)
    ∧ (∀ v, (pageBase (.scout 7 7) + 0x100, v) ∉ State.reset.latched)
    ∧ ∀ v, (pageBase (.scout 7 7) + (0x100 + 0x800), v) ∉ State.reset.latched :=
  ⟨by decide +kernel, by decide +kernel, by decide, fun v => (none_of_nil _ v).2, fun v => (none_of_nil _ v).2⟩
/-- The last slot of the hive region, which holds no page, and a scout page of a part without scouts. -/
theorem witness_AbsentPagesAndBadWritesChangeNothing :
    pageAt (windowBase - 4) = none ∧ (windowBase - 4) % 4 = 0
    ∧ pageAt (pageBase (.scout 7 7)) = some (.scout 7 7) ∧ pagePresent .lw8c (.scout 7 7) = false
    ∧ (windowBase - 1 < windowBase ∧ windowBase - 1 + 1 ≤ bar0Size ∧ (windowBase - 1) % 4 ≠ 0) := by decide +kernel
theorem witness_PageResetIsRefusedOrRestoresReset : State.reset.has .ivr = true
    ∧ ((running State.reset).has (.frame 7 7) = true ∧ (running State.reset).inTake = true ∧ dataPage (.frame 7 7) = true)
    ∧ (State.reset.has (.frame 7 7) = true ∧ State.reset.inTake = false) := by decide +kernel
def committed (wait : Nat) (p : Page) (s : State) : State :=
  (s.putF p R.COMMIT_COMMIT 1).putF p R.SHADOW_STATUS_COMMIT_WAIT wait
theorem witness_CommitsAndDiscardsFollowTheShadow :
    (State.reset.has (.sseq 7) = true ∧ plainApply (.sseq 7) = true)
    ∧ ((committed 1 (.sseq 7) State.reset).has (.sseq 7) = true
      ∧ (committed 1 (.sseq 7) State.reset).getF (.sseq 7) R.COMMIT_COMMIT = 1
      ∧ (committed 1 (.sseq 7) State.reset).getF (.sseq 7) R.SHADOW_STATUS_COMMIT_WAIT = 1)
    ∧ ((committed 0 (.frame 7 7) (running State.reset)).getF (.frame 7 7) R.COMMIT_COMMIT = 1
      ∧ plainApply (.frame 7 7) = true ∧ (committed 0 (.frame 7 7) (running State.reset)).has (.frame 7 7) = true
      ∧ (committed 0 (.frame 7 7) (running State.reset)).getF (.frame 7 7) R.SHADOW_STATUS_COMMIT_WAIT = 0) := by
  decide +kernel
theorem witness_ForcedSourcesAreRaised : State.reset.has (.frame 7 7) = true ∧ 0 < evSources (.frame 7 7) := by
  decide +kernel

/-! ### Witnesses: on-chip memory -/

theorem witness_WindowWritesChangeEnabledBytesOnly :
    (State.reset.getF .hive R.MEMWIN_SEL_SUPER = 0 ∧ 0x5FFFFF + 1 ≤ sramSize ∧ State.reset.enabled (.sram 0) = true
      ∧ (State.reset.sramOf 0).bad = [] ∧ (State.reset.sramOf 0).run = none ∧ State.reset.inTake = false)
    ∧ ((selects 7 (running State.reset)).getF .hive R.MEMWIN_SEL_SUPER = 7 ∧ 7 < State.reset.fuse.part.supers
      ∧ (selects 7 (running State.reset)).inTake = true ∧ hostArea 0x380000 = true
      ∧ (selects 7 (running State.reset)).enabled (.sram 7) = true) := by decide +kernel
theorem witness_WindowWritesAreIgnoredWhereTheRulesSay :
    ((selects 8 State.reset).fuse.part.supers ≤ (selects 8 State.reset).getF .hive R.MEMWIN_SEL_SUPER)
    ∧ ((running State.reset).inTake = true ∧ hostArea (0x37FFFF / 8 * 8) = false)
    ∧ ((State.reset.putF (.sram 0) R.PAGE_CTRL_ENABLE 0).enabled (.sram 0) = false)
    ∧ (let s := selects 1 (marching ⟨true, true, false, 0⟩ State.reset)
      s.getF .hive R.MEMWIN_SEL_SUPER = 1 ∧ (s.sramOf 1).run = some ⟨true, true, false, 0⟩) := by decide +kernel
theorem witness_WindowReadsAnswerAndReportErrors :
    (0x7FFFFF + 1 ≤ 0x800000 ∧ (selects 15 State.reset).getF .hive R.MEMWIN_SEL_SUPER = 15)
    ∧ (State.reset.getF .hive R.MEMWIN_SEL_SUPER = 0 ∧ (State.reset.sramOf 0).bad = [])
    ∧ (State.reset.taking = false ∧ 0x5FFFF8 < sramSize ∧ 0x5FFFF8 % 8 = 0 ∧ 0x5FFFF8 ∉ (State.reset.sramOf 0).bad)
    ∧ 0x5FFFF8 ∈ ((State.reset.markSram 0 0x5FFFF8 true).sramOf 0).bad := by decide +kernel
theorem witness_MarchRunsStartWaitAndEnd :
    ((State.reset.sramOf 7).run = none ∧ State.reset.enabled (.sram 7) = true ∧ 7 < State.reset.fuse.part.supers)
    ∧ ((running State.reset).inTake = true)
    ∧ (((marching ⟨true, true, false, 2⟩ State.reset).sramOf 1).run = some ⟨true, true, false, 2⟩)
    ∧ ((marching ⟨true, false, false, 3⟩ up).bootOver
      ∧ ((marching ⟨true, false, false, 3⟩ up).sramOf 1).run = some ⟨true, false, false, 3⟩)
    ∧ ((marching ⟨false, true, false, 0⟩ up).bootOver
      ∧ ((marching ⟨false, true, false, 0⟩ up).sramOf 1).run = some ⟨false, true, false, 0⟩) := by
  unfold State.bootOver; decide +kernel
/-- Four lines to repair in each memory are the most that its spares serve. -/
theorem witness_MarchRunsStartWaitAndEnd_fails :
    ∀ m, (((([] : List (Nat × Nat × Nat × Nat)).filter (fun f => f.1 == m && decide (2 ≤ f.2.2.2))).map
      (fun f => f.2.1)).eraseDups).length ≤ 4 := by intro m; simp

/-! ### Witnesses: hive time and the PLLs -/

theorem witness_HiveTimeLoadsAtABeatBoundary : (running State.reset).inTake = true ∧ State.reset.inTake = false
    ∧ (out1 .load State.reset).loadWanted = some 0
    ∧ ({ State.reset with loadWanted := some (2 ^ 64 - 32) } : State).loadWanted = some (2 ^ 64 - 32) := by decide +kernel
theorem witness_TimeMessageAlignsASuper : up.bootOver ∧ (pllIn (.spll 7 0) 3 up).pllState (.spll 7 0) = 3
    ∧ 7 ∉ up.boot.cutOff ∧ (pllIn (.spll 7 0) 3 up).bootOver
    ∧ (let s := pllIn (.spll 7 0) 3 (up.setPll (.spll 7 0) { up.pll (.spll 7 0) with stepOwed := true })
      s.bootOver ∧ s.pllState (.spll 7 0) = 3 ∧ (s.pll (.spll 7 0)).stepOwed = true) := by
  unfold State.bootOver; decide +kernel
theorem witness_TurnMarksAreLatchedOrCountedEarly : up.hiveTime ≤ 2 ^ 64 - 1 ∧ up.turnAt = none
    ∧ ({ up with turnAt := some 100 } : State).turnAt = some 100 ∧ 100 + 32 ≤ 132 ∧ 131 < 100 + 32
    ∧ ({ up with turnAt := some 100 } : State).hiveTime ≤ 131 := by decide +kernel
def coasting (cause : CoastCause) (p : Page) (s : State) : State :=
  (pllIn p 5 s).setPll p { s.pll p with cause := cause }
def referenced (p : Page) (s : State) : State := s.putF p R.PLL_STATUS_REF_PRESENT 1
theorem witness_PllsCoastResumeOrRelock :
    (up.has (.spll 7 0) = true ∧ isPll (.spll 7 0) = true ∧ up.taking = false)
    ∧ (∀ st, st < 7 → (pllIn (.pll 0) st up).pllState (.pll 0) = st)
    ∧ (let s := referenced (.pll 0) (pllIn (.pll 0) 3 up)
      s.pllState (.pll 0) = 3 ∧ s.getF (.pll 0) R.PLL_STATUS_REF_PRESENT = 1 ∧ s.taking = false)
    ∧ (let s := coasting .reference (.spll 7 2) up
      s.has (.spll 7 2) = true ∧ s.pllState (.spll 7 2) = 5 ∧ (s.pll (.spll 7 2)).cause = .reference)
    ∧ (let s := referenced (.pll 3) (coasting .lock (.pll 3) up)
      s.has (.pll 3) = true ∧ s.pllState (.pll 3) = 5 ∧ (s.pll (.pll 3)).cause = .lock
        ∧ s.getF (.pll 3) R.PLL_STATUS_REF_PRESENT = 1) := by decide +kernel
def poweredUp : State := up.putF .hive R.HIVE_READY_POWER 1
theorem witness_LockCompletesAPllChange :
    (∀ st, st = 1 ∨ st = 2 ∨ st = 6 → st < 7) ∧ poweredUp.bootOver ∧ poweredUp.powerOk = true
    ∧ poweredUp.taking = false ∧ poweredUp.timeRuns = true
    ∧ (pllIn (.pll 0) 1 poweredUp).pllState (.pll 0) = 1
    ∧ (pllIn (.pll 0) 1 poweredUp).getF (.pll 0) R.SHADOW_STATUS_COMMIT_WAIT = 0
    ∧ ((poweredUp.setPll (.pll 0) { poweredUp.pll (.pll 0) with relock := true }).pll (.pll 0)).relock = true
    ∧ ((up.setPll (.spll 7 1) { up.pll (.spll 7 1) with sscWaits := true }).pll (.spll 7 1)).sscWaits = true := by
  refine ⟨by omega, ?_⟩; unfold State.bootOver; decide +kernel
def intakeStopped7 : State :=
  { (pllIn (.spll 7 0) 3 (pllIn (.pll 0) 3 up)).putF (.spll 7 0) R.PLL_TIME_STATUS_ALIGNED 1 with stopped := [(7, 0)] }
theorem witness_IntakeStopsAndResumes :
    (let s := running (pllIn (.spll 7 0) 5 up);
      s.has (.spll 7 0) = true ∧ s.pllState (.spll 7 0) = 5 ∧ s.clockedSupers (.spll 7 0) = [7]
        ∧ isPll (.spll 7 0) = true ∧ s.taking = true)
    ∧ (let s := intakeStopped7
      s.pllState (.pll 0) = 3 ∧ s.pllState (.spll 7 0) = 3 ∧ s.getF (.spll 7 0) R.PLL_TIME_STATUS_ALIGNED = 1
        ∧ s.stopped.any (fun e => e.1 == 7) = true ∧ s.hiveTime + 32 ≤ 2 ^ 64) := by decide +kernel

/-! ### Witnesses: pod links -/

/-- Pod link 7 of super 7, enabled, in a link state, with lanes and fields as asked. -/
def podIn (st version : Nat) (g : PodSt → PodSt) (s : State) : State :=
  let t := ((on (.pod 7 7) s).putF (.pod 7 7) R.POD_LINK_STATUS_STATE st).putF (.pod 7 7) R.POD_LINK_STATUS_VERSION version
  t.setPod 7 7 (g (t.pod 7 7))
def laneUp : LaneSt := { LaneSt.reset with lock := true, marked := true, delivering := true, markAt := some (0, 0), seen := 1 }
theorem witness_LinkUpGoesThroughItsStates :
    (let s := podIn 8 0 (fun x => { x with retryFrom := some 5 }) up;
      (s.pod 7 7).retryFrom = some 5 ∧ s.enabled (.pod 7 7) = true ∧ s.podState 7 7 = 8)
    ∧ (let s := podIn 3 0 (fun x => { x with offerAt := some 5 }) up
      (s.pod 7 7).offerAt = some 5)
    ∧ (let s := podIn 1 0 (fun x => { x with driven := true }) up
      s.enabled (.pod 7 7) = true ∧ (s.pod 7 7).driven = true ∧ s.podState 7 7 = 1
        ∧ ((s.pod 7 7).lane (otherLane (s.laneOf 7 7 .a))).lock = false)
    ∧ (let s := podIn 2 0 (fun x => { x with driven := true, laneB := { x.laneB with lock := true } }) up
      (s.pod 7 7).driven = true ∧ s.podState 7 7 = 2 ∧ ((s.pod 7 7).lane (otherLane (s.laneOf 7 7 .a))).lock = true
        ∧ 2 * s.getF (.pod 7 7) R.POD_LINK_CTRL_VERSIONS ≠ 0
        ∧ 2 * (s.putF (.pod 7 7) R.POD_LINK_CTRL_VERSIONS 0).getF (.pod 7 7) R.POD_LINK_CTRL_VERSIONS = 0)
    ∧ (let s := podIn 4 2 (fun x => { x with driven := true, laneB := { x.laneB with lock := true } }) up
      (s.pod 7 7).driven = true ∧ s.podState 7 7 = 4 ∧ ((s.pod 7 7).lane (otherLane (s.laneOf 7 7 .a))).lock = true)
    ∧ (let s := podIn 6 2 (fun x => { x with driven := true }) up
      (s.pod 7 7).driven = true ∧ s.podState 7 7 = 6) := by decide +kernel
theorem witness_MarkersPlaceLanesAndBringLinksUp :
    (let s := podIn 6 2 (fun x => { x with laneA := { laneUp with expect := some ⟨64, 0, 0⟩ } }) up;
      s.enabled (.pod 7 7) = true ∧ 0 ≤ s.hiveTime ∧ s.linkVersion 7 7 = 2
        ∧ ((s.pod 7 7).lane (s.laneOf 7 7 .a)).lock = true ∧ s.podState 7 7 = 6
        ∧ placeAgrees ((s.pod 7 7).lane (s.laneOf 7 7 .a)).expect 64 0 = true
        ∧ placeAgrees ((s.pod 7 7).lane (s.laneOf 7 7 .a)).expect (2 ^ 48 - 1) 0 = false
        ∧ ((s.pod 7 7).lane (s.laneOf 7 7 .a)).slip = none)
    ∧ (let s := podIn 5 2 (fun x => { x with laneA := { LaneSt.reset with lock := true }, laneB := laneUp }) up
      let l := s.laneOf 7 7 .a
      let x := (s.pod 7 7).lane l
      s.podState 7 7 = 5 ∧ x.lock = true ∧ ((s.pod 7 7).lane (otherLane l)).lock = true
        ∧ ((s.pod 7 7).lane (otherLane l)).marked = true
        ∧ ((s.pod 7 7).setLane l
          (({ x with errors := (false :: x.errors).take 64 }).pass 0 0 0 0 7 0 2 (4 * s.beatNow))).aligned 2 = true)
    ∧ (∀ place ∈ [0, 1000, 2 ^ 48 - 1000],
      let s := podIn 6 2 (fun x => { x with
        laneA := { laneUp with expect := some ⟨place, 0, 0⟩, delivering := true }
        laneB := { laneUp with delivering := true, markAt := some (0, 0) } }) up
      let x := (s.pod 7 7).lane (s.laneOf 7 7 .a)
      let y := (s.pod 7 7).setLane (s.laneOf 7 7 .a)
        (({ x with errors := (false :: x.errors).take 64 }).pass place 0 0 0 0 0 2 (4 * s.beatNow))
      y.laneA.delivering = true ∧ y.laneB.delivering = true ∧ placeAgrees x.expect place 0 = true
        ∧ (match y.skew 2 with
          | none => false
          | some k => if place = 0 then k == 0 else if place = 1000 then 48 < k else k < -48) = true) := by
  decide +kernel
/-- STATUS payloads with a good CRC: ACK_DATA of tally 5, UNSOLICITED, and one whose CRC is wrong. -/
def statusWord (tally code data : Nat) : Nat :=
  let p := tally <<< 52 ||| code <<< 48 ||| data <<< 16
  p ||| crc8 ((leBytes 8 p).drop 2).reverse <<< 8
theorem witness_PodCommandsAreAnsweredOrTimeOut :
    (let s := podIn 7 2 id up;
      s.getF (.pod 7 7) R.POD_CMD_CTRL_BUSY = 0 ∧ s.podState 7 7 = 7 ∧ (s.pod 7 7).cmd = none)
    ∧ (up.podState 7 7 = 0 ∧ (up.putF (.pod 7 7) R.POD_CMD_CTRL_BUSY 1).getF (.pod 7 7) R.POD_CMD_CTRL_BUSY = 1)
    ∧ (statusGood (statusWord 0 15 7) = true ∧ bitsOf (statusWord 0 15 7) 51 48 = 15)
    ∧ (∀ code, code = 0 ∨ code = 1 ∨ code = 3 ∨ code = 6 → statusGood (statusWord 4095 code 9) = true
        ∧ bitsOf (statusWord 4095 code 9) 51 48 = code ∧ bitsOf (statusWord 4095 code 9) 63 52 = 4095)
    ∧ ((podIn 6 2 (fun x => { x with cmd := some ⟨0, 1, 4095, 3⟩ }) up).pod 7 7).cmd = some ⟨0, 1, 4095, 3⟩
    ∧ statusGood 0x100 = false
    ∧ (∀ kind, kind < 5 → ((podIn 6 2 (fun x => { x with cmd := some ⟨kind, 1, 0, 3⟩ }) up).pod 7 7).cmd
        = some ⟨kind, 1, 0, 3⟩)
    ∧ (podIn 6 2 (fun x => { x with cmd := some ⟨4, 1, 0, 3⟩ }) up).podUp 7 7 = true := by
  refine ⟨by decide +kernel, by decide +kernel, by decide +kernel, ?_, by decide +kernel, by decide +kernel,
    by decide +kernel, by decide +kernel⟩
  rintro code (rfl | rfl | rfl | rfl) <;> decide +kernel
theorem witness_BlocksDeliverTheirSlots : ∀ v, v = 1 ∨ v = 2 →
    let s := podIn 6 v (fun x => { x with laneA := laneUp }) up
    s.enabled (.pod 7 7) = true ∧ s.linkVersion 7 7 = v ∧ ((s.pod 7 7).lane (s.laneOf 7 7 .a)).delivering = true
      ∧ ((s.pod 7 7).lane (s.laneOf 7 7 .a)).mode = 0 ∧ 32 * 0 ≤ s.hiveTime
      ∧ (((s.pod 7 7).lane (s.laneOf 7 7 .a)).errors.filter id).length < 15 := by
  rintro v (rfl | rfl) <;> decide +kernel
theorem witness_LanesAreLostAndRetrained :
    (let s := podIn 6 2 (fun x => { x with laneA := laneUp, laneB := laneUp }) up;
      ((s.pod 7 7).lane (s.laneOf 7 7 .a)).delivering = true ∧ s.podUp 7 7 = true
        ∧ ((s.pod 7 7).lane (otherLane (s.laneOf 7 7 .a))).delivering = true)
    ∧ (let s := podIn 7 2 (fun x => { x with laneA := laneUp }) up
      ((s.pod 7 7).lane (s.laneOf 7 7 .a)).delivering = true ∧ s.podUp 7 7 = true
        ∧ ((s.pod 7 7).lane (otherLane (s.laneOf 7 7 .a))).delivering = false)
    ∧ (let s := (podIn 7 2 (fun x => { x with retryFrom := some 5 }) up).putF (.pod 7 7) R.POD_LINK_CTRL_AUTO_RETRAIN 1
      (s.pod 7 7).retryFrom = some 5 ∧ s.podState 7 7 = 7 ∧ s.getF (.pod 7 7) R.POD_LINK_CTRL_AUTO_RETRAIN = 1
        ∧ (s.pod 7 7).cmd = none) := by decide +kernel

/-! ### Witnesses: cells, scouts and pattern words -/

/-- A pattern word that reads cells 0 and 31: cell 31 by its match, cell 0 by its edge. -/
def word31 : WordSet := ⟨2 ^ 31, 2 ^ 31, 1, 0, false, 0, 0, false, 0, 0, false, 0, false, false⟩
theorem witness_PatternWordsFollowTheirTerms : word31.rangeOp < 4 ∧ word31.edgeLo < 2 ^ 32 ∧ word31.edgeHi < 2 ^ 32
    ∧ word31.mask < 2 ^ 32 ∧ word31.busMask < 2 ^ 32 ∧ (CellOut.mk 0 0 0 (2 ^ 32 - 1) true).present < 2 ^ 32
    ∧ (bitOf (CellOut.mk 0 0 0 1 true).present 31 = false ∧ bitOf word31.mask 31 = true)
    ∧ (∀ c, c < 32 → bitOf (CellOut.mk 0 0 0 (2 ^ 32 - 1) true).present c = true) := by decide +kernel
theorem witness_QualifiersCountersAndTimersUpdate :
    (65535 ≤ 65535 ∧ 2 ^ 48 - 1 < 2 ^ 48 ∧ (Counter.mk (2 ^ 48 - 1) false false).paused = false
      ∧ (TimerSet.mk 0 0 0 0 false 0).limit = 0 ∧ 0 < (TimerSet.mk 0 0 1 0 true 1).limit
      ∧ (Timer.mk 0 true false).running = true ∧ (Timer.mk 0 false false).running = false ∧ (0 : Nat) < 2 ^ 48 - 1)
    ∧ (State.reset.isSet .hseq (R.SEQ_HT_CTRL_MODE 3) = false ∧ 3 < 4) := by decide +kernel
/-- Frame 7 of super 7, enabled, fed by a lane that has delivered nothing. -/
def frameOn (g : FrameSt → FrameSt) (s : State) : State :=
  let t := on (.frame 7 7) (podIn 7 2 (fun x => { x with laneA := laneUp }) s)
  t.setFrame 7 7 (g (t.frame 7 7))
theorem witness_LateSlotsAreTakenAndCounted :
    (let s := frameOn id up;
      let n := (s.frame 7 7).next
      s.enabled (.frame 7 7) = true ∧ s.delivered 7 7 n = false ∧ s.intakeStopped 7 n = false ∧ s.slotInTake n = false
        ∧ s.take.begun = false) := by decide +kernel
/-- A slot of a take at which counter 0 wraps, counter 1 reloads, timer 0 reaches its limit and an operation takes effect. -/
def eventful : State :=
  frameOn (fun x => { x with
      eval := [⟨9, true, 0, 0, 0⟩], ops := [⟨9, 0⟩]
      counters := [⟨2 ^ 48 - 1, false, false⟩, ⟨0, false, false⟩, ⟨0, false, false⟩, ⟨0, false, false⟩]
      timers := List.replicate 4 ⟨0, false, false⟩ })
    ((((running up).putF (.frame 7 7) (R.FRAME_CNT_CTRL_INC_KIND 0) 1).putF (.frame 7 7)
      (R.FRAME_CNT_CTRL_INC_KIND 1) 1).putF (.frame 7 7) (R.FRAME_CNT_CTRL_MODE 1) 1
      |>.putF (.frame 7 7) (R.FRAME_CNT_CMP_LO_CMP 1) 1 |>.putF (.frame 7 7) (R.FRAME_CNT_CMP_HI_CMP 1) 0
      |>.putF (.frame 7 7) (R.FRAME_TMR_LIM_LO_LIM 0) 0 |>.putF (.frame 7 7) (R.FRAME_TMR_LIM_HI_LIM 0) 0)
theorem witness_EventfulSlotsAreWorkedOn :
    (eventful.frame 7 7).eval = [⟨9, true, 0, 0, 0⟩] ∧ eventful.slotInTake 9 = true
    ∧ eventful.slotShows 7 7 0 = true ∧ eventful.slotShows 7 7 1 = true
    ∧ eventful.slotShows 7 7 2 = true ∧ eventful.slotShows 7 7 3 = true := by decide +kernel
/-- Scout 7 of super 7. -/
def scoutOn (g : ScoutSt → ScoutSt) (s : State) : State :=
  let t := on (.scout 7 7) s
  t.setScout 7 7 (g (t.scout 7 7))
def scoutStream (s : State) : State := s.setStream (.scout 7) { s.stream (.scout 7) with present := true }
theorem witness_ScoutsGiveEdgesSettleAndResume :
    (up.fuse.part.hasScouts = true ∧ up.hiveTime ≤ 2 ^ 64 - 1 ∧ (up.scout 7 7).level ≠ true
      ∧ up.enabled (.scout 7 7) = false ∧ (scoutOn id up).enabled (.scout 7 7) = true
      ∧ ((scoutOn id up).scout 7 7).level ≠ true ∧ (scoutOn id up).getF (.scout 7 7) R.SCOUT_STATUS_SETTLING = 0
      ∧ edgeChosen 3 true = true)
    ∧ (let s := up.putF (.scout 7 7) R.SCOUT_STATUS_SETTLING 1
      s.getF (.scout 7 7) R.SCOUT_STATUS_SETTLING = 1 ∧ (s.stream (.scout 7)).present = false
        ∧ ((scoutStream s).stream (.scout 7)).present = true
        ∧ (scoutStream s).getF (.scout 7 7) R.SCOUT_STATUS_SETTLING = 1)
    ∧ (let s := scoutStream (scoutOn (fun x => { x with suspend := .overrun, bucket := 2 ^ 40 }) up)
      let x := s.scout 7 7
      let m := s.stream (.scout 7)
      s.resumeTick 7 7 m.formed = some m.formed ∧ x.suspend = .overrun ∧ m.present = true ∧ x.raw = [] ∧ m.gates = []
        ∧ s.take.scoutPauses = [] ∧ s.take.closing = [] ∧ m.hole = none ∧ m.first ≤ m.formed ∧ s.enabled (.scout 7 7) = true
        ∧ s.stopped.all (fun e => e.1 != 7) = true ∧ s.hiveTime < 2 ^ 63 ∧ m.formed < 2 ^ 63) := by decide +kernel

/-! ### Witnesses: sequencers, balls of the trigger path and the waggle network -/

/-- Sequencer `u` runs at slot or beat 36 of a take, and its exit 0 of level 0 is always true. -/
def exitOpen (u : Nat) (s : State) : State :=
  let p := seqPage u
  let t := ((on p (running s)).putF p (R.SEQ_COND_TT 0) 0xFFFF).putF p (R.SEQ_COND_EN 0) 1
  t.setSeq u { t.seq u with running := true, next := 36 }
theorem witness_SuperExitsIssueTheirActions :
    let s := exitOpen 7 up
    s.has (.sseq 7) = true ∧ (s.seq 7).running = true
      ∧ (let t := (s.advanceTo (32 * ((s.seq 7).next / 4 + 9))).settleSeqs
        t.superReady 7 (t.seq 7).next = true ∧ t.superExitAt 7 (t.seq 7).next = some (0, 8 * 36) ∧ (t.seq 7).level < 16) := by
  decide +kernel
/-- At a limit of 0 a hive timer's flag rises at once. -/
def timerAt (s : State) : State :=
  let t := running s
  ((t.setSeq 8 { t.seq 8 with running := true, next := 36, timers := List.replicate 4 ⟨0, false, false⟩ }).putF .hseq
    (R.SEQ_HT_LIM_LO_LIM 3) 0).putF .hseq (R.SEQ_HT_LIM_HI_LIM 3) 0
theorem witness_HiveBeatsPassWithTheirActions :
    (let s := exitOpen 8 up;
      (s.seq 8).running = true
      ∧ (let t := (s.advanceTo (32 * ((s.seq 8).next + 19))).settleSeqs
        t.hiveReady (t.seq 8).next = true ∧ t.hiveExitAt (t.seq 8).next = some (0, 32 * 36) ∧ (t.seq 8).level < 16))
    ∧ (let s := timerAt up
      (s.seq 8).running = true
      ∧ (let t := (s.advanceTo (32 * ((s.seq 8).next + 19))).settleSeqs
        t.hiveReady (t.seq 8).next = true ∧ t.hiveExitAt (t.seq 8).next = none ∧ t.hiveTimerRises = true))
    ∧ (∀ stop ∈ [1887, 1888],
      let s := ({ exitOpen 8 up with trigOut := [(0, (true, some stop))] }).putF .hseq (R.SEQ_HACT_TO_OP 0) 1
      let t := (s.advanceTo (32 * ((s.seq 8).next + 19))).settleSeqs
      t.hiveExitAt (t.seq 8).next = some (0, 32 * 36) ∧ (t.seq 8).level = 0 ∧ t.getF .hseq (R.SEQ_HACT_TO_SEL 0) = 0
        ∧ t.getF .hseq (R.SEQ_HACT_TO_OP 0) = 1 ∧ sget (fun _ => (false, none)) t.trigOut 0 = (true, some stop)
        ∧ max (32 * 36) (32 * (t.seq 8).next) + 736 = 1888) := by
  decide +kernel
def mark : MarkRec := ⟨1, 5, 8, 0, 0, 0, 0, 0⟩
def marked (s : State) : State :=
  let t := s.setSeq 8 { s.seq 8 with marks := [mark] }
  t.setStream .mark { t.stream .mark with present := true, marks := List.replicate 125 mark }
theorem witness_MarksAndBallsOfTheTriggerPath :
    (let s := marked (running up);
      s.take.system = [] ∧ s.take.waiting = [] ∧ (s.stream .mark).present = true ∧ s.toMark.markTurn = some 8
        ∧ (s.seq 8).marks = [mark] ∧ (s.seq 8).dropped = none ∧ s.takeState ≠ 4 ∧ (s.stream .mark).marks.length < 126)
    ∧ (up.pinLevel 3 (2 ^ 64 - 1) ≠ true)
    ∧ (let s : State := { up with trigOut := [(3, (true, some (2 ^ 64 - 1)))] }
      (sget (fun _ => (false, none)) s.trigOut 3).2 = some (2 ^ 64 - 1)
        ∧ (sget (fun _ => (false, none)) s.trigOut 3).1 = true ∧ s.hiveTime ≤ 2 ^ 64 - 1) := by decide +kernel
def lostRun (n : Nat) (s : State) : State := s.setSide 7 ((s.side 7).setRun true (some (100, n)))
theorem witness_WaggleLossesAreCountedAndRecorded :
    (up.has (.waggle 7) = true ∧ 7 ≠ 0 ∧ (up.side 7).run true = none)
    ∧ ((((lostRun 1022 up).side 7).run true = some (100, 1022)) ∧ 100 + 1022 = 1122 ∧ 1022 < 1023)
    ∧ ((lostRun 1023 (running up)).taking = true ∧ ((lostRun 1023 (running up)).side 7).run true = some (100, 1023)
      ∧ 100 + 1023 = 1123)
    ∧ (linkPresent .lw8f 9 = true ∧ linkPresent .lw8f 6 = true ∧ clockHop 6 = true
      ∧ up.isSet .hive (R.HIVE_LINK_CLK_ONE 6) = false) := by decide +kernel

/-! ### Witnesses: takes, the store and the Press -/

/-- A command of the ring with opcode `op`, alone in its queue, under HIF 3. -/
def cmdOf (op : Nat) : HostCmd := ⟨0, leBytes 4 0 ++ [BitVec.ofNat 8 op] ++ List.replicate 59 0, false⟩
def queued (op : Nat) (s : State) : State :=
  let t := s.putF .host R.HOST_HIF_ACTIVE_MAJOR 3
  { t with host := { t.host with accepted := [cmdOf op] } }
theorem ready (op : Nat) (s : State) (h1 : s.host.accepted = [cmdOf op]) (h2 : s.host.waiting = []) (h3 : s.host.fence = none)
    (h4 : (cmdOf op).opcode = op) (h5 : s.opcodeKnown op = true) (h6 : (cmdOf op).clean = true) :
    s.commandReady op (cmdOf op) [] :=
  ⟨h1, h2, h3, rfl, h4, h5, h6, show 0 < 2 ^ 32 by decide, by simp⟩
/-- Every super aligned, and both channels of S0 READY with 16 GiB each. -/
def armable : State :=
  let s := queued 1 ((List.range 8).foldl (fun s u => (s.putF (.spll u 0) R.PLL_TIME_STATUS_ALIGNED 1).putF
    (.sram u) R.PAGE_STATUS_READY 1) up)
  let s := [0, 1].foldl (fun (s : State) k =>
    (s.putF (.dram 0 k) R.DRAM_TRAIN_STATUS_STATE 4).putF (.dram 0 k) R.DRAM_CFG_CAP_GIB 16) s
  s.setStore 0 { s.store 0 with layout := 3 }
def costly (s : State) : State := { s with reeve := { s.reeve with sustain := 0 } }
theorem witness_ArmAndStopAreAnswered :
    (armable.commandReady 1 (cmdOf 1) [] ∧ armable.armChecks = none ∧ armable.powerAllows = true)
    ∧ ((queued 1 up).commandReady 1 (cmdOf 1) [] ∧ (queued 1 up).armChecks = some (4, 0))
    ∧ ((costly armable).armChecks = none ∧ (costly armable).powerAllows = false)
    ∧ ((queued 2 (up.setTakeState 1)).commandReady 2 (cmdOf 2) [] ∧ (queued 2 (up.setTakeState 1)).takeState = 1)
    ∧ ((queued 2 (running up)).commandReady 2 (cmdOf 2) [] ∧ (queued 2 (running up)).taking = true
      ∧ (queued 2 (running up)).take.last = none)
    ∧ ((queued 2 up).commandReady 2 (cmdOf 2) [] ∧ (queued 2 up).inTake = false) := by
  refine ⟨⟨ready 1 _ ?_ ?_ ?_ ?_ ?_ ?_, ?_⟩, ⟨ready 1 _ ?_ ?_ ?_ ?_ ?_ ?_, ?_⟩, ?_,
    ⟨ready 2 _ ?_ ?_ ?_ ?_ ?_ ?_, ?_⟩, ⟨ready 2 _ ?_ ?_ ?_ ?_ ?_ ?_, ?_⟩, ready 2 _ ?_ ?_ ?_ ?_ ?_ ?_, ?_⟩ <;>
  decide +kernel
def clocked (s : State) : State :=
  ((List.range 8).foldl (fun s u => (pllIn (.spll u 0) 3 s).putF (.spll u 0) R.PLL_TIME_STATUS_ALIGNED 1) (pllIn (.pll 0) 3 s))
def lastOf (n : Nat) (r : Nat) (s : State) : State := { s with take := { s.take with last := some (n, r) } }
def segLastOf (n : Nat) (e : Nat) (s : State) : State := { s with take := { s.take with segLast := some (n, e) } }
theorem witness_TakesBeginAndEnd :
    (let s := clocked (up.setTakeState 1);
      s.takeState = 1 ∧ s.hiveTime ≤ 8 * s.take.first ∧ 8 * s.take.first < 2 ^ 64 ∧ s.take.system = [] ∧ s.take.waiting = []
        ∧ ∀ u, u < 8 → (s.advanceTo (8 * s.take.first)).intakeOff u = false ∧ s.storeDisabled u = false)
    ∧ (let s := segLastOf 99 1 ((running up).putF .hive R.HIVE_TAKE_SEGS_SEGS_M1 1)
      s.segmentEnding = some (99, 1) ∧ s.taking = true)
    ∧ (let s := lastOf 99 2 (running up)
      s.segmentEnding = none ∧ s.take.last = some (99, 2) ∧ s.taking = true) := by decide +kernel
/-- The frame stream 7 of super 7 with one slot kept whose value differs from the base, and a limit of no words. -/
def openFrame : State :=
  let s := ((on (.press 7) (running up)).putF (.press 7) R.PRESS_CTRL_F_CODING 1).setStream (.frame 7 7)
    { (up.stream (.frame 7 7)) with present := true, slots := (List.range 40).map (fun n => ⟨n, n % 2, true, 0, 0, false, false⟩) }
  (s.putF (.frame 7 7) R.FRAME_STORE_CTRL_MODE 2).setFrame 7 7 { s.frame 7 7 with next := 40 }
theorem witness_StreamsKeepTheirRecords :
    (let s := marked ((running up).setStore 7 { up.store 7 with owed := [⟨0, 8, 1, none⟩] });
      (s.store 7).owed = [⟨0, 8, 1, none⟩] ∧ s.pendingBlocks 7 0 = false ∧ (s.stream .mark).present = true
        ∧ s.take.waiting = [] ∧ s.take.system.length < 64)
    ∧ (let s := openFrame
      s.has (.frame 7 7) = true ∧ (s.stream (.frame 7 7)).present = true ∧ (s.stream (.frame 7 7)).hole = none
        ∧ s.storeLost 7 = false
        ∧ (let t := s.catchUp 7 7
          let r := t.cutFrame 7 7 (max 8 8) (max (t.stream (.frame 7 7)).first (min (320 / 8 * 8) (8 * (t.frame 7 7).next))) false
          r.1 = false ∧ (r.2.stream (.frame 7 7)).first ≠ (t.stream (.frame 7 7)).first))
    ∧ (let s := (running up).setStream (.scout 7) { up.stream (.scout 7) with present := true, hole := some (32, false) }
      (s.stream (.scout 7)).hole = some (32, false) ∧ (s.stream (.scout 7)).present = true ∧ 32 % 32 = 0
        ∧ s.builderAt (.scout 7) ≤ 32 ∧ s.stopped.any (fun e => e.1 == 7) = false)
    ∧ (let s := (running up).setStore 7 { up.store 7 with lossFrom := some (32, 1) }
      (s.store 7).lossFrom = some (32, 1) ∧ s.taking = true ∧ s.storeDisabled 7 = false)
    ∧ (let s := marked (running up)
      (s.stream .mark).present = true ∧ (s.stream .mark).marks ≠ [] ∧ s.storeLost 0 = false
        ∧ s.hiveTime ≤ (s.stream .mark).markSince + max 1 (s.getF .hive R.HIVE_TAKE_MARK_AGE_US) * 12800
        ∧ (s.stream .mark).markSince + max 1 (s.getF .hive R.HIVE_TAKE_MARK_AGE_US) * 12800
          ≤ (s.stream .mark).first + 2 ^ 31 - 1) := by decide +kernel
/-- A block of a frame stream that waits for the Press, and one whose 60 words code well. -/
def cutOf (n : Nat) : CutBlock :=
  ⟨.frame 7 7, 0, 0, 8 * n, 0, false, false, false, 0,
    (List.range n).map (fun i => ⟨i, i / 16 % 2, true, 0, 0, false, true⟩), [], [], [], []⟩
def pressing (b : CutBlock) : State :=
  let s := (on (.press 7) up).putF (.press 7) R.PRESS_CTRL_F_CODING 1
  s.setStore 7 { s.store 7 with cut := [b] }
def codedOf (b : CutBlock) : List Nat := encodePress true 0 b.base b.rawPayload.1 b.rawPayload.2 []
theorem witness_PressCodesVerifiesAndStores :
    (∀ n, n = 3 ∨ n = 60 → (pressing (cutOf n)).has (.press 7) = true
      ∧ takeCut true ((pressing (cutOf n)).store 7).cut = some (cutOf n, []) ∧ streamSuper (cutOf n).stream = 7
      ∧ (pressing (cutOf n)).codingOf (cutOf n).stream = 1
      ∧ (pressing (cutOf n)).lossySettings (cutOf n).stream = (0, 0))
    ∧ (let b := cutOf 60
      decodePayload true false 0 b.base b.rawPayload.1 b.rawPayload.2.length (codedOf b) = some (b.rawPayload.2, [])
        ∧ 4 * (codedOf b).length + 64 < 4 * b.rawPayload.2.length ∧ (codedOf b).length ≤ 1008)
    ∧ (let b := cutOf 3
      decodePayload true false 0 b.base b.rawPayload.1 b.rawPayload.2.length (codedOf b) = some (b.rawPayload.2, [])
        ∧ ¬ 4 * (codedOf b).length + 64 < 4 * b.rawPayload.2.length)
    ∧ decodePayload true false 0 0 (cutOf 3).rawPayload.1 (cutOf 3).rawPayload.2.length [0, 0] = none := by
  refine ⟨?_, by decide +kernel, by decide +kernel, by decide +kernel⟩
  rintro n (rfl | rfl) <;> decide +kernel
theorem witness_StaticTableBlocksDecodeToTheirWords : (∀ w ∈ [2 ^ 32 - 1, 0], w < 2 ^ 32)
    ∧ ((wordBytes [2 ^ 32 - 1, 0]).flatMap (tableBits (canonicalCodes staticLengths))).length < 2 ^ 16
    ∧ decodePayload true true 0 0 0 2 (encodeTable none [2 ^ 32 - 1, 0]) = some ([2 ^ 32 - 1, 0], []) := by decide +kernel

/-! ### Witnesses: queues and DRAM -/

/-- Channel 1 of super 7 in a state of its training. -/
def channelIn (st : Nat) (s : State) : State := s.putF (.dram 7 1) R.DRAM_TRAIN_STATUS_STATE st
def chanOf (f : ChanSt → ChanSt) (s : State) : State := s.setChan 7 1 (f (s.chan 7 1))
def subOf (f : SubSt → SubSt) : State → State := chanOf (fun x => { x with subA := f x.subA })
def holding (q : QueueId) (n : Nat) (s : State) : State :=
  s.setQueue q ⟨List.replicate n ⟨List.replicate (entryWords q) 1, false⟩, false, false, 0⟩
/-- A block on its way to the queue (what its bytes are does not matter here). -/
def outBlock : OutBlock := { segment := 0, first := 100, stop := 500, stream := 0x1001, bytes := [], poison := [] }
def outOf (pushed : Nat) (s : State) : State := s.setStore 7 { s.store 7 with out := [outBlock], pushed := pushed }
theorem notSuperQueue (u i : Nat) : ∀ v, QueueId.super u (i + 1) ≠ .super v 0 := by simp
theorem witness_QueuesTakeAndGiveInOrder :
    (up.hasQueue (.super 7 1) = true ∧ (∀ v, QueueId.super 7 1 ≠ .super v 0) ∧ QueueId.super 7 1 ≠ .hive 1
      ∧ (up.queue (.super 7 1)).depth + entryWords (.super 7 1) + 0 ≤ usableWords (.super 7 1)
      ∧ up.queueFull (.super 7 1) = false)
    ∧ (let n := usableWords (.super 7 9) / entryWords (.super 7 9)
      (holding (.super 7 9) n up).hasQueue (.super 7 9) = true ∧ (∀ v, QueueId.super 7 9 ≠ .super v 0)
        ∧ ((holding (.super 7 9) n up).queue (.super 7 9)).atStart = false
        ∧ (holding (.super 7 9) n up).queueFull (.super 7 9) = true)
    ∧ (∀ n, n = 0 ∨ n = 63 → (outOf n up).hasQueue (.super 7 0) = true ∧ ((outOf n up).store 7).out = [outBlock]
      ∧ ((outOf n up).store 7).pushed < 64 ∧ (outOf n up).queueFull (.super 7 0) = false)
    ∧ (let s := holding (.super 7 0) (usableWords (.super 7 0) / entryWords (.super 7 0)) (outOf 0 up)
      s.hasQueue (.super 7 0) = true ∧ (s.store 7).out = [outBlock] ∧ (s.store 7).pushed < 64
        ∧ s.queueFull (.super 7 0) = true)
    ∧ ((holding (.super 7 1) 1 up).hasQueue (.super 7 1) = true
      ∧ ((holding (.super 7 1) 1 up).queue (.super 7 1)).entries = [⟨List.replicate (entryWords (.super 7 1)) 1, false⟩]
      ∧ 0 < 2 ^ (List.replicate (entryWords (.super 7 1)) 1).length)
    ∧ (up.hasQueue (.super 7 9) = true ∧ (up.queue (.super 7 9)).entries = [])
    ∧ (let s := holding (.super 7 0) 64 (up.setStore 7 { up.store 7 with queued := [outBlock], partSize := 10, layout := 3 })
      7 < s.fuse.part.supers ∧ s.writerReady 7 = true ∧ (s.store 7).queued = [outBlock] ∧ outBlock.givenUp = false
        ∧ outBlock.poison = [] ∧ (s.store 7).popped = 0 ∧ (s.store 7).popBad = []
        ∧ 64 ≤ (s.queue (.super 7 0)).entries.length ∧ s.layout 7 = 3) := by
  refine ⟨⟨?_, notSuperQueue 7 0, ?_⟩, ⟨?_, notSuperQueue 7 8, ?_⟩, ?_, ?_, ?_, ?_, ?_⟩
  case refine_3 => decide +kernel
  case refine_5 => rintro n (rfl | rfl) <;> decide +kernel
  all_goals decide +kernel
theorem noHold (s : State) (u k sub : Nat) (h : ((s.chan u k).sub sub).acts = []) (h2 : s.actMax u k ≠ 0) :
    ∀ p b, s.portHeld u k sub p b = false := by
  intro p b
  have h3 : ¬ s.actMax u k = 0 := h2
  simp [State.portHeld, State.actsOf, h, sget]
  omega
def writeReq : WriteReq := ⟨0, 8, 192, List.replicate 64 5, []⟩
def writesOf (s : State) : State := subOf (fun y => { y with wq := [writeReq], writing := true }) s
def scrubs (s : State) : State :=
  ((channelIn 4 s).putF (.dram 7 1) R.DRAM_SCRUB_EN 1).putF (.dram 7 1) R.DRAM_SCRUB_PACE 1
theorem witness_DramAccessesAreScheduledAndCounted :
    (let s := writesOf (channelIn 4 up);
      s.has (.dram 7 1) = true ∧ s.chanIssues 7 1 = true
        ∧ ((s.chan 7 1).sub 0).wq.find? (fun q => q.piece == 8) = some writeReq
        ∧ (∀ port' bank', s.portHeld 7 1 0 port' bank' = false)
        ∧ s.dueRows 7 1 0 (bankOf (s.rankBits 7 1) 8).index = []
        ∧ (((s.settleMode 7 1 0 true).chan 7 1).sub 0).writing = true ∧ writeReq.start % 8 = 0
        ∧ writeReq.bytes.length % 8 = 0 ∧ writeReq.start + writeReq.bytes.length ≤ 256 ∧ writeReq.poison = [])
    ∧ (let s := scrubs up
      s.chanIssues 7 1 = true ∧ ((s.chan 7 1).sub 1).wq = [] ∧ ((s.chan 7 1).sub 1).rq = [] ∧ (s.chan 7 1).flaws = []
        ∧ (∀ port' bank', s.portHeld 7 1 1 port' bank' = false) ∧ s.dueRows 7 1 1 (bankOf (s.rankBits 7 1) 8).index = []
        ∧ s.isSet (.dram 7 1) R.DRAM_PANIC_STAT_PANIC = false ∧ s.getF (.dram 7 1) R.DRAM_SCHED_WR_HI ≠ 0
        ∧ s.isSet (.dram 7 1) R.DRAM_SCRUB_EN = true ∧ s.isSet (.dram 7 1) R.DRAM_SCRUB_PACE = true
        ∧ s.isSet (.dram 7 1) R.DRAM_KNOBS_SCRUB_PAUSED = false
        ∧ s.dueRows 7 1 1 (bankOf (s.rankBits 7 1) ((s.chan 7 1).sub 1).scrubAt).index = [])
    ∧ (let s := subOf (fun y => { y with acts := [(64 * 4 + 5, 99999)] }) up
      s.portHeld 7 1 0 4 5 = true ∧ bitOf (s.chan 7 1).heldNow 4 = false ∧ (s.chan 7 1).heldNow = 0
        ∧ (s.chan 7 1).heldBefore = 0)
    ∧ up.hiveTime < 2 ^ 63
    ∧ (let s := subOf (fun y => { y with rows := [(5, [(8, 3), (7, 100000)])] }) (channelIn 4 up)
      s.chanState 7 1 = 4 ∧ s.rhThresh 7 1 ≤ 100000
        ∧ (sget (fun _ => []) ((s.chan 7 1).sub 0).rows 5).find? (fun e => e.1 == 7) = some (7, 100000)) := by
  refine ⟨⟨?_, ?_, ?_, noHold _ _ _ _ ?_ ?_, ?_⟩, ⟨?_, ?_, ?_, ?_, noHold _ _ _ _ ?_ ?_, ?_⟩, ?_, ?_, ?_⟩ <;> decide +kernel
def panics (owed : Nat) (s : State) : State :=
  (s.putF (.dram 7 1) R.DRAM_PANIC_STAT_PANIC 1).putF (.dram 7 1) R.DRAM_REF_STATUS_OWED owed
theorem witness_RefreshPowerAndReplay :
    (let s := channelIn 4 up;
      s.has (.dram 7 1) = true ∧ s.chanState 7 1 = 4 ∧ s.inSelfRefresh 7 1 = false
        ∧ s.isSet (.dram 7 1) R.DRAM_PANIC_STAT_PANIC = false)
    ∧ (∀ n, n = 3 ∨ n = 4 → (panics n (channelIn 4 up)).chanState 7 1 = 4
      ∧ (panics n (channelIn 4 up)).inSelfRefresh 7 1 = false
      ∧ (panics n (channelIn 4 up)).isSet (.dram 7 1) R.DRAM_PANIC_STAT_PANIC = true
      ∧ (panics n (channelIn 4 up)).getF (.dram 7 1) R.DRAM_REF_STATUS_OWED = n)
    ∧ (let s := chanOf (fun x => { x with coolReads := 1 }) (channelIn 4 up)
      s.chanState 7 1 = 4 ∧ s.inSelfRefresh 7 1 = false ∧ 1 ≤ (s.chan 7 1).coolReads
        ∧ s.getF (.dram 7 1) R.DRAM_REF_STATUS_MR4 ≠ 6 % 8)
    ∧ ((channelIn 4 up).chan 7 1).coolReads = 0 ∧ ((chanOf (fun x => { x with hotNext := false }) up).chan 7 1).hotNext = false
    ∧ (let s := (channelIn 4 up).putF (.dram 7 1) R.DRAM_PD_PD_EN 1
      s.isSet (.dram 7 1) R.DRAM_PD_PD_EN = true ∧ 0 ≤ s.rankBits 7 1 ∧ 0 ∉ ((s.chan 7 1).sub 1).down)
    ∧ (let s := ((channelIn 4 up).putF (.dram 7 1) R.DRAM_SR_SR_EN 1).putF (.dram 7 1) R.DRAM_LTR_HOSTWIN_US 2
      s.chanState 7 1 = 4 ∧ s.inSelfRefresh 7 1 = false ∧ s.inTake = false ∧ 2 ≤ s.tolerance 7 1
        ∧ (s.advanceTo (s.idleAt 7 1)).blockOther 7 1 = false)
    ∧ (up.putF (.dram 7 1) R.DRAM_LTR_STATUS_SR 1).inSelfRefresh 7 1 = true
    ∧ ((channelIn 4 up).chanState 7 1 = 4 ∧ ((channelIn 4 up).chan 7 1).alert = false
      ∧ ((channelIn 4 up).chan 7 1).periodic = 0 ∧ ((channelIn 4 up).chan 7 1).replaying = false)
    ∧ (∀ n, n = 1 ∨ n = 2 → let s := chanOf (fun x => { x with replaying := true, failedRun := n }) (channelIn 4 up)
      s.chanState 7 1 = 4 ∧ (s.chan 7 1).alert = false ∧ (s.chan 7 1).periodic = 0 ∧ (s.chan 7 1).replaying = true
        ∧ (s.chan 7 1).failedRun = n)
    ∧ (∀ l ∈ [[], [[1]]], let x := (chanOf (fun x => { x with alert := true, subA := { x.subA with retry := l } }) up).chan 7 1;
      x.alert = true ∧ x.subA.retry = l ∧ x.subB.retry = [])
    ∧ (let x := (chanOf (fun x => { x with replaying := true, subA := { x.subA with retry := [[1]] } }) up).chan 7 1;
      x.alert = false ∧ x.replaying = true
        ∧ (x.setSub 0 { x.sub 0 with retry := (x.sub 0).retry.drop 1 }).subA.retry = []
        ∧ (x.setSub 0 { x.sub 0 with retry := (x.sub 0).retry.drop 1 }).subB.retry = []) := by
  refine ⟨by decide +kernel, ?_, by decide +kernel, by decide +kernel, by decide +kernel, by decide +kernel,
    by decide +kernel, by decide +kernel, by decide +kernel, ?_, by decide +kernel, by decide +kernel⟩ <;>
  rintro n (rfl | rfl) <;> decide +kernel
def training (st step : Nat) (s : State) : State :=
  ((channelIn st s).putF (.dram 7 1) R.DRAM_TRAIN_STATUS_STEP step).putF (.dram 7 1) R.DRAM_CFG_GRADE 1
def goodDimm : Dimm := ⟨3, 2, true, 0xE, true⟩
def gathers (s : State) : State :=
  let t := (chanOf (fun x => { x with periodic := 1 }) (channelIn 4 s)).putF (.dram 7 1) R.DRAM_TRAIN_STATUS_PERIODIC 1
  (((t.putF (.dram 7 1) R.DRAM_TRAIN_STATUS_STEP 4).putF (.spll 7 2) R.COMMIT_COMMIT 1).putF (.spll 7 2)
    R.SHADOW_STATUS_COMMIT_WAIT 1).setPll (.spll 7 2) { s.pll (.spll 7 2) with relock := false }
def switching (s : State) : State := (channelIn 4 s).setStore 7
  { s.store 7 with layout := 3, switchOwed := true, parts := [⟨0, 7, [⟨3, 100, 200⟩]⟩] }
theorem witness_TrainingGoesStepByStep :
    ((running up).has (.dram 7 1) = true ∧ (running up).inTake = true)
    ∧ (∀ n, n = 1 ∨ n = 3 → (channelIn n up).inTake = false ∧ (channelIn n up).chanState 7 1 = n)
    ∧ ((channelIn 5 up).inTake = false ∧ (channelIn 5 up).chanState 7 1 = 5)
    ∧ (∀ n, n = 2 ∨ n = 3 ∨ n = 6 ∨ n = 7 → let s := training 2 n up
      s.bootOver ∧ (s.chan 7 1).periodic = 0 ∧ s.chanState 7 1 = 2 ∧ (s.chan 7 1).restart = false
        ∧ s.isSet (.dram 7 1) R.DRAM_CFG_GRADE = true ∧ s.getF (.dram 7 1) R.DRAM_TRAIN_STATUS_STEP = n
        ∧ s.getF (.dram 7 1) R.DRAM_TRAIN_STATUS_TRIES < 2)
    ∧ (windowOf (.found 7) = none ∧ windowOf .noSetting = none)
    ∧ (let s := (training 1 1 up).putF (.dram 7 0) R.DRAM_TRAIN_STATUS_STATE 1
      s.bootOver ∧ (s.chan 7 1).periodic = 0 ∧ s.chanState 7 1 = 1 ∧ s.getF (.dram 7 1) R.DRAM_TRAIN_STATUS_STEP = 1
        ∧ dimmFits goodDimm = true ∧ s.chanState 7 (1 - 1) = 1)
    ∧ (let s := training 3 8 up
      s.bootOver ∧ s.chanState 7 1 = 3 ∧ (s.chan 7 1).restart = false ∧ (s.chan 7 1).startup = false)
    ∧ (let s := (channelIn 4 up).putF (.dram 7 1) R.DRAM_TRAIN_PERIOD_PERIOD_MS 1
      s.chanState 7 1 = 4 ∧ s.isSet (.dram 7 1) R.DRAM_TRAIN_PERIOD_PERIOD_MS = true ∧ (s.chan 7 1).slotWanted = false)
    ∧ (let s := chanOf (fun x => { x with slotWanted := true }) (channelIn 4 up)
      (s.chan 7 1).slotWanted = true ∧ s.chanState 7 1 = 4 ∧ s.slotFree 7 = true)
    ∧ ((chanOf (fun x => { x with periodic := 1 }) up).chan 7 1).periodic ≠ 0
    ∧ (let q := Page.spll 7 2
      (gathers up).gatherHold q = true ∧ (gathers up).isSet q R.COMMIT_COMMIT = true
        ∧ (gathers up).isSet q R.SHADOW_STATUS_COMMIT_WAIT = true ∧ (gathers up).isSet q R.SHADOW_STATUS_HELD = false
        ∧ ((gathers up).pll q).relock = false ∧ (gathers up).chanState 7 1 = 4)
    ∧ (let s := training 2 5 (gathers up)
      s.gatherHold (.spll 7 2) = true ∧ s.chanState 7 1 = 2)
    ∧ (let s := switching up
      7 < s.fuse.part.supers ∧ (s.store 7).switchOwed = true ∧ s.layoutWanted 7 ≠ s.layout 7 ∧ s.inTake = false)
    ∧ (let s := marked (running (switching up))
      s.inTake = true ∧ s.layoutWanted 7 ≠ s.layout 7 ∧ (s.store 7).held = some (100, 200)
        ∧ (s.stream .mark).present = true ∧ s.take.waiting = [] ∧ s.take.system.length < 64) := by
  refine ⟨by decide +kernel, ?_, by decide +kernel, ?_, by decide +kernel, ?_, ?_, by decide +kernel, by decide +kernel,
    by decide +kernel, by decide +kernel, by decide +kernel, by decide +kernel, by decide +kernel⟩
  · rintro n (rfl | rfl) <;> decide +kernel
  · rintro n (rfl | rfl | rfl | rfl) <;> unfold State.bootOver <;> decide +kernel
  all_goals unfold State.bootOver; decide +kernel

/-! ### Witnesses: the host port and events -/

/-- HIF 3 is active, the rings have 64 entries each and may fetch, and two entries are posted. -/
def hosted (s : State) : State :=
  let s := [R.HOST_CMD_SIZE_LOG2, R.HOST_DRN_SIZE_LOG2, R.HOST_CPL_SIZE_LOG2].foldl (fun s f => s.putF .host f 6)
    (s.putF .host R.HOST_HIF_ACTIVE_MAJOR 3)
  let s := [R.HOST_RING_CTRL_CMD_EN, R.HOST_RING_CTRL_DRN_EN, R.HOST_RING_CTRL_CPL_EN].foldl (fun s f => s.putF .host f 1) s
  { (s.putF .host R.HOST_CMD_POSTED_TALLY 2).putF .host R.HOST_DRN_POSTED_TALLY 2 with
    busMaster := true, host := { s.host with bme := true } }
def drainEntry (tally su count : Nat) : List Byte :=
  leBytes 4 tally ++ leBytes 1 su ++ leBytes 1 1 ++ leBytes 1 count ++ leBytes 9 0 ++ leBytes 8 0x10000 ++ leBytes 8 0
/-- Both channels of super 7 have 16 GiB. -/
def stored (s : State) : State :=
  let s := [0, 1].foldl (fun (s : State) k =>
    (s.putF (.dram 7 k) R.DRAM_TRAIN_STATUS_STATE 4).putF (.dram 7 k) R.DRAM_CFG_CAP_GIB 16) s
  s.setStore 7 { s.store 7 with layout := 3 }
def draining (l : List DrainDesc) (s : State) : State := { s with host := { s.host with drains := l } }
def drainOf (count : Nat) : DrainDesc := ⟨1, 7, true, false, count, 100, 0x10000, 0, 0, 0⟩
def completion (cseq : Nat) : Completion := ⟨cseq, leBytes 32 0, true, false⟩
def waitingOf (l : List Completion) (s : State) : State := { s with host := { s.host with waiting := l } }
theorem witness_RingsAreEnabledPostedAndFetched :
    (up.ringAllowed (up.getF .host R.HOST_CMD_SIZE_LOG2) = false ∧ up.ringAllowed (up.getF .host R.HOST_DRN_SIZE_LOG2) = false
      ∧ up.ringAllowed (up.getF .host R.HOST_CPL_SIZE_LOG2) = false)
    ∧ (let s := (hosted up).putF .host R.HOST_RING_CTRL_DRN_HALT 1
      s.ringAllowed (s.getF .host R.HOST_CMD_SIZE_LOG2) = true ∧ s.ringAllowed (s.getF .host R.HOST_DRN_SIZE_LOG2) = true
        ∧ s.ringAllowed (s.getF .host R.HOST_CPL_SIZE_LOG2) = true ∧ s.isSet .host R.HOST_RING_CTRL_DRN_HALT = true)
    ∧ (let s := hosted up
      s.host.fence = none ∧ (∀ c ∈ s.host.accepted, c.badTally = false) ∧ s.isSet .host R.HOST_RING_CTRL_CMD_EN = true
        ∧ s.isSet .host R.HOST_RING_CTRL_CMD_HALT = false
        ∧ 2 ^ s.getF .host R.HOST_CMD_SIZE_LOG2 < tallySub 65 (s.getF .host R.HOST_CMD_ACCEPTED_TALLY)
        ∧ s.isSet .host R.HOST_RING_CTRL_DRN_EN = true ∧ s.isSet .host R.HOST_RING_CTRL_DRN_HALT = false
        ∧ 2 ^ s.getF .host R.HOST_DRN_SIZE_LOG2 < tallySub 65 (s.getF .host R.HOST_DRN_ACCEPTED_TALLY)
        ∧ ¬ 2 ^ s.getF .host R.HOST_DRN_SIZE_LOG2 < tallySub 64 (s.getF .host R.HOST_DRN_ACCEPTED_TALLY)
        ∧ s.fetches false = true ∧ s.fetches true = true)
    ∧ (let s := hosted up
      ofLeBytes ((cmdOf 1).bytes.take 4) ≠ tallyNext (s.getF .host R.HOST_CMD_ACCEPTED_TALLY)
        ∧ ofLeBytes ((leBytes 64 1).take 4) = tallyNext (s.getF .host R.HOST_CMD_ACCEPTED_TALLY)
        ∧ s.host.accepted = [] ∧ s.host.fence = none)
    ∧ (let s := stored (hosted up)
      s.fetches true = true ∧ ofLeBytes ((drainEntry 1 7 64).take 4) = tallyNext (s.getF .host R.HOST_DRN_ACCEPTED_TALLY)
        ∧ s.drainStatus (drainEntry 1 7 64) = 0 ∧ s.drainStatus (drainEntry 1 7 65) ≠ 0 ∧ s.drainStatus (drainEntry 1 8 1) ≠ 0
        ∧ (∀ e ∈ s.host.drains, e.tally ≠ 1)
        ∧ ofLeBytes ((drainEntry 2 7 64).take 4) ≠ tallyNext (s.getF .host R.HOST_DRN_ACCEPTED_TALLY))
    ∧ (∀ n, n = 0 ∨ n = 64 → let s := waitingOf [completion n] (hosted up)
      s.host.waiting = [completion n] ∧ s.isSet .host R.HOST_RING_CTRL_CPL_EN = true ∧ s.busMaster = true
        ∧ tallySub (completion n).cseq (s.getF .host R.HOST_CPL_FREED_SEQ) ≤ 2 ^ s.getF .host R.HOST_CPL_SIZE_LOG2) := by
  refine ⟨by decide +kernel, by decide +kernel, by decide +kernel, by decide +kernel, by decide +kernel, ?_⟩
  rintro n (rfl | rfl) <;> decide +kernel
/-- A command with parameters, alone in its queue under HIF 3. -/
def cmdWith (op : Nat) (parameters : List Byte) : HostCmd :=
  ⟨0, leBytes 4 0 ++ [BitVec.ofNat 8 op] ++ leBytes 11 0 ++ parameters ++ leBytes (48 - parameters.length) 0, false⟩
def queuedWith (op : Nat) (parameters : List Byte) (s : State) : State :=
  let t := hosted s
  { t with host := { t.host with accepted := [cmdWith op parameters] } }
theorem readyWith (op : Nat) (p : List Byte) (s : State) (h1 : s.host.accepted = [cmdWith op p]) (h2 : s.host.waiting = [])
    (h3 : s.host.fence = none) (h4 : (cmdWith op p).opcode = op) (h5 : s.opcodeKnown op = true)
    (h6 : (cmdWith op p).clean = true) : s.commandReady op (cmdWith op p) [] :=
  ⟨h1, h2, h3, rfl, h4, h5, h6, show 0 < 2 ^ 32 by decide, by simp⟩
/-- REG_WRITE of one pair: an offset that it may write and one of the host page. -/
def pairOf (a : Nat) : List Byte := leBytes 8 1 ++ leBytes 4 a ++ leBytes 4 5
theorem witness_RingCommandsAreAnswered :
    (queuedWith 0 [] up).commandReady 0 (cmdWith 0 []) []
    ∧ (queuedWith 3 [] up).commandReady 3 (cmdWith 3 []) []
    ∧ ((queuedWith 4 [] up).commandReady 4 (cmdWith 4 []) [] ∧ (queuedWith 4 [] up).host.drains = [])
    ∧ ((draining [drainOf 2] (queuedWith 4 [] up)).commandReady 4 (cmdWith 4 []) []
      ∧ (draining [drainOf 2] (queuedWith 4 [] up)).host.drains ≠ [])
    ∧ ((queuedWith 5 [0x80] up).commandReady 5 (cmdWith 5 [0x80]) []
      ∧ (queuedWith 5 [0x80] up).abortable ((cmdWith 5 [0x80]).bytes.getD 0x10 0).toNat = [])
    ∧ ((draining [drainOf 2] (queuedWith 5 [0x80] up)).commandReady 5 (cmdWith 5 [0x80]) []
      ∧ (draining [drainOf 2] (queuedWith 5 [0x80] up)).abortable ((cmdWith 5 [0x80]).bytes.getD 0x10 0).toNat = [drainOf 2])
    ∧ ((queuedWith 6 (pairOf 0x118) up).commandReady 6 (cmdWith 6 (pairOf 0x118)) []
      ∧ regPairs (cmdWith 6 (pairOf 0x118)) = [(0x118, 5)]
      ∧ ((regPairs (cmdWith 6 (pairOf 0x118))).foldl (fun t e => t.writeAt e.1 (BitVec.ofNat 32 e.2))
        (queuedWith 6 (pairOf 0x118) up)).host = (queuedWith 6 (pairOf 0x118) up).host)
    ∧ ((queuedWith 6 (pairOf 0x3FFC) up).commandReady 6 (cmdWith 6 (pairOf 0x3FFC)) []
      ∧ regPairs (cmdWith 6 (pairOf 0x3FFC)) = [(0x3FFC, 5)])
    ∧ (let c := cmdWith 5 [0x80, 1]
      c.opcode = 5 ∧ (queuedWith 5 [0x80, 1] up).opcodeKnown 5 = true ∧ c.clean = false ∧ c.badTally = false ∧ c.tally < 2 ^ 32)
    ∧ ((queuedWith 7 [] up).opcodeKnown (cmdWith 7 []).opcode = false
      ∧ (queuedWith 7 [] up).host.accepted = [cmdWith 7 []] ∧ (queuedWith 7 [] up).host.waiting = []
      ∧ (queuedWith 7 [] up).host.fence = none) := by
  refine ⟨readyWith 0 _ _ ?_ ?_ ?_ ?_ ?_ ?_, readyWith 3 _ _ ?_ ?_ ?_ ?_ ?_ ?_, ⟨readyWith 4 _ _ ?_ ?_ ?_ ?_ ?_ ?_, ?_⟩,
    ⟨readyWith 4 _ _ ?_ ?_ ?_ ?_ ?_ ?_, ?_⟩, ⟨readyWith 5 _ _ ?_ ?_ ?_ ?_ ?_ ?_, ?_⟩, ⟨readyWith 5 _ _ ?_ ?_ ?_ ?_ ?_ ?_, ?_⟩,
    ⟨readyWith 6 _ _ ?_ ?_ ?_ ?_ ?_ ?_, ?_⟩, ⟨readyWith 6 _ _ ?_ ?_ ?_ ?_ ?_ ?_, ?_⟩, ?_, ?_⟩ <;> decide +kernel
/-- A take in which no block slot but the limit's own is free. -/
def limited (s : State) : State := (running s).putF .hive (R.HIVE_STORE_LIMIT_SLOT 7) 100
theorem witness_HostRequestsAreServed :
    (∀ n, n = 1 ∨ n = 2 → let s := draining [drainOf n] (stored (hosted up))
      s.has (.dram 7 0) = true ∧ s.host.drains = [drainOf n] ∧ (drainOf n).super = 7 ∧ s.reader 7 = .reset ∧ s.busMaster = true
        ∧ s.host.waiting = [] ∧ s.host.fence = none ∧ (∀ c ∈ s.host.accepted, c.badTally = false) ∧ s.layout 7 ≠ 0)
    ∧ ((hosted up).host.fence = none ∧ ∀ e ∈ (hosted up).host.accepted, e.badTally = false)
    ∧ (let s := (hosted up).putF .host R.HOST_LINK_SPEED 5
      s.busMaster = true ∧ s.isSet .host R.HOST_LINK_SPEED = true ∧ 4 % 8 < s.getF .host R.HOST_LINK_SPEED)
    ∧ (let s : State := { up with host := { up.host with linkNews := true } }
      s.host.linkNews = true)
    ∧ (up.bar2Size - 4 + 4 ≤ up.bar2Size)
    ∧ (let s := (stored up).putF .host R.HOST_BAR2_BASE_HI_BASE (7 * 64)
      s.viewAt (s.viewAddress 5) = some (7, 0, 5) ∧ s.slotLocked 7 0 = false)
    ∧ (let s := limited ((stored up).putF .host R.HOST_BAR2_BASE_HI_BASE (7 * 64))
      s.viewAt (s.viewAddress (99 * 4096 + 4095)) = some (7, 99, 4095) ∧ s.slotLocked 7 99 = true
        ∧ s.slotLocked 7 100 = false) := by
  refine ⟨?_, by decide +kernel, by decide +kernel, by decide +kernel, by decide +kernel, by decide +kernel, by decide +kernel⟩
  rintro n (rfl | rfl) <;> decide +kernel
def evRec : EvRec := ⟨200, 34, false, false, 0⟩
def inFlight (s : State) : State := { s with ev := { s.ev with flight := [evRec] } }
def queuedEvents (n : Nat) (s : State) : State :=
  s.setQueue (.hive 1) ⟨List.replicate n ⟨eventWords evRec 1, true⟩, false, false, 0⟩
def dropped (s : State) : State :=
  let t := (s.putF .events R.EV_ENABLE 0xFFFF).putF .events (R.EVENTS_GROUP_RECORD 1) 1
  { t with ev := { t.ev with dropped := some (3, 77) } }
def messaging (s : State) : State :=
  let t := (List.range 64).foldl (fun (t : State) v => t.putF .host (R.MSIX_MASK v) 0) (hosted s)
  { t.putF .events R.EVENTS_RING_CTRL_EN 1 with ev := { t.ev with ready := [0] } }
theorem witness_EventsReachTheHost :
    (let s := inFlight (on .events up);
      s.ev.flight.find? (fun e => sourceOrigin e.source == sourceOrigin 34) = some evRec ∧ s.enabled .events = true
        ∧ 2 ≤ s.eventRoom ∧ s.queueFull (.hive 1) = false)
    ∧ (let n := usableWords (.hive 1) / 2 - 1
      let s := queuedEvents n (inFlight (on .events up));
      s.eventRoom < 2 ∧ s.enabled .events = true ∧ s.ev.flight = [evRec])
    ∧ (let s := dropped (on .events up)
      s.ev.dropped = some (3, 77) ∧ s.eventRoom ≠ 0 ∧ s.enabled .events = true ∧ s.queueFull (.hive 1) = false
        ∧ bitOf (s.getF .events R.EV_ENABLE) 1 = true ∧ s.isSet .events (R.EVENTS_GROUP_RECORD 1) = true)
    ∧ (let s := queuedEvents 1 (messaging up)
      (s.queue (.hive 1)).entries = [⟨eventWords evRec 1, true⟩] ∧ s.isSet .events R.EVENTS_RING_CTRL_EN = true
        ∧ s.busMaster = true ∧ tallySub (entryTally ⟨eventWords evRec 1, true⟩) (s.getF .events R.EVENTS_FREED_TALLY) ≤ s.eventRing
        ∧ (∀ g, g < 64 → s.isSet .host (R.MSIX_MASK g) = false)
        ∧ groupOf (bitsOf ((eventWords evRec 1).getD 1 0) 42 32) = some 0 ∧ s.vectorFree (s.vectorOf 0) = true)
    ∧ (let s := messaging up
      s.ev.ready.any (fun g => s.vectorOf g == 0) = true ∧ s.busMaster = true ∧ s.isSet .host (R.MSIX_MASK 0) = false
        ∧ sorted s.ev.lastMsg = true)
    ∧ (let s : State := { up with ev := { up.ev with unrec := [(34, (200, 2))], lastRec := [(34, 100)] } }
      s.ev.unrec.find? (fun e => e.1 == 34) = some (34, (200, 2)) ∧ s.ev.lastRec.find? (fun e => e.1 == 34) = some (34, 100)
        ∧ 100 + s.holdoff < 2 ^ 64)
    ∧ (∀ n, n = 6 ∨ n = 16 → 6 ≤ ((hosted up).putF .events R.EVENTS_RING_SIZE_LOG2 n).getF .events R.EVENTS_RING_SIZE_LOG2
      ∧ ((hosted up).putF .events R.EVENTS_RING_SIZE_LOG2 n).getF .events R.EVENTS_RING_SIZE_LOG2 ≤ 16
      ∧ (hosted up).getF .host R.HOST_HIF_ACTIVE_MAJOR ≠ 0)
    ∧ ¬ up.getF .host R.HOST_HIF_ACTIVE_MAJOR ≠ 0
    ∧ (let s := (queuedEvents 1 (messaging up)).putF .events R.EVENTS_FREED_TALLY 0x80000000
      s.isSet .events R.EVENTS_RING_CTRL_EN = true ∧ (s.queue (.hive 1)).entries ≠ [] ∧ s.eventFits = false
        ∧ s.ev.waitTold = false) := by
  refine ⟨by decide +kernel, by decide +kernel, by decide +kernel, by decide +kernel, by decide +kernel, by decide +kernel, ?_,
    by decide +kernel, by decide +kernel⟩
  rintro n (rfl | rfl) <;> decide +kernel

/-! ### Witnesses: the apiary ring -/

/-- The hive takes part in a ring, in a state of it, as its leader or as a member at position 3. -/
def ringAt (st leader : Nat) (s : State) : State :=
  ((((on .ring s).putF .ring R.RING_STATUS_STATE st).putF .ring R.RING_STATUS_LEADER leader).putF .ring
    R.RING_STATUS_POSITION (if leader = 1 then 0 else 3)).putF .ring R.RING_STATUS_HIVES 4
def ringOf (f : RingSt → RingSt) (s : State) : State := { s with ring := f s.ring }
def claimOf (uid : Nat) : Claim := ⟨1, uid⟩
def claiming (s : State) : State :=
  ringOf (fun x => { x with
    own := some (claimOf 5), inA := { x.inA with pri := 1, uid := 5 }, inB := { x.inB with claim := some (claimOf 5) } }) s
def pathed (n : Nat) (s : State) : State :=
  ringOf (fun x => { x with path := some (100, 200), offSteps := n, offset := some 4900 }) s
def goodCopy (r : Nat) : Copy := ⟨r, .good⟩
theorem witness_RingFormsAndKeepsTime :
    (∀ st, st = 2 ∨ st = 3 ∨ st = 4 ∨ st = 5 → (ringAt st 0 up).ringActive = true ∧ (ringAt st 0 up).ringState = st
      ∧ (ringAt st 0 up).isLeader = false ∧ (0, 3, 7) ∉ (ringAt st 0 up).ring.acted)
    ∧ (let s := (ringOf (fun x => { x with versions := 2 }) (ringAt 2 0 up));
      0 % 4 &&& s.ring.versions = 0 ∧ 3 % 4 &&& s.ring.versions ≠ 0)
    ∧ (let s := claiming (ringAt 2 0 up)
      s.ringState = 2 ∧ s.ring.own = some (claimOf 5) ∧ (s.ringIn (1 - 0)).claim = some (claimOf 5)
        ∧ (⟨(s.ringIn 0).pri, (s.ringIn 0).uid + 0 * 2 ^ 36⟩ : Claim) = claimOf 5
        ∧ (⟨(s.ringIn 0).pri, (s.ringIn 0).uid + 1 * 2 ^ 36⟩ : Claim) ≠ claimOf 5
        ∧ (claimOf 5 : Claim) ≠ ⟨0, 0xFFFFFFFFFFFF⟩)
    ∧ (let s := ringOf (fun x => { x with standing := some 100 }) (ringAt 2 0 up)
      s.ringState = 2 ∧ s.ring.standing = some 100 ∧ 100 + 12800000 < 2 ^ 64 ∧ s.hiveTime < 2 ^ 64)
    ∧ (let s := ringAt 3 1 up
      s.ringActive = true ∧ s.ringState = 3 ∧ s.isLeader = true ∧ 0 < 32 ∧ 40000 ≤ 40000 ∧ s.ring.leastDelay < 2 ^ 16)
    ∧ (let s := ringOf (fun x => { x with reports := [(2, (100, 100))], loopNs := 20000 }) (ringAt 4 1 up)
      s.isLeader = true ∧ s.position = 0 ∧ (2, 3, 7) ∉ s.ring.acted
        ∧ s.ring.reports.find? (fun e => e.1 == 2) = some (2, (100, 100)) ∧ s.ringUp = true ∧ s.ring.loopNs ≤ 20000
        ∧ s.hives ≤ 32 ∧ 104 ≤ 100 + 4 ∧ 100 + 4 < 105)
    ∧ (let s := ringAt 3 0 up
      3 ≤ s.ringState ∧ s.ring.lastTime + 2560000 < 2 ^ 64 ∧ s.hiveTime < 2 ^ 64)
    ∧ (let s := ringAt 4 1 up
      s.isLeader = true ∧ s.ringState = 4 ∧ s.ring.ctrl = [] ∧ s.ring.onLoop = [] ∧ s.ring.timeTally < 2 ^ 11)
    ∧ (∀ n, n = 0 ∨ n = 3 → let s := pathed n (ringAt 4 0 up)
      s.isLeader = false ∧ s.ring.path = some (100, 200) ∧ (goodCopy 0).ring = 0 ∧ s.isSet .ring (R.RING_HOP_UP 0) = false
        ∧ s.hiveTime ≤ 1000 ∧ s.ring.offSteps = n ∧ 4 < (((5000 + 100 : Nat) : Int) - (1000 : Nat)).natAbs
        ∧ s.getF .ring R.RING_TIME_OFFSET_OUT_OF_STEP = 0)
    ∧ ((running (ringAt 4 1 up)).inTake = true ∧ (running (ringAt 4 1 up)).isLeader = true
      ∧ (ringAt 4 1 up).inTake = false ∧ (ringAt 4 1 up).ringUp = true)
    ∧ (let s := pathed 0 (ringAt 4 0 up)
      s.ring.path = some (100, 200) ∧ s.ring.offset = some 4900 ∧ s.inTake = false ∧ (running s).inTake = true
        ∧ s.hiveTime + 32 < 2 ^ 64) := by
  refine ⟨?_, by decide +kernel, by decide +kernel, by decide +kernel, by decide +kernel, by decide +kernel, by decide +kernel,
    by decide +kernel, ?_, by decide +kernel, by decide +kernel⟩
  · rintro n (rfl | rfl | rfl | rfl) <;> decide +kernel
  · rintro n (rfl | rfl) <;> decide +kernel
def flagAct (op : Nat) : AfAct := ⟨500, 2, 3, op, 15000⟩
def onLoopOf (m : RingMsg) (s : State) : State := ringOf (fun x => { x with onLoop := [(1, m)] }) s
/-- A flag container of member 5 with tally 7 for beat 500. -/
def flagWords : List Nat := [0x28A7, 500, 12, 0, 0]
theorem witness_RingCarriesFlagsAndMail :
    (let s : State := { ringAt 4 0 up with afQueue := [flagAct 1] };
      s.ringActive = true ∧ s.ringState = 4 ∧ s.ring.onLoop = [] ∧ s.ring.ctrl = [] ∧ s.ring.flag = none
        ∧ s.afQueue = [flagAct 1] ∧ 32 * s.beatNow - (flagAct 1).origin ≤ 2 ^ 47)
    ∧ (let s := ringOf (fun x => { x with lastFlag := [(5, 5)] }) (ringAt 4 0 up)
      (bitsOf (flagWords.getD 0 0) 9 5, 1, bitsOf (flagWords.getD 0 0) 4 0) ∉ s.ring.acted
        ∧ bitsOf (flagWords.getD 0 0) 9 5 = 5 ∧ (bitsOf (flagWords.getD 0 0) 4 0 + 32 - 5) % 32 = 2
        ∧ s.ring.lastFlag.find? (fun e => e.1 == 5) = some (5, 5)
        ∧ decide (nearBeat s.beatNow 500 + 13 < s.beatNow) = false)
    ∧ (let s : State := { ringAt 4 0 up with hiveTime := 32 * 514 }
      (nearBeat s.beatNow 500 + 13 < s.beatNow) ∧ ¬ nearBeat s.beatNow 501 + 13 < s.beatNow)
    ∧ (∀ op, op = 1 ∨ op = 2 ∨ op = 3 → let s := ringOf (fun x => { x with noted := [flagAct op] }) (ringAt 4 0 up)
      s.ring.noted = [flagAct op] ∧ (s.seq 8).running = false ∧ s.hiveTime < 2 ^ 64
        ∧ 32 * ((flagAct op).beat + 13) < 2 ^ 64 ∧ (flagAct op).af < 16 ∧ (flagAct op).member = s.position ∧ s.ringUp = true
        ∧ s.afLog = [])
    ∧ (let s := onLoopOf ⟨3, 6, [], []⟩ (ringAt 4 0 up)
      s.ring.onLoop.find? (fun e => e.1 == 1) = some (1, ⟨3, 6, [], []⟩) ∧ s.isLeader = false ∧ s.ring.ctrl = []
        ∧ s.ring.onLoop = [(1, ⟨3, 6, [], []⟩)])
    ∧ ((ringAt 4 1 up).isLeader = true ∧ (ringAt 4 1 up).ringState = 4 ∧ (ringAt 5 0 up).ringState = 5
      ∧ (ringAt 3 0 up).ringState ≠ 4)
    ∧ (let s := ringAt 4 0 up
      s.ring.leaving = none ∧ s.afQueue = [] ∧ s.ring.flag = none ∧ s.ring.ctrlTally < 2 ^ 16)
    ∧ (let s := (ringOf (fun x => { x with leaving := some 100 }) (ringAt 4 0 up)).putF .ring R.RING_CTRL_BYPASS 1
      s.ring.leaving = some 100 ∧ s.isSet .ring R.RING_CTRL_BYPASS = true ∧ s.hiveTime < 2 ^ 64)
    ∧ (let s := ringAt 4 1 up
      s.ringUp = true ∧ (2, 3, 7) ∉ s.ring.acted ∧ 2 ≤ s.hives ∧ s.ring.loopNs ≤ 20000)
    ∧ (∀ n, n = 0 ∨ n = 1 → ((ringAt 4 0 up).putF .ring R.RING_MAIL_OUT_BUSY n).getF .ring R.RING_MAIL_OUT_BUSY = n)
    ∧ (∀ n, n = 0 ∨ n = 1 → ((ringAt 4 0 up).putF .ring R.RING_MAIL_IN_VALID n).getF .ring R.RING_MAIL_IN_VALID = n)
    ∧ (3 = (ringAt 4 0 up).position ∧ (2, 3, 7) ∉ (ringAt 4 0 up).ring.acted)
    ∧ ((⟨1, .bad⟩ : Copy).quality = .bad ∧ (ringAt 4 0 up).isLeader = false) := by
  refine ⟨by decide +kernel, by decide +kernel, by decide +kernel, ?_, by decide +kernel, by decide +kernel, by decide +kernel,
    by decide +kernel, by decide +kernel, ?_, ?_, by decide +kernel, by decide +kernel⟩
  · rintro n (rfl | rfl | rfl) <;> decide +kernel
  all_goals rintro n (rfl | rfl) <;> decide +kernel

/-! ### Witnesses: the Reeve and power -/

def powered (s : State) : State := { s.putF .hive R.HIVE_READY_POWER 1 with boot := { s.boot with vin := true } }
/-- A shedding step, the pressed and quiet periods in a row, and the level of the reservoir. -/
def shedding (step run quiet energy : Nat) (s : State) : State :=
  let t := s.putF .reeve R.REEVE_STATUS_STEP step
  { t with reeve := { t.reeve with run := run, quiet := quiet, energy := energy } }
theorem witness_PeriodsSettleTheEnergyAccount :
    ((powered up).powerOk = true ∧ (powered up).reeve.reserve ≤ 10000)
    ∧ (∀ e, e = (0, 0, 0) ∨ e = (1, 9, 0) ∨ e = (1, 0, 99) ∨ e = (4, 19, 0) → let s := shedding e.1 e.2.1 e.2.2 1024 (powered up)
      s.getF .reeve R.REEVE_STATUS_STEP = e.1 ∧ s.reeve.run = e.2.1 ∧ s.reeve.quiet = e.2.2 ∧ s.powerOk = true
        ∧ 40 * s.reeve.energy + 1024 * s.reeve.sustain < 40 * 10 ^ 9
        ∧ s.getF .reeve R.REEVE_RECOVER_RECOVER_J * 1024000 ≤ 2048000000)
    ∧ ((running (shedding 4 19 0 0 (powered up))).taking = true ∧ (running (shedding 4 19 0 0 (powered up))).take.last = none)
    ∧ ((powered up).isSet .reeve R.REEVE_STATUS_THROTTLED = false ∧ (powered up).reeve.shutdown = false
      ∧ signedOf 16 459 < 460 ∧ 460 ≤ signedOf 16 460)
    ∧ (let s : State := { powered up with reeve := { (powered up).reeve with phases := [5] } }
      s.supers.any (fun u => s.reeve.phases.any (fun x => x / 4 == u) && decide (3072 < [0, 3073].getD u 0)) = true) := by
  refine ⟨by decide +kernel, ?_, by decide +kernel, by decide +kernel, by decide +kernel⟩
  rintro e (rfl | rfl | rfl | rfl) <;> decide +kernel
def supplied (vin vstby : Bool) (s : State) : State := { s with boot := { s.boot with vin := vin, vstby := vstby } }
theorem witness_SupplyFaultsStopTheHive :
    ((powered up).powerOk = true ∧ ((powered up).setTakeState 1).takeState = 1
      ∧ (running (powered up)).taking = true ∧ (running (powered up)).take.last = none)
    ∧ (∀ rail, rail = 31 ∨ rail = 33 → railPresent up.fuse.part rail = true
      ∧ (up.putF .ivr (railField rail) 1).isSet .ivr (railField rail) = true)
    ∧ (powered up).boot.vin = true
    ∧ (7 < up.fuse.part.supers ∧ 4 * 7 + 3 ∉ (powered up).reeve.phases)
    ∧ (let s : State := { up with boot := { up.boot with railsOffAt := some 100 } }
      s.boot.railsOffAt = some 100)
    ∧ ((supplied true true up).boot.vin = true ∧ (supplied true true up).boot.vstby = true)
    ∧ ((supplied true false up).boot.vin = true ∧ (supplied true false up).boot.vstby = false)
    ∧ ((supplied false true up).boot.vin = false ∧ (supplied false true up).boot.vstby = true) := by
  refine ⟨by decide +kernel, ?_, by decide +kernel, by decide +kernel, by decide +kernel, by decide +kernel, by decide +kernel,
    by decide +kernel⟩
  rintro n (rfl | rfl) <;> decide +kernel

/-! ### Witnesses: the Noticeboard -/

/-- The generator runs, in the mode that its registers have at reset; `blankAt` is where its active lines end. -/
def showing (blankAt : Option Nat) (s : State) : State :=
  let t := (on .board s).putF .board R.BOARD_STATUS_RUNNING 1
  { t with board := { t.board with blankAt := blankAt, background := false } }
def boardOf (f : BoardSt → BoardSt) (s : State) : State := { s with board := f s.board }
def boardCommit (s : State) : State := s.putF .board R.COMMIT_COMMIT 1
def badMode (s : State) : State := s.putShadowF .board R.BOARD_HTIM_ACTIVE 4000
def blankFrom : Nat := 1000
theorem witness_BoardFramesFollowTheirTiming :
    (let s := boardCommit up;
      s.has .board = true ∧ s.boardRuns = false ∧ s.isSet .board R.COMMIT_COMMIT = true ∧ s.boardRefused = false
        ∧ (badMode s).boardRefused = true)
    ∧ (let s := showing none up
      let now := s.board.frameAt + s.pixelTicks (s.vActive * s.hTotal)
      s.boardRuns = true ∧ s.relockHolds = false ∧ s.board.blankAt = none ∧ s.hiveTime ≤ now ∧ now < 2 ^ 64
        ∧ s.isSet .board R.COMMIT_COMMIT = false ∧ s.board.mixed = false ∧ s.board.painted = false)
    ∧ (let s := boardCommit (showing none up)
      let now := s.board.frameAt + s.pixelTicks (s.vActive * s.hTotal)
      s.boardRefused = false ∧ s.board.commitAt ≤ now ∧ 64 ≤ s.pixelsIn (now - s.board.commitAt)
        ∧ (boardOf (fun b => { b with commitAt := now }) s).pixelsIn (now - now) < 64)
    ∧ (let s := showing (some blankFrom) up
      s.boardRuns = true ∧ s.relockHolds = false ∧ s.board.blankAt = some blankFrom ∧ s.board.sent = none
        ∧ s.hiveTime ≤ s.stretchedEnd blankFrom ∧ s.stretchedEnd blankFrom < 2 ^ 64 ∧ s.teUsed = false
        ∧ (boardOf (fun b => { b with appliedOwed := true }) s).board.appliedOwed = true)
    ∧ (let s := boardOf (fun b => { b with sent := some 77 }) (showing (some blankFrom) up)
      s.board.blankAt = some blankFrom ∧ s.board.sent = some 77 ∧ 77 < 2 ^ 32)
    ∧ (let s := boardOf (fun b => { b with same := 255 }) ((showing none up).putF .board R.BOARD_REFRESH_LOWER_EN 1)
      s.boardRuns = true ∧ s.isSet .board R.BOARD_REFRESH_LOWER_EN = true
        ∧ max 1 (s.getF .board R.BOARD_REFRESH_N_FRAMES) ≤ s.board.same)
    ∧ (∀ n, n = 1 ∨ n = 2 → let s := (showing (some blankFrom) up).putF .board R.BOARD_TE_SEL n
      s.boardRuns = true ∧ s.board.blankAt = some blankFrom ∧ n - 1 < 2 ∧ s.getF .board R.BOARD_TE_SEL = (n - 1) + 1
        ∧ s.hiveTime ≤ s.blankEnd blankFrom ∧ s.blankEnd blankFrom < 2 ^ 64 ∧ s.teUsed = true ∧ s.board.teCame = false
        ∧ s.hiveTime ≤ s.stretchedEnd blankFrom + max 1 (s.getF .board R.BOARD_TE_TIMEOUT_MS) * 12800000
        ∧ s.stretchedEnd blankFrom + max 1 (s.getF .board R.BOARD_TE_TIMEOUT_MS) * 12800000 < 2 ^ 64) := by
  refine ⟨by decide +kernel, by decide +kernel, by decide +kernel, by decide +kernel, by decide +kernel, by decide +kernel, ?_⟩
  rintro n (rfl | rfl) <;> decide +kernel
/-- Channel 0 of super 0 is READY, and the line buffer holds all but four of its pieces. -/
def buffered (s : State) : State :=
  boardOf (fun b => { b with fetchAt := 1020, pieces := (List.range 1020).map (fun i => ⟨i, [], []⟩) })
    (((showing none s).putF (.dram 0 0) R.DRAM_TRAIN_STATUS_STATE 4).putF .board R.BOARD_LB_LOW_KIB 255)
def outIn (st : OutStage) (tries due : Nat) (s : State) : State := boardOf (fun b => { b with outB := ⟨st, tries, due⟩ }) s
def strips (s : State) : State := ((on .board s).putF .board R.BOARD_PAINT_EN 1).putF .board (R.BOARD_STRIP_POS_EN 63) 1
theorem no_frame (s : State) (h : s.frames = []) (hp : s.fuse.part = .lw8f)
    (he : ∀ u, u < 8 → ∀ f, f < 8 → s.isSet (.frame u f) R.PAGE_CTRL_ENABLE = false) (u f : Nat) :
    (s.frame u f).eval = [] ∧ s.enabled (.frame u f) = false := by
  refine ⟨by simp only [State.frame, h]; rfl, ?_⟩
  simp only [State.enabled, hp, pagePresent]
  by_cases hu : u < 8
  · by_cases hf : f < 8
    · rw [he u hu f hf]; simp
    · simp [hf]
  · simp [Part.supers, hu]
theorem witness_BoardShowsItsPicture :
    (let s := buffered up;
      s.has .board = true ∧ s.boardRuns = true ∧ s.relockHolds = false ∧ s.chanUsable 0 0 = true ∧ s.board.fetching = false
        ∧ (s.chan 0 0).flaws = [] ∧ s.piecesAhead.length = 1020 ∧ 1020 ≤ 4 * s.getF .board R.BOARD_LB_LOW_KIB
        ∧ (s.chan 0 0).subA.acts = [] ∧ (s.chan 0 0).subB.acts = [] ∧ max s.board.fetchAt s.usedPieces = 1020
        ∧ ∀ i, i < 1024 - 1020 → ((List.range i).filter (fun j =>
          let place (i : Nat) : Nat × Nat :=
            let a := s.fbPiece (s.rasterPiece (1020 + i))
            (a.2.2.1, (bankOf (s.rankBits 0 0) a.2.2.2).index)
          place j == place i)).length < s.actMax 0 0)
    ∧ (let s := showing none up
      s.boardRuns = true ∧ s.relockHolds = false ∧ s.board.background = false ∧ s.getF .board R.BOARD_STATUS_NO_FB = 0
        ∧ s.board.blankAt = none ∧ 1079 < s.vActive ∧ 1919 < s.hActive ∧ (∀ p ∈ s.board.pieces, p.index ≠ 1)
        ∧ ∀ e ∈ s.board.underruns, e.1 ≠ 1079)
    ∧ (∀ n, n = 0 ∨ n = 1 ∨ n = 2 → ((outIn .training n 0 up).outOf 1).stage = .training ∧ ((outIn .training n 0 up).outOf 1).tries = n)
    ∧ (let s := outIn .waiting 1 1280000000 up
      (s.outOf 1).stage = .waiting ∧ s.hiveTime ≤ (s.outOf 1).due ∧ (s.outOf 1).due < 2 ^ 64)
    ∧ (let s := outIn .up 1 1280000000 up
      (s.outOf 1).stage = .up ∧ s.hiveTime ≤ (s.outOf 1).due ∧ (s.outOf 1).due < 2 ^ 64)
    ∧ (∀ n, n = 0 ∨ n = 1 → (up.putF .board R.BOARD_AUX_CTRL_BUSY n).getF .board R.BOARD_AUX_CTRL_BUSY = n)
    ∧ (let s := (up.putF .board R.BOARD_AUX_CTRL_KIND 3).putF .board R.BOARD_AUX_CTRL_LEN_M1 15
      s.getF .board R.BOARD_AUX_CTRL_KIND % 2 = 1 ∧ s.getF .board R.BOARD_AUX_CTRL_LEN_M1 + 1 = 16)
    ∧ (let s := strips up
      s.painting = true ∧ s.bgPaused = false ∧ s.isSet .board (R.BOARD_STRIP_POS_EN 63) = true
        ∧ (∀ i, i < 64 → i ≠ 63 → s.isSet .board (R.BOARD_STRIP_POS_EN i) = false) ∧ s.taking = false)
    ∧ (strips up).seqsIdle ∧ ∀ u f, ((strips up).frame u f).eval = [] ∧ (strips up).enabled (.frame u f) = false := by
  refine ⟨by decide +kernel, by decide +kernel, ?_, by decide +kernel, by decide +kernel, ?_, by decide +kernel, by decide +kernel,
    ?_, no_frame _ rfl rfl ?_⟩
  · rintro n (rfl | rfl | rfl) <;> decide +kernel
  · rintro n (rfl | rfl) <;> decide +kernel
  · intro u hu
    rfl
  · decide +kernel

/-! ### Witnesses: bring-up, resets, faults and service ports -/

def booting (f : BootSt → BootSt) (s : State) : State := { s with boot := f s.boot }
theorem witness_StartUpGoesInSteps :
    (let s := booting (fun b => { b with vin := true, resetN := false, railsOff := false }) State.reset;
      s.boot.vin = true ∧ s.boot.resetN = false ∧ s.boot.railsOff = false ∧ s.powerOk = false
        ∧ s.getF .hive R.HIVE_BOOT_STAGE < 4)
    ∧ (let s := powered State.reset
      s.powerOk = true ∧ s.booted = false ∧ 15 < 16 ∧ s.boot.clocks = false ∧ s.boot.marching = false ∧ s.clocksUp = false)
    ∧ ((booting (fun b => { b with resetN := false }) up).boot.resetN = false)
    ∧ ((booting (fun b => { b with resetN := true }) up).boot.resetN = true)
    ∧ (let s := booting (fun b => { b with vin := false, vstby := true, resetN := true }) up
      s.boot.vstby = true ∧ s.boot.vin = false ∧ s.boot.resetN = true)
    ∧ (let s := booting (fun b => { b with vin := false, vstby := true, resetN := false }) up
      s.boot.vstby = true ∧ s.boot.vin = false ∧ s.boot.resetN = false) := by
  decide +kernel
theorem witness_PerstAndSoftResetKeepWhatTheyMust :
    (let s := booting (fun b => { b with perst := false }) up;
      s.boot.perst = false ∧ (s.setTakeState 1).takeState = 1 ∧ (running s).taking = true ∧ (running s).take.last = none
        ∧ s.inTake = false)
    ∧ (let s := booting (fun b => { b with perstDue := true }) up
      s.boot.perstDue = true ∧ s.inTake = false ∧ s.allStored = true)
    ∧ (let s := booting (fun b => { b with perst := true, perstDue := false }) up
      s.boot.perst = true ∧ s.boot.perstDue = false)
    ∧ ((running up).inTake = true ∧ 0xA4 ≠ 0xA5) := by decide +kernel
def lanesFailed (n : Nat) (s : State) : State := s.setDie 9 true ⟨n, true⟩
theorem witness_LinkFaultsAndServicePorts :
    (up.has (.waggle 7) = true ∧ 7 ∉ up.boot.cutOff ∧ up.hiveTime < 2 ^ 64 ∧ 32 * (5 + 1024) < 2 ^ 64
      ∧ (running up).taking = true ∧ up.taking = false)
    ∧ (∀ n, n = 0 ∨ n = 1 ∨ n = 2 → linkPresent (lanesFailed n up).fuse.part 9 = true
      ∧ ((lanesFailed n up).die 9 true).failed = n)
    ∧ (let s : State := { supplied true false up with ports := { up.ports with pointer := 0x2FFC } }
      s.vaonUp = true ∧ s.ports.pointer < 0x3000 ∧ pageAt s.ports.pointer = some .ivr ∧ s.ports.pointer = pageBase .ivr + 0xFFC)
    ∧ (let s : State := { powered (supplied true false up) with ports := { up.ports with pointer := 0x264 } }
      s.vaonUp = true ∧ s.powerOk = true ∧ pageAt s.ports.pointer = some .hive ∧ s.ports.pointer = pageBase .hive + 0x264
        ∧ heldRegister .hive 0x264 = true)
    ∧ ((supplied false false up).vaonUp = false ∧ 0x5A ≠ 0x58)
    ∧ (let s : State := { up with ports := { up.ports with trst := false } }
      s.ports.trst = false ∧ s.inTake = false)
    ∧ (let s : State := { up with ports := { up.ports with trst := true } }
      s.ports.trst = true) := by
  refine ⟨by decide +kernel, ?_, by decide +kernel, by decide +kernel, by decide +kernel, by decide +kernel, by decide +kernel⟩
  rintro n (rfl | rfl | rfl) <;> decide +kernel

/-! ### Ill-formed commands -/

/-- A term for each check of WellFormed: none is well formed. -/
def illFormed : List Instr :=
  [.registerWrite 0x3FFFFFD [1, 2, 3, 4] false, .registerRead 0x4000000 1, .commit (.frame 8 0), .commit (.frame 0 8),
    .commit (.pll 4), .commit (.hqueue 2), .commit (.pod 8 0), .commit (.scout 0 8), .commit (.sseq 8), .commit (.press 8),
    .commit (.queue 7 10), .commit (.dram 0 2), .commit (.sram 8), .commit (.spll 0 3), .commit (.waggle 8),
    .evForce .hive (2 ^ 32), .windowRead 0x7FFFFD 4 [], .turnMark (2 ^ 64), .pllLock .hive 0, .timeAlignMessage 8 0,
    .intakeResume 8, .linkRetry 0 8, .status 0 0 .a (2 ^ 64), .marker 0 0 .a (2 ^ 48) 0 0 0 0 0, .marker 0 0 .a 0 16 0 0 0 0,
    .marker 0 0 .a 0 0 4 0 0 0, .marker 0 0 .a 0 0 0 4 0 0, .marker 0 0 .a 0 0 0 0 8 0, .trigOutPulseEnd 4, .trigIn 4 0 true,
    .waggleWireFail 10, .blockCut (.scout 8) 0 0, .blockCut (.frame 0 8) 0 0, .queuePush (.super 0 10) [] 0 0,
    .queuePush (.hive 2) [] 0 0, .queuePush (.super 0 0) [0] 0 0, .queuePop (.super 0 0) (2 ^ 8) 0, .dramAccess 0 0 2 true 0 0 [] 0,
    .dramAccess 0 0 0 true 5 0 [] 0, .dramAccess 0 0 0 true 0 0 [(32, 0)] 0, .portHeld 0 0 0 0 64, .mr4Read 0 0 8 false,
    .powerDown 0 0 0 2, .neighbourRefresh 0 0 0 0 (2 ^ 17), .trainingStepDone 0 0 (.identified (some ⟨4, 1, true, 0, true⟩)),
    .trainingStepDone 0 0 (.identified (some ⟨1, 3, true, 0, true⟩)), .trainingStepDone 0 0 (.identified (some ⟨1, 1, true, 16, true⟩)),
    .trainingStepDone 0 0 (.found 256), .marchStart 0 4 false false, .bar2Read (2 ^ 41) 1, .reqMajor 256, .hostCmdPosted (2 ^ 32),
    .commandFetch [], .drainDescriptorFetch [], .linkChanged 8 0 false false, .linkChanged 0 32 false false, .eventEnqueue 9,
    .eventRingWrite 4 0, .irqModExpire 64, .holdoffEnd (2 ^ 12), .hello 2 0 0 0, .hello 0 16 0 0, .hello 0 0 (2 ^ 12) 0, .form 32 0,
    .setup ⟨2, .good⟩ 0 0, .setup ⟨0, .good⟩ (2 ^ 16) 0, .setup ⟨0, .good⟩ 0 (2 ^ 48), .time ⟨0, .good⟩ (2 ^ 11) 0 0,
    .flag ⟨0, .good⟩ [], .hopDown 0 8, .mailSend 32 0, .periodEnd 0 0 0 (List.replicate 9 0) 0 0 0, .reeveWearLoad (2 ^ 20),
    .railFault 34, .phaseDropped 0 4, .edpTrainRetry 2, .underrun (2 ^ 16) 0, .frameCrc (2 ^ 32) 0, .auxGo 0 4 0 0, .auxGo 0 0 16 0,
    .auxGo 0 0 0 (2 ^ 20), .auxDone 4 [], .auxDone 0 (List.replicate 17 0), .coldStart true [0, 0], .coldStart true [4, 0, 0],
    .patchCheck 16 0 0 0, .patchCheck 0 (2 ^ 16) 0 0, .soft 256, .dieLaneFail 10 true, .smbusPointerWrite 128 0 true]
theorem test_ill_formed_commands_are_refused : illFormed.all (fun i => !i.wellFormed) = true := by decide +kernel
theorem test_well_formed_commands_pass :
    ([.registerRead 0x3FFFFFC 4, .commit (.queue 7 9), .queuePush (.super 7 0) (List.replicate 8 0) 0 0, .marker 7 7 .b (2 ^ 48 - 1)
      15 3 3 7 (2 ^ 64 - 1), .trainingStepDone 7 1 (.found 255), .railFault 33, .coldStart false [3, 3, 3]] : List Instr).all
        Instr.wellFormed = true := by decide +kernel
/-- No row of the table has bits. -/
theorem test_no_word_spells_a_command : decodeTableWord 32 0 = none := by decide

/-! ### The spec's worked examples -/

/-- 00_scope.md: HIVE_CAP0 of an LW4C. -/
theorem test_cap0_of_lw4c :
    ({ State.reset with fuse := { State.reset.fuse with part := .lw4c } } : State).word 0x104 = 0x00FF0F09 := by decide +kernel
/-- 02_register_pages.md: the page at BAR0 0x0181_9000 and its PAGE_ID. -/
theorem test_page_at_01819000 : pageAt 0x01819000 = some (.press 5) ∧ up.word 0x01819000 = 0x14005100 := by decide +kernel
/-- 02_register_pages.md: bit 5 of the word at offset 0x1_0000 of the frame memory of S2 F3. -/
theorem test_bit_set_alias :
    let s := out1 (.bitSetAliasWrite 0x4D0000 [some 0x20, some 0, some 0, some 0] false []) (selects 2 up)
    s.sramByte 2 0x4D0000 = 0x20 ∧ s.sramByte 2 0x4D0001 = 0 ∧ s.sramByte 3 0x4D0000 = 0 := by decide +kernel
/-- 05_cells_and_scouts.md: deskew +6, −4, +4, +13, +5 and +12 at a phase of 3 ticks. -/
theorem test_placement : [6, -4, 4, 13, 5, 12].map (placement 3) = [1, -1, 0, 2, 1, 1] := by decide +kernel
/-- 06_pattern_words.md: C8 to C15 hold 0, 0, 1, 0, 1, 1, 0, 1. -/
theorem test_bus_group : gather 0xB400 0xFF00 true = 0x2D ∧ gather 0xB400 0xFF00 false = 0xB4
    ∧ rangeTest 1 0x20 0x2F 0x2D = true ∧ rangeTest 1 0x20 0x2F 0xB4 = false := by decide +kernel
/-- 09_press.md: the words and the coded payload of the F block whose cell C0 toggles every second slot. -/
def clockBlock : CutBlock :=
  ⟨.frame 2 4, 0, 1600000, 1600208, 0, false, true, false, 0,
    (List.range 13).map (fun i => ⟨200000 + 2 * i, (i + 1) % 2, true, 0, 0, false, true⟩), [], [], [], []⟩
theorem test_press_codes_clock_block : clockBlock.rawPayload = (0, 1 :: (List.range 12).flatMap (fun i => [1, i % 2]))
    ∧ encodePress true 1 0 0 clockBlock.rawPayload.2 [] = [0x1000002B, 0xFFFC1184, 0x000003BF] := by decide +kernel
/-- 08_takes_and_store.md: the TRANSITION block of S2 F4. -/
theorem test_raw_block : (⟨.frame 2 4, 0, 400000, 400160, 0, false, false, false, 0,
    [⟨50003, 1, true, 0, 0, false, true⟩, ⟨50004, 3, true, 0, 0, false, true⟩, ⟨50015, 2, true, 0, 0, false, true⟩],
    [], [], [], []⟩ : CutBlock).rawPayload = (0x00100003, [1, 3, 0xA, 2]) := by decide +kernel
/-- 09_press.md: SC1's transitions with k = 3 and G = 3, its two records' ticks, and the loss table. -/
theorem test_lossy_options :
    loseUnit 3 3 ([1000013, 1000015, 1000020, 1000100, 1000103, 1000108].map (fun t => (t, 1000000)))
        = ([1000016, 1000104], [1000013], [1000096])
      ∧ lossTable [(1, ⟨1, 1⟩)] = [2, 0x00010001] := by decide +kernel
/-- 11_dram_scheduling.md: piece 9 of block slot 1,000,003. -/
theorem test_piece_and_bank : pieceAt 3 1000003 9 = (0, 1, 4000014)
    ∧ bankOf 1 4000014 = { rank := 0, group := 6, bank := 1, column := 4, row := 1953 } := by decide +kernel
/-- 13_on_chip_memory.md: entry 10,001 of the S3 super queue. -/
theorem test_super_queue_entry : queueWordAt (.super 3 0) 10001 0 = 0x167100 := by decide +kernel
/-- 14_host_port.md: the header of block slot 1,000,003 of S1 through a 64 GiB BAR2. -/
theorem test_dram_view : ({ up.putF .host R.HOST_BAR2_BASE_HI_BASE 0x40 with host := { up.host with bar2Log2 := 36 } }
    : State).viewAddress 0xF4243000 = 2 ^ 38 + 1000003 * 4096 := by decide +kernel
/-- 15_events.md: S3 CH0's correctable errors: number, group, vector at reset, and SOURCE_WORD. -/
theorem test_event_numbers : sourceNumber (.dram 3 0) 4 = 688 ∧ groupOf 688 = some 30 ∧ State.reset.vectorOf 30 = 30
    ∧ bitsOf ((eventWords ⟨0, 688, false, false, 1⟩ 0x411).getD 1 0) 47 32 = 0x82B0
    ∧ bitsOf ((eventWords ⟨0, 688, false, true, 4⟩ 0x412).getD 1 0) 47 32 = 0x92B0 := by decide +kernel
/-- 16_apiary_ring.md: the FLAG container of flag AF2 from position 5. -/
theorem test_flag_container : flagBody ⟨1001575, 2, 5, 2, 32000013⟩ 7 = [0x28A7, 0x4867, 0x480D, 0x01E8, 0] := by decide +kernel
/-- 16_apiary_ring.md: eight hives with an unpadded loop of 288 ns. -/
theorem test_loop_of_eight_hives :
    let s := out1 (.form 8 288) (ringAt 3 1 up)
    s.getF .ring R.RING_LOOP_K = 8 ∧ s.getF .ring R.RING_LOOP_LOOP_NS = 640 ∧ s.getF .ring R.RING_STATUS_AF_DELAY = 1552 := by
  decide +kernel
/-- 18_noticeboard.md: pixel (1,000, 700) of a 1,920 × 1,200 framebuffer at block slot 10. -/
theorem test_framebuffer_pixel :
    let s := (up.setStore 0 { up.store 0 with layout := 3 }).putF .board R.BOARD_FB_SLOT_SLOT 10 |>.putF .board R.BOARD_VTIM_ACTIVE 1200
      |>.putF .board R.BOARD_FB_FMT_STRIDE 30
    s.rasterPiece (700 * s.linePieces + 4000 / 256) = 21015 ∧ s.fbPiece 21015 = (2636, 0, 1, 4 * 2636 + 3) := by decide +kernel

end Sys2Proof.Tests
end

section
/-!
PROOFS. Page resets (R58, R60, R580, R620): a reset that is refused writes PAGE_STATUS alone, and one that is carried
out leaves the page's registers at their reset words and those of every other page as they were.
-/
namespace Sys2Proof.Machine

/-! ### Clearing a page, and what a command's end leaves alone -/

/-- The offsets of a page are the addresses that agree with its base above bit 11. -/
theorem page_offsets_iff (p : Page) (a : Nat) :
    (pageBase p + 0 ≤ a ∧ a < pageBase p + 0x1000) ↔ a / 0x1000 = pageBase p / 0x1000 := by
  have := pageBase_mod p
  omega

/-- What a key reads as once the keys that satisfy `q` have been removed. -/
theorem sget_sclear {α : Type} (d : Nat → α) (m : List (Nat × α)) (q : Nat → Bool) (k : Nat) :
    sget d (sclear m q) k = if q k = true then d k else sget d m k := by
  split
  case isTrue h => exact sget_sclear_hit d m q h
  case isFalse h => exact sget_sclear_miss d m q (Bool.eq_false_iff.mpr h)

theorem clearRegs_word (s : State) (p : Page) (lo hi a : Nat) :
    (s.clearRegs p lo hi).word a =
      if pageBase p + lo ≤ a ∧ a < pageBase p + hi then resetWord s.fuse a else s.word a := by
  unfold State.word
  simp only [State.clearRegs, sget_sclear, Bool.and_eq_true, decide_eq_true_eq]

theorem clearRegs_shadow (s : State) (p : Page) (lo hi a : Nat) :
    (s.clearRegs p lo hi).shadow a =
      if pageBase p + lo ≤ a ∧ a < pageBase p + hi then resetWord s.fuse a else s.shadow a := by
  unfold State.shadow
  simp only [State.clearRegs, sget_sclear, Bool.and_eq_true, decide_eq_true_eq]

/-- Clearing a page puts its own words at their reset words and leaves those of every other page alone (R58). -/
theorem clearPage_word (s : State) (p : Page) (a : Nat) :
    (s.clearPage p).word a = if a / 0x1000 = pageBase p / 0x1000 then resetWord s.fuse a else s.word a := by
  simp only [State.clearPage, clearRegs_word, page_offsets_iff]

/-- Clearing a page does to shadow words what it does to active ones. -/
theorem clearPage_shadow (s : State) (p : Page) (a : Nat) :
    (s.clearPage p).shadow a = if a / 0x1000 = pageBase p / 0x1000 then resetWord s.fuse a else s.shadow a := by
  simp only [State.clearPage, clearRegs_shadow, page_offsets_iff]

/-- READY shows in PAGE_STATUS. -/
theorem showReady_word_ne (s : State) (p : Page) {a : Nat} (h : a ≠ pageBase p + 0x00C) :
    (s.showReady p).word a = s.word a := by
  unfold State.showReady
  split
  · exact putF_word_ne _ _ _ _ h
  · rfl

/-- Showing READY writes registers alone. -/
theorem showReady_eq (s : State) (p : Page) : ∃ m, s.showReady p = { s with act := m } := by
  unfold State.showReady
  split
  · exact ⟨_, rfl⟩
  · exact ⟨_, rfl⟩

/-- Settling the HOLD outputs writes no shadow. -/
theorem settleHolds_shd (s : State) : s.settleHolds.shd = s.shd := by
  obtain ⟨m, hm⟩ := settleHolds_eq s
  rw [hm]

/-- A state has changed nothing of itself. -/
theorem onlyChanges_refl (s : State) (l : List StateKind) : s.onlyChanges l s := by
  intro k _
  cases k <;> simp only [State.same, and_self]

/-- PAGE_STATUS is not one of the words that show and count the HOLD outputs. -/
theorem holdWordAt_pageStatus (p : Page) : holdWordAt (pageBase p + 0x00C) = false := by
  have := pageBase_mod p
  simp only [holdWordAt, Bool.and_eq_false_iff, decide_eq_false_iff_not]
  omega

/-- Settling the HOLD outputs leaves what PAGE_STATUS shows of a page alone. -/
theorem settleHolds_resetRefused (s : State) (p : Page) :
    s.settleHolds.getF p R.PAGE_STATUS_RESET_REFUSED = s.getF p R.PAGE_STATUS_RESET_REFUSED :=
  getF_congr (settleHolds_word _ _ (holdWordAt_pageStatus p))

/-- RESET_REFUSED that has been set or cleared still shows so when the command ends. -/
theorem putF_resetRefused_settleHolds (s : State) (p : Page) (v : Nat) :
    (s.putF p R.PAGE_STATUS_RESET_REFUSED v).settleHolds.getF p R.PAGE_STATUS_RESET_REFUSED = v % 2 := by
  rw [settleHolds_resetRefused, getF_putF_self _ _ _ _ rfl]
  rfl

/-- RESET_REFUSED and the HOLD words are all that changes when RESET_REFUSED is written and the command ends. -/
theorem putF_resetRefused_settleHolds_word (s : State) (p : Page) (v : Nat) {a : Nat} (ha : a ≠ pageBase p + 0x00C)
    (hh : holdWordAt a = false) : (s.putF p R.PAGE_STATUS_RESET_REFUSED v).settleHolds.word a = s.word a := by
  rw [settleHolds_word _ _ hh]
  exact putF_word_ne _ _ _ _ ha

/-! ### What a unit holds after it has been replaced -/

@[simp] theorem frame_setFrame_self (s : State) (u f : Nat) (x : FrameSt) : (s.setFrame u f x).frame u f = x :=
  sget_sput_self (fun _ => FrameSt.reset) s.frames (unitIx u f) x

@[simp] theorem scout_setScout_self (s : State) (u k : Nat) (x : ScoutSt) : (s.setScout u k x).scout u k = x :=
  sget_sput_self (fun _ => ScoutSt.reset) s.scouts (unitIx u k) x

@[simp] theorem seq_setSeq_self (s : State) (u : Nat) (x : SeqSt) : (s.setSeq u x).seq u = x :=
  sget_sput_self (fun _ => SeqSt.reset) s.seqs u x

@[simp] theorem side_setSide_self (s : State) (u : Nat) (x : SideSt) : (s.setSide u x).side u = x :=
  sget_sput_self (fun _ => SideSt.reset) s.sides u x

/-! ### The two ends of a page reset -/

/-- When a reset is refused: always on the REEVE and IVR pages (R580), and during a take on the pages of R620. -/
theorem resetRefused_iff (s : State) (p : Page) :
    s.resetRefused p = true ↔
      p = .reeve ∨ p = .ivr ∨ (s.inTake = true ∧ (dataPage p || heldPage p) = true) := by
  simp [State.resetRefused, or_assoc]

/-- A PAGE_RESET of a page that the part has ends with the HOLD outputs settled. -/
theorem exec_pageReset {s : State} {p : Page} (h : s.has p = true) :
    exec (.pageReset p) s = .next (s.pageResetWrite p).settleHolds := by
  change (if s.has p then (s.pageResetWrite p).finish else .next s) = _
  rw [if_pos h]
  rfl

/-- A refused reset sets RESET_REFUSED and writes no other register (R620). -/
theorem pageReset_refused {s : State} {p : Page} (h : s.has p = true) (hr : s.resetRefused p = true) :
    completes (.pageReset p) s (fun t =>
      t.getF p R.PAGE_STATUS_RESET_REFUSED = 1 ∧ s.keepsWords [pageBase p + 0x00C] t ∧ t.shd = s.shd
        ∧ s.onlyChanges [.registers] t) := by
  have hw : s.pageResetWrite p = s.putF p R.PAGE_STATUS_RESET_REFUSED 1 := if_pos hr
  refine ⟨_, exec_pageReset h, ?_⟩
  rw [hw]
  refine ⟨putF_resetRefused_settleHolds s p 1, ?_, ?_⟩
  · intro a ha hh
    exact putF_resetRefused_settleHolds_word s p 1 (by simpa using ha) hh
  · have hc := frame_closed [.registers] s
    have hm : StateKind.registers ∈ [StateKind.registers] := List.mem_singleton.mpr rfl
    exact ⟨settleHolds_shd _, State.settleHolds_closed hc hm (State.putF_closed hc hm _ _ _ (onlyChanges_refl s _))⟩

/-- The pages whose registers show nothing of what surrounds their blocks: after a reset they hold their reset words. -/
def standsAlone : Page → Bool
  | .frame _ _ => true | .scout _ _ => true | .sseq _ => true | .waggle _ => true | .ring => true
  | _ => false

theorem standsAlone_cases {p : Page} (ha : standsAlone p = true) :
    (∃ u f, p = .frame u f) ∨ (∃ u k, p = .scout u k) ∨ (∃ u, p = .sseq u) ∨ (∃ u, p = .waggle u) ∨ p = .ring := by
  unfold standsAlone at ha
  split at ha
  case h_6 => cases ha
  all_goals simp

/-- The reset of a block that stands alone clears its page and writes no further register. -/
theorem resetBlock_registers (s : State) {p : Page} (ha : standsAlone p = true) :
    (s.resetBlock p).act = (s.clearPage p).act ∧ (s.resetBlock p).shd = (s.clearPage p).shd
      ∧ (s.resetBlock p).fuse = s.fuse := by
  obtain ⟨u, f, rfl⟩ | ⟨u, k, rfl⟩ | ⟨u, rfl⟩ | ⟨u, rfl⟩ | rfl := standsAlone_cases ha
  all_goals exact ⟨rfl, rfl, rfl⟩

/-- A block that stands alone shows nothing but READY after its reset. -/
theorem showPage_of_standsAlone (s : State) {p : Page} (ha : standsAlone p = true) : s.showPage p = s.showReady p := by
  obtain ⟨u, f, rfl⟩ | ⟨u, k, rfl⟩ | ⟨u, rfl⟩ | ⟨u, rfl⟩ | rfl := standsAlone_cases ha
  all_goals rfl

/-- A block that stands alone is not the HIVE block, whose page has the HOLD words. -/
theorem holdWordAt_of_standsAlone {p : Page} (ha : standsAlone p = true) (o : Nat) :
    holdWordAt (pageBase p + o) = false := by
  have hp : 0x1000 ≤ pageBase p := by
    obtain ⟨u, f, rfl⟩ | ⟨u, k, rfl⟩ | ⟨u, rfl⟩ | ⟨u, rfl⟩ | rfl := standsAlone_cases ha
    all_goals simp only [pageBase, superBase]; omega
  simp only [holdWordAt, Bool.and_eq_false_iff, decide_eq_false_iff_not]
  omega

/-- The state in which the reset of a page that is not refused ends. -/
def State.afterReset (s : State) (p : Page) : State :=
  ((s.resetPage p).putF p R.PAGE_STATUS_RESET_REFUSED 0).settleHolds

/-- A reset that is not refused is carried out. -/
theorem exec_pageReset_afterReset {s : State} {p : Page} (h : s.has p = true) (hr : s.resetRefused p = false) :
    exec (.pageReset p) s = .next (s.afterReset p) := by
  rw [exec_pageReset h, State.pageResetWrite, hr]
  rfl

/-- What follows the reset of a block that stands alone changes active registers and events alone. -/
theorem afterReset_eq (s : State) {p : Page} (ha : standsAlone p = true) :
    ∃ m e, s.afterReset p = { s.resetBlock p with act := m, ev := e } := by
  unfold State.afterReset State.resetPage
  rw [showPage_of_standsAlone _ ha]
  obtain ⟨m, hm⟩ := showReady_eq ((s.resetBlock p).forgetSources p) p
  obtain ⟨n, hn⟩ :=
    settleHolds_eq ((((s.resetBlock p).forgetSources p).showReady p).putF p R.PAGE_STATUS_RESET_REFUSED 0)
  rw [hn, hm]
  exact ⟨_, _, rfl⟩

/-- Once a block that stands alone has been reset, every active word but PAGE_STATUS and the HOLD words is that of the
cleared page. -/
theorem afterReset_word (s : State) {p : Page} (ha : standsAlone p = true) {a : Nat} (hs : a ≠ pageBase p + 0x00C)
    (hh : holdWordAt a = false) : (s.afterReset p).word a = (s.clearPage p).word a := by
  obtain ⟨hact, -, hfuse⟩ := resetBlock_registers s ha
  calc (s.afterReset p).word a
    _ = (s.resetPage p).word a := putF_resetRefused_settleHolds_word _ p 0 hs hh
    _ = ((s.resetBlock p).forgetSources p).word a := by
      rw [State.resetPage, showPage_of_standsAlone _ ha, showReady_word_ne _ _ hs]
    _ = (s.resetBlock p).word a := rfl
    _ = (s.clearPage p).word a := word_congr hact hfuse a

/-- Once a block that stands alone has been reset, every shadow word is that of the cleared page. -/
theorem afterReset_shadow (s : State) {p : Page} (ha : standsAlone p = true) (a : Nat) :
    (s.afterReset p).shadow a = (s.clearPage p).shadow a := by
  obtain ⟨-, hshd, hfuse⟩ := resetBlock_registers s ha
  obtain ⟨m, e, ht⟩ := afterReset_eq s ha
  rw [ht]
  exact shadow_congr (s := s.clearPage p) hshd hfuse a

/-- Every register of the page from 0x100 on, active and shadow, is at its reset word (R58). -/
theorem afterReset_inside (s : State) {p : Page} (ha : standsAlone p = true) {o : Nat} (ho : 0x100 ≤ o)
    (hp : o < 0x1000) :
    (s.afterReset p).word (pageBase p + o) = resetWord s.fuse (pageBase p + o)
      ∧ (s.afterReset p).shadow (pageBase p + o) = resetWord s.fuse (pageBase p + o) := by
  have hm := pageBase_mod p
  rw [afterReset_word s ha (by omega) (holdWordAt_of_standsAlone ha o), afterReset_shadow s ha, clearPage_word,
    clearPage_shadow, if_pos (by omega), if_pos (by omega)]
  exact ⟨rfl, rfl⟩

/-- No register of another page has changed but those that show and count the HOLD outputs. -/
theorem afterReset_outside (s : State) {p : Page} (ha : standsAlone p = true) {a : Nat}
    (h : a / 0x1000 ≠ pageBase p / 0x1000) (hh : holdWordAt a = false) :
    (s.afterReset p).word a = s.word a ∧ (s.afterReset p).shadow a = s.shadow a := by
  have hm := pageBase_mod p
  rw [afterReset_word s ha (by omega) hh, afterReset_shadow s ha, clearPage_word, clearPage_shadow, if_neg h, if_neg h]
  exact ⟨rfl, rfl⟩

/-- Settles O12, in its two halves: a refused reset, and one that clears the page of a block that stands alone. -/
theorem pageResetIsRefusedOrRestoresReset : Obligations.PageResetIsRefusedOrRestoresReset := by
  unfold Obligations.PageResetIsRefusedOrRestoresReset
  intro s p hp
  refine ⟨fun hr => pageReset_refused hp ((resetRefused_iff s p).mpr hr), fun htake halone => ?_⟩
  have ha : standsAlone p = true := by
    split at halone
    case h_6 => exact halone.elim
    all_goals rfl
  have hr : s.resetRefused p = false := by
    rw [Bool.eq_false_iff, ne_eq, resetRefused_iff]
    rintro (rfl | rfl | h)
    · cases ha
    · cases ha
    · exact htake h
  refine ⟨_, exec_pageReset_afterReset hp hr, putF_resetRefused_settleHolds _ _ 0,
    fun _ ho hp => afterReset_inside s ha ho hp, fun _ h hh => afterReset_outside s ha h hh, ?_⟩
  obtain ⟨m, e, ht⟩ := afterReset_eq s ha
  rw [ht]
  split
  case h_1 u f => exact frame_setFrame_self (s.clearPage (.frame u f)) u f _
  case h_2 u k => exact scout_setScout_self (s.clearPage (.scout u k)) u k _
  case h_3 u => exact seq_setSeq_self (s.clearPage (.sseq u)) u .reset
  case h_4 u => exact side_setSide_self (s.clearPage (.waggle u)) u .reset
  case h_5 => rfl
  case h_6 => trivial

end Sys2Proof.Machine
end

section
/-!
PROOFS. TURN_MARK (R86, R87): hive time moves on to the tick of the edge, which is then counted early, or latched and counted.
-/
namespace Sys2Proof.Machine

/-! ### Hive time at the tick of a command -/

/-- Moving hive time on changes hive time and its copies alone. -/
theorem advanceTo_eq (s : State) (t : Nat) : ∃ h m, s.advanceTo t = { s with hiveTime := h, superTime := m } := by
  unfold State.advanceTo
  split
  · exact ⟨_, _, rfl⟩
  · exact ⟨_, _, rfl⟩

@[simp] theorem advanceTo_turnAt (s : State) (t : Nat) : (s.advanceTo t).turnAt = s.turnAt := by
  obtain ⟨h, m, e⟩ := advanceTo_eq s t
  rw [e]

@[simp] theorem advanceTo_word (s : State) (t a : Nat) : (s.advanceTo t).word a = s.word a := by
  obtain ⟨h, m, e⟩ := advanceTo_eq s t
  rw [e]
  rfl

@[simp] theorem advanceTo_getF (s : State) (t : Nat) (p : Page) (f : Fld) : (s.advanceTo t).getF p f = s.getF p f :=
  getF_congr (advanceTo_word s t _)

/-- Hive time moves on to an instant that is not past and fits 64 bits. -/
theorem advanceTo_hiveTime {s : State} {t : Nat} (h : s.hiveTime ≤ t) (ht : t < 2 ^ 64) :
    (s.advanceTo t).hiveTime = t := by
  unfold State.advanceTo
  split
  case isTrue hlt =>
    change (s.hiveTime + (t - s.hiveTime)) % timeModulus = t
    rw [Nat.add_sub_cancel' h]
    exact Nat.mod_eq_of_lt ht
  case isFalse hge => omega

/-! ### A pair of registers -/

/-- A pair of 32-bit fields that has been given a value of 64 bits shows it. -/
theorem getPair_putPair (s : State) (p : Page) {lo hi : Fld} {v : Nat} (hlo : lo.fits = true) (hhi : hi.fits = true)
    (ha : hi.apart lo = true) (slo : lo.size = 2 ^ 32) (shi : hi.size = 2 ^ 32) (hv : v < 2 ^ 64) :
    (s.putPair p lo hi v).getPair p lo hi = v := by
  unfold State.putPair State.getPair
  rw [getF_putF_apart _ _ _ _ _ hlo ha, getF_putF_self _ _ _ _ hlo, getF_putF_self _ _ _ _ hhi, slo, shi,
    Nat.shiftRight_eq_div_pow]
  omega

/-- A pair keeps its value while another field of the page takes one. -/
theorem getPair_putF_apart (s : State) (p : Page) {f lo hi : Fld} (v : Nat) (hlo : lo.fits = true)
    (hhi : hi.fits = true) (alo : f.apart lo = true) (ahi : f.apart hi = true) :
    (s.putF p f v).getPair p lo hi = s.getPair p lo hi := by
  unfold State.getPair
  rw [getF_putF_apart _ _ _ _ _ hlo alo, getF_putF_apart _ _ _ _ _ hhi ahi]

/-- A field keeps its value while a pair of other fields of the page takes one. -/
theorem getF_putPair_apart (s : State) (p : Page) {lo hi g : Fld} (v : Nat) (hg : g.fits = true)
    (alo : lo.apart g = true) (ahi : hi.apart g = true) : (s.putPair p lo hi v).getF p g = s.getF p g := by
  unfold State.putPair
  rw [getF_putF_apart _ _ _ _ _ hg ahi, getF_putF_apart _ _ _ _ _ hg alo]

/-! ### An accepted edge, and an early one -/

/-- The turn registers take an accepted edge: its tick is latched and it is counted (R86). -/
def State.latchTurn (s : State) (tick : Nat) : State :=
  (s.putPair (.pll 0) R.PLL_TIME_TURN_LO_TIME R.PLL_TIME_TURN_HI_TIME tick).putF (.pll 0) R.PLL_TIME_TURN_COUNT_COUNT
    (s.getF (.pll 0) R.PLL_TIME_TURN_COUNT_COUNT + 1)

theorem latchTurn_pair (s : State) {tick : Nat} (h : tick < 2 ^ 64) :
    (s.latchTurn tick).getPair (.pll 0) R.PLL_TIME_TURN_LO_TIME R.PLL_TIME_TURN_HI_TIME = tick := by
  rw [State.latchTurn, getPair_putF_apart _ _ _ rfl rfl rfl rfl, getPair_putPair _ _ rfl rfl rfl rfl rfl h]

theorem latchTurn_count (s : State) (tick : Nat) :
    (s.latchTurn tick).getF (.pll 0) R.PLL_TIME_TURN_COUNT_COUNT
      = (s.getF (.pll 0) R.PLL_TIME_TURN_COUNT_COUNT + 1) % 2 ^ 32 := by
  rw [State.latchTurn, getF_putF_self _ _ _ _ rfl]
  rfl

theorem latchTurn_early (s : State) (tick : Nat) :
    (s.latchTurn tick).getF (.pll 0) R.PLL_TIME_CTRL_TURN_EARLY = s.getF (.pll 0) R.PLL_TIME_CTRL_TURN_EARLY := by
  rw [State.latchTurn, getF_putF_apart _ _ _ _ _ rfl rfl, getF_putPair_apart _ _ _ rfl rfl rfl]

/-- The state after an accepted edge, but for the take: the edge is latched and counted, and the next one is measured from
it (R87). -/
def State.afterTurn (s : State) (tick : Nat) : State :=
  { (s.advanceTo tick).latchTurn tick with turnAt := some tick }

theorem afterTurn_getF (s : State) (tick : Nat) (k : TakeSt) (p : Page) (f : Fld) :
    ({ s.afterTurn tick with take := k } : State).getF p f = ((s.advanceTo tick).latchTurn tick).getF p f :=
  getF_congr (word_congr rfl rfl _)

/-- The TURN record of an accepted edge, where one is due (R298). -/
def State.recordTurn (s : State) (tick : Nat) : State :=
  if s.turnDue then s.systemMark (sysRec 0x07 0xF tick 0 (s.getF (.pll 0) R.PLL_TIME_TURN_COUNT_COUNT) 0 0) else s

/-- A system record that arises changes the take alone. -/
theorem systemMark_eq (s : State) (r : MarkRec) : ∃ k, s.systemMark r = { s with take := k } := by
  unfold State.systemMark
  split
  · split
    · exact ⟨_, rfl⟩
    · exact ⟨_, rfl⟩
  · exact ⟨_, rfl⟩

theorem recordTurn_eq (s : State) (tick : Nat) : ∃ k, s.recordTurn tick = { s with take := k } := by
  unfold State.recordTurn
  split
  · exact systemMark_eq s _
  · exact ⟨_, rfl⟩

/-- An edge less than 32 ticks after the last accepted one is counted in TURN_EARLY (R87). -/
theorem exec_turnMark_early {s : State} {tick a : Nat} (ha : s.turnAt = some a) (h : tick < a + 32) :
    exec (.turnMark tick) s = .next ((s.advanceTo tick).bump (.pll 0) R.PLL_TIME_CTRL_TURN_EARLY 1) := by
  change execTurnMark tick s = _
  simp [execTurnMark, ha, h]

/-- Any other edge is latched and counted, and may write a TURN record (R86, R298). -/
theorem exec_turnMark_accepted {s : State} {tick : Nat} (h : ∀ a, s.turnAt = some a → a + 32 ≤ tick) :
    exec (.turnMark tick) s = .next ((s.afterTurn tick).recordTurn tick) := by
  change execTurnMark tick s = _
  unfold execTurnMark
  cases ha : s.turnAt with
  | none =>
    simp only [advanceTo_turnAt, ha]
    rfl
  | some a =>
    have late : ¬ tick < a + 32 := Nat.not_lt.mpr (h a ha)
    simp only [advanceTo_turnAt, ha, late, decide_false]
    rfl

/-- Whatever an answered command changes is of the kinds that it touches. -/
theorem onlyChanges_of_exec {c : Instr} {s t : State} (h : exec c s = .next t) : s.onlyChanges (touches c) t :=
  nextHas_iff.mp (exec_closed (frame_closed (touches c) s) c (fun _ hk => hk) (onlyChanges_refl s _)) t h

/-- An early edge moves hive time and the registers alone: the take has no part in it. -/
theorem bump_advanceTo_onlyChanges (s : State) (tick : Nat) (p : Page) (f : Fld) (n : Nat) :
    s.onlyChanges [.registers, .time] ((s.advanceTo tick).bump p f n) := by
  have hc := frame_closed [.registers, .time] s
  exact State.bump_closed hc (by decide) _ _ _ (State.advanceTo_closed hc (by decide) _ (onlyChanges_refl s _))

/-- Settles O21, by the last accepted edge: 32 ticks or more before the edge, or less. -/
theorem turnMarksAreLatchedOrCountedEarly : Obligations.TurnMarksAreLatchedOrCountedEarly := by
  unfold Obligations.TurnMarksAreLatchedOrCountedEarly
  intro s tick hnow hfits
  constructor
  · intro hlast
    have hk := exec_turnMark_accepted hlast
    obtain ⟨k, he⟩ := recordTurn_eq (s.afterTurn tick) tick
    rw [he] at hk
    refine ⟨_, hk, ?_, ?_, ?_, rfl, advanceTo_hiveTime hnow hfits, onlyChanges_of_exec hk⟩
    · rw [afterTurn_getF, afterTurn_getF]
      exact latchTurn_pair _ hfits
    · rw [afterTurn_getF, latchTurn_count, advanceTo_getF]
    · rw [afterTurn_getF, latchTurn_early, advanceTo_getF]
  · intro a ha hearly
    refine ⟨_, exec_turnMark_early ha hearly, ?_, advanceTo_turnAt s tick, ?_, bump_advanceTo_onlyChanges s tick _ _ _⟩
    · rw [State.counted, getF_bump_self _ _ _ _ rfl, advanceTo_getF, satAdd]
    · intro b hb _
      rw [bump_word_ne _ _ _ _ (fun e => hb (List.mem_singleton.mpr e)), advanceTo_word]

end Sys2Proof.Machine
end

section
/-!
PROOFS. Pattern words (R202 to R207): the vectors of the pseudocode of R206 by their bits, then its terms, then the raw
result where a cell that the word reads is not PRESENT, and where all of them are.
-/
namespace Sys2Proof.Machine

/-! ### Vectors by their bits -/

@[simp] theorem bitOf_zero (c : Nat) : bitOf 0 c = false := Nat.zero_testBit c

@[simp] theorem bitOf_and (a b c : Nat) : bitOf (a &&& b) c = (bitOf a c && bitOf b c) := Nat.testBit_and a b c

@[simp] theorem bitOf_or (a b c : Nat) : bitOf (a ||| b) c = (bitOf a c || bitOf b c) := Nat.testBit_or a b c

@[simp] theorem bitOf_xor (a b c : Nat) : bitOf (a ^^^ b) c = (bitOf a c ^^ bitOf b c) := Nat.testBit_xor a b c

/-- The complement of a vector of 32 cells. -/
theorem bitOf_xor_ones {c : Nat} (h : c < 32) (a : Nat) : bitOf (a ^^^ 0xFFFFFFFF) c = !bitOf a c := by
  have ones : bitOf 0xFFFFFFFF c = true :=
    (Nat.testBit_two_pow_sub_one 32 c).trans (decide_eq_true h)
  rw [bitOf_xor, ones, Bool.xor_true]

/-- A vector of 32 cells has no bit beyond them. -/
theorem lt_of_bitOf {n c : Nat} (hn : n < 2 ^ 32) (h : bitOf n c = true) : c < 32 := by
  refine Nat.lt_of_not_le fun hc => ?_
  have beyond : bitOf n c = false :=
    Nat.testBit_lt_two_pow (Nat.lt_of_lt_of_le hn (Nat.pow_le_pow_right Nat.two_pos hc))
  exact Bool.false_ne_true (beyond.symm.trans h)

theorem ne_zero_iff_bitOf {n : Nat} : n ≠ 0 ↔ ∃ c, bitOf n c = true := by
  constructor
  · exact Nat.exists_testBit_of_ne_zero
  · rintro ⟨c, hc⟩ rfl
    simp at hc

/-- A vector that is built from a list of cells has the bits of those cells. -/
theorem bitOf_ofBits (l : List Nat) (c : Nat) : bitOf (ofBits l) c = decide (c ∈ l) := by
  suffices h : ∀ w, bitOf (l.foldl (fun w i => w ||| 2 ^ i) w) c = (bitOf w c || decide (c ∈ l)) from
    (h 0).trans (by simp)
  induction l with
  | nil => simp
  | cons j l ih =>
    intro w
    have power : bitOf (2 ^ j) c = decide (c = j) := by simp [bitOf, Nat.testBit_two_pow, eq_comm]
    rw [List.foldl_cons, ih, bitOf_or, power, Bool.or_assoc]
    simp

/-- Two vectors agree in the cells of a mask (the match term of R206). -/
theorem xor_and_eq_zero_iff (v x mask : Nat) :
    (v ^^^ x) &&& mask = 0 ↔ ∀ c, bitOf mask c = true → bitOf v c = bitOf x c := by
  have bits : ∀ c, bitOf ((v ^^^ x) &&& mask) c = bitOf 0 c ↔ (bitOf mask c = true → bitOf v c = bitOf x c) := by
    intro c
    rw [bitOf_and, bitOf_xor, bitOf_zero]
    cases bitOf mask c <;> cases bitOf v c <;> cases bitOf x c <;> decide
  rw [← forall_congr' bits]
  exact ⟨fun he c => by rw [he], Nat.eq_of_testBit_eq⟩

/-- The cells of one vector are cells of another (the join ALL of R206). -/
theorem and_eq_right_iff_bitOf (h e : Nat) : h &&& e = e ↔ ∀ c, bitOf e c = true → bitOf h c = true := by
  have bits : ∀ c, bitOf (h &&& e) c = bitOf e c ↔ (bitOf e c = true → bitOf h c = true) := fun c => by
    simp
  rw [← forall_congr' bits]
  exact ⟨fun he c => by rw [he], Nat.eq_of_testBit_eq⟩

/-! ### The edge term (R203) -/

/-- The edge code of a cell is not NONE. -/
def WordSet.coded (w : WordSet) (c : Nat) : Bool := bitOf (edgeCodes w) (2 * c) || bitOf (edgeCodes w) (2 * c + 1)

/-- A cell shows the edge that its code selects. -/
def WordSet.hit (w : WordSet) (o : CellOut) (c : Nat) : Bool :=
  (bitOf (edgeCodes w) (2 * c) && bitOf o.rise c) || (bitOf (edgeCodes w) (2 * c + 1) && bitOf o.fall c)

theorem coded_of_hit {w : WordSet} {o : CellOut} {c : Nat} (h : w.hit o c = true) : w.coded c = true := by
  simp only [WordSet.hit, WordSet.coded, Bool.or_eq_true, Bool.and_eq_true] at h ⊢
  exact h.imp And.left And.left

theorem bitOf_riseCells (w : WordSet) (c : Nat) :
    bitOf (riseCells w) c = (decide (c < 32) && bitOf (edgeCodes w) (2 * c)) := by
  simp [riseCells, bitOf_ofBits]

theorem bitOf_fallCells (w : WordSet) (c : Nat) :
    bitOf (fallCells w) c = (decide (c < 32) && bitOf (edgeCodes w) (2 * c + 1)) := by
  simp [fallCells, bitOf_ofBits]

/-- ECELLS of R206 has the bits of the coded cells. -/
theorem bitOf_edgeCells (w : WordSet) (c : Nat) : bitOf (edgeCells w) c = (decide (c < 32) && w.coded c) := by
  unfold edgeCells WordSet.coded
  split
  case isTrue uncoded => simp [uncoded]
  case isFalse => rw [bitOf_or, bitOf_riseCells, bitOf_fallCells, Bool.and_or_distrib_left]

/-- EHIT of R206 has the bits of the cells that show their edge. -/
theorem bitOf_edgeHits (w : WordSet) (o : CellOut) (c : Nat) :
    bitOf (edgeHits w o) c = (decide (c < 32) && w.hit o c) := by
  unfold edgeHits WordSet.hit
  split
  case isTrue uncoded => simp [uncoded]
  case isFalse =>
    rw [bitOf_or, bitOf_and, bitOf_and, bitOf_riseCells, bitOf_fallCells, Bool.and_or_distrib_left, Bool.and_assoc,
      Bool.and_assoc]

/-- The edge term is enabled when any cell's code is not NONE. -/
theorem edgeCells_ne_zero_iff (w : WordSet) : edgeCells w ≠ 0 ↔ ∃ c, c < 32 ∧ w.coded c = true := by
  simp [ne_zero_iff_bitOf, bitOf_edgeCells]

/-- With EDGE_JOIN at 1, every coded cell has to show its edge. -/
theorem edgeHits_all_iff (w : WordSet) (o : CellOut) :
    edgeHits w o &&& edgeCells w = edgeCells w ↔ ∀ c, c < 32 → w.coded c = true → w.hit o c = true := by
  rw [and_eq_right_iff_bitOf]
  refine forall_congr' fun c => ?_
  by_cases hc : c < 32 <;> simp [bitOf_edgeCells, bitOf_edgeHits, hc]

/-- With EDGE_JOIN at 0, one cell that shows its edge is enough. -/
theorem edgeHits_any_iff (w : WordSet) (o : CellOut) :
    edgeHits w o &&& edgeCells w ≠ 0 ↔ ∃ c, c < 32 ∧ w.hit o c = true := by
  rw [ne_zero_iff_bitOf]
  refine exists_congr fun c => ?_
  rw [bitOf_and, bitOf_edgeHits, bitOf_edgeCells]
  simp only [Bool.and_eq_true, decide_eq_true_eq]
  exact ⟨And.left, fun h => ⟨h, h.left, coded_of_hit h.right⟩⟩

/-- The edge term `e` of R206. -/
def WordSet.edgeTerm (w : WordSet) (o : CellOut) : Bool :=
  if w.joinAll then (edgeHits w o &&& edgeCells w) == edgeCells w else (edgeHits w o &&& edgeCells w) != 0

theorem edgeTerm_iff (w : WordSet) (o : CellOut) :
    w.edgeTerm o = true ↔
      if w.joinAll then ∀ c, c < 32 → w.coded c = true → w.hit o c = true else ∃ c, c < 32 ∧ w.hit o c = true := by
  unfold WordSet.edgeTerm
  split
  · rw [beq_iff_eq, edgeHits_all_iff]
  · rw [bne_iff_ne, edgeHits_any_iff]

/-! ### The range term (R205) -/

theorem rangeTest_iff {op : Nat} (hop : op < 4) (hon : op ≠ 0) (lo hi v : Nat) :
    rangeTest op lo hi v = true ↔
      if op = 1 then lo ≤ v ∧ v ≤ hi else if op = 2 then v < lo ∨ hi < v else v = lo := by
  obtain rfl | rfl | rfl : op = 1 ∨ op = 2 ∨ op = 3 := by omega
  all_goals simp [rangeTest]

/-! ### The raw result (R206, R207) -/

theorem bitOf_cellsRead (w : WordSet) (c : Nat) :
    bitOf (cellsRead w) c =
      (bitOf w.mask c || (decide (c < 32) && w.coded c) || (decide (w.rangeOp ≠ 0) && bitOf w.busMask c)) := by
  unfold cellsRead
  rw [bitOf_or, bitOf_or, bitOf_edgeCells]
  by_cases h : w.rangeOp = 0 <;> simp [h]

/-- Some cell that the word reads is not PRESENT. -/
theorem readsAbsent_iff {w : WordSet} (o : CellOut) (hmask : w.mask < 2 ^ 32) (hbus : w.busMask < 2 ^ 32) :
    cellsRead w &&& (o.present ^^^ 0xFFFFFFFF) ≠ 0 ↔
      ∃ c, c < 32 ∧ bitOf o.present c = false
        ∧ (bitOf w.mask c = true ∨ w.coded c = true ∨ (w.rangeOp ≠ 0 ∧ bitOf w.busMask c = true)) := by
  rw [ne_zero_iff_bitOf]
  refine exists_congr fun c => ?_
  by_cases hc : c < 32
  · rw [bitOf_and, bitOf_xor_ones hc, bitOf_cellsRead]
    simp [hc, and_comm, or_assoc]
  · have noMask : bitOf w.mask c = false := Bool.eq_false_iff.mpr fun h => hc (lt_of_bitOf hmask h)
    have noBus : bitOf w.busMask c = false := Bool.eq_false_iff.mpr fun h => hc (lt_of_bitOf hbus h)
    simp [bitOf_cellsRead, hc, noMask, noBus]

theorem rawResult_of_readsAbsent {w : WordSet} {o : CellOut} (h : cellsRead w &&& (o.present ^^^ 0xFFFFFFFF) ≠ 0) :
    rawResult w o = false := by
  unfold rawResult
  exact if_pos (bne_iff_ne.mpr h)

/-- The terms of a word combined, before its inversion (R206): those that are enabled hold, and one of them is enabled. -/
def WordSet.combined (w : WordSet) (o : CellOut) : Bool :=
  if !(w.mask != 0) && !(edgeCells w != 0) && !(w.rangeOp != 0) then false
  else (!(w.mask != 0) || ((o.value ^^^ w.value) &&& w.mask) == 0) && (!(edgeCells w != 0) || w.edgeTerm o)
    && (!(w.rangeOp != 0) || rangeTest w.rangeOp w.lo w.hi (gather o.value w.busMask w.busDesc))

/-- A term that is enabled has to hold. -/
theorem enabledTerm_iff (n : Nat) (b : Bool) : (!(n != 0) || b) = true ↔ (n ≠ 0 → b = true) := by
  by_cases h : n = 0 <;> simp [h]

theorem combined_iff (w : WordSet) (o : CellOut) :
    w.combined o = true ↔
      (w.mask ≠ 0 ∨ edgeCells w ≠ 0 ∨ w.rangeOp ≠ 0)
        ∧ (w.mask ≠ 0 → (o.value ^^^ w.value) &&& w.mask = 0)
        ∧ (edgeCells w ≠ 0 → w.edgeTerm o = true)
        ∧ (w.rangeOp ≠ 0 → rangeTest w.rangeOp w.lo w.hi (gather o.value w.busMask w.busDesc) = true) := by
  unfold WordSet.combined
  split
  case isTrue off =>
    simp only [Bool.and_eq_true, Bool.not_eq_true', bne_eq_false_iff_eq] at off
    obtain ⟨⟨noMask, noEdge⟩, noRange⟩ := off
    simp [noMask, noEdge, noRange]
  case isFalse on =>
    simp only [Bool.and_eq_true, Bool.not_eq_true', bne_eq_false_iff_eq] at on
    have someTerm : w.mask ≠ 0 ∨ edgeCells w ≠ 0 ∨ w.rangeOp ≠ 0 := by omega
    rw [Bool.and_eq_true, Bool.and_eq_true, enabledTerm_iff, enabledTerm_iff, enabledTerm_iff, beq_iff_eq, and_assoc]
    exact ⟨fun h => ⟨someTerm, h⟩, And.right⟩

/-- With every cell that it reads PRESENT, a word shows its terms combined, inverted where INVERT says so. -/
theorem rawResult_of_readsPresent {w : WordSet} {o : CellOut}
    (h : cellsRead w &&& (o.present ^^^ 0xFFFFFFFF) = 0) : rawResult w o = (w.combined o ^^ w.invert) := by
  unfold rawResult
  exact if_neg (by simp [h])

/-- An exclusive or with INVERT, as an equivalence of conditions. -/
theorem xor_eq_true_iff_iff (t i : Bool) : (t ^^ i) = true ↔ (t = true ↔ i = false) := by
  cases i <;> simp

/-- Settles O30, by the cells that the word reads: one of them without PRESENT, or all of them with it. -/
theorem patternWordsFollowTheirTerms : Obligations.PatternWordsFollowTheirTerms := by
  unfold Obligations.PatternWordsFollowTheirTerms
  intro w o coded hit v m e r mOn eOn rOn hop _ _ hmask hbus _
  have absent := readsAbsent_iff o hmask hbus
  constructor
  · exact fun h => rawResult_of_readsAbsent (absent.mpr h)
  · intro present
    have allPresent : cellsRead w &&& (o.present ^^^ 0xFFFFFFFF) = 0 := by
      refine Decidable.byContradiction fun h => ?_
      obtain ⟨c, hc, gone, reads⟩ := absent.mp h
      exact Bool.false_ne_true (gone.symm.trans (present c hc reads))
    have rangeTerm : (rOn → rangeTest w.rangeOp w.lo w.hi v = true) ↔ (rOn → r) :=
      imp_congr_right fun hon => rangeTest_iff hop hon w.lo w.hi v
    rw [rawResult_of_readsPresent allPresent, xor_eq_true_iff_iff, combined_iff, xor_and_eq_zero_iff,
      edgeCells_ne_zero_iff, edgeTerm_iff]
    exact iff_congr (and_congr_right fun _ => and_congr_right fun _ => and_congr_right fun _ => rangeTerm) Iff.rfl

end Sys2Proof.Machine
end

section
/-!
PROOFS. The march engine (R434, R436 to R442): a START begins a run or is refused, a retention wait ends, and a run that is
done leaves its engine idle, the bytes that it tested zero where it is destructive, and every other byte as it was.
-/
namespace Sys2Proof.Machine

/-! ### What a command on a page leaves alone -/

/-- A command on the block of a page that the part has ends with the HOLD outputs settled. -/
theorem on_of_has {s : State} {p : Page} (h : s.has p = true) (t : State) : s.on p t = .next t.settleHolds := if_pos h

/-- The register words that differ between two states are active ones at the addresses of a list, or those that show and
count the HOLD outputs. -/
def State.writesOnly (l : List Nat) (s t : State) : Prop := s.keepsWords l t ∧ t.shd = s.shd

theorem State.writesOnly.refl (l : List Nat) (s : State) : s.writesOnly l s := ⟨fun _ _ _ => rfl, rfl⟩

theorem State.writesOnly.putF {l : List Nat} {s t : State} {p : Page} {f : Fld} (h : s.writesOnly l t)
    (hf : pageBase p + f.off ∈ l) (v : Nat) : s.writesOnly l (t.putF p f v) :=
  ⟨fun a ha hh => (putF_word_ne t p f v fun e => ha (by rwa [e])).trans (h.1 a ha hh), h.2⟩

theorem State.writesOnly.settleHolds {l : List Nat} {s t : State} (h : s.writesOnly l t) :
    s.writesOnly l t.settleHolds :=
  ⟨fun a ha hh => (settleHolds_word t a hh).trans (h.1 a ha hh), (settleHolds_shd t).trans h.2⟩

theorem State.writesOnly.setSramOf {l : List Nat} {s t : State} (h : s.writesOnly l t) (u : Nat) (x : SramSt) :
    s.writesOnly l (t.setSramOf u x) := h

/-- A word keeps its value while a field of another page takes one. -/
theorem putF_word_page (s : State) {p : Page} {f : Fld} (v : Nat) {a : Nat} (h : a / 0x1000 ≠ pageBase p / 0x1000)
    (hf : f.off < 0x1000) : (s.putF p f v).word a = s.word a := by
  refine putF_word_ne s p f v ?_
  have := pageBase_mod p
  omega

theorem putF_fuse (s : State) (p : Page) (f : Fld) (v : Nat) : (s.putF p f v).fuse = s.fuse := rfl

theorem settleHolds_srams (s : State) : s.settleHolds.srams = s.srams := by
  obtain ⟨m, hm⟩ := settleHolds_eq s
  rw [hm]

/-- A field of an SRAM page keeps its value while the HOLD outputs are settled. -/
theorem settleHolds_getF_sram (s : State) (u : Nat) (f : Fld) :
    s.settleHolds.getF (.sram u) f = s.getF (.sram u) f := by
  refine getF_congr (settleHolds_word _ _ (Bool.and_eq_false_imp.mpr fun _ => decide_eq_false ?_))
  simp only [pageBase, superBase]
  omega

/-! ### The memories of a super -/

@[simp] theorem sramOf_setSramOf_self (s : State) (u : Nat) (x : SramSt) : (s.setSramOf u x).sramOf u = x :=
  sget_sput_self _ _ _ _

theorem sramOf_congr {s t : State} (h : t.srams = s.srams) (u : Nat) : t.sramOf u = s.sramOf u := by
  unfold State.sramOf
  rw [h]

@[simp] theorem settleHolds_sramOf (s : State) (u : Nat) : s.settleHolds.sramOf u = s.sramOf u :=
  sramOf_congr (settleHolds_srams s) u

@[simp] theorem putF_sramOf (s : State) (p : Page) (f : Fld) (v u : Nat) : (s.putF p f v).sramOf u = s.sramOf u :=
  sramOf_congr rfl u

/-- The bytes of the on-chip memories depend on what is stored there and on the epochs of the working regions alone. -/
theorem sramByte_congr {s t : State} (h : s.same t .sram) (v off : Nat) : t.sramByte v off = s.sramByte v off := by
  obtain ⟨hm, he⟩ := h
  have hd : t.sramDefault = s.sramDefault := by
    funext a
    unfold State.sramDefault
    rw [he]
  unfold State.sramByte
  rw [hm, hd]

@[simp] theorem settleHolds_sramByte (s : State) (v off : Nat) : s.settleHolds.sramByte v off = s.sramByte v off := by
  obtain ⟨m, hm⟩ := settleHolds_eq s
  rw [hm]
  exact sramByte_congr ⟨rfl, rfl⟩ v off

@[simp] theorem putF_sramByte (s : State) (p : Page) (f : Fld) (w v off : Nat) :
    (s.putF p f w).sramByte v off = s.sramByte v off :=
  sramByte_congr ⟨rfl, rfl⟩ v off

/-- A table reads alike for two defaults that agree at the key. -/
theorem sget_default_congr {α : Type} {d e : Nat → α} (m : List (Nat × α)) {k : Nat} (h : d k = e k) :
    sget d m k = sget e m k := by
  induction m with
  | nil => exact h
  | cons x m ih => simp only [sget, ih]

theorem sramKey_div (u : Nat) {off : Nat} (h : off < 2 ^ 23) : sramKey u off / 2 ^ 23 = u := by
  unfold sramKey
  omega

theorem sramKey_mod (u : Nat) {off : Nat} (h : off < 2 ^ 23) : sramKey u off % 2 ^ 23 = off := by
  unfold sramKey
  omega

/-! ### A START (R434, R442) -/

/-- SRAM_MARCH_CTRL takes BOOT, MODE and TARGET of a write with START at 1. -/
def State.putMarchCtrl (s : State) (u boot : Nat) (mode target : Bool) : State :=
  ((s.putF (.sram u) R.SRAM_MARCH_CTRL_BOOT boot).putF (.sram u) R.SRAM_MARCH_CTRL_MODE (flag mode)).putF (.sram u)
    R.SRAM_MARCH_CTRL_TARGET (flag target)

theorem exec_marchStart {s : State} {u : Nat} (h : u < s.fuse.part.supers) (boot : Nat) (mode target : Bool) :
    exec (.marchStart u boot mode target) s
      = .next ((s.putMarchCtrl u boot mode target).marchStart u).settleHolds :=
  on_of_has (p := .sram u) (decide_eq_true h) _

/-- A field that SRAM_MARCH_CTRL does not hold keeps its value. -/
theorem putMarchCtrl_getF (s : State) (u boot : Nat) (mode target : Bool) {p : Page} {f : Fld}
    (h : pageBase p + f.off ≠ pageBase (.sram u) + 0x100) :
    (s.putMarchCtrl u boot mode target).getF p f = s.getF p f := by
  unfold State.putMarchCtrl
  rw [getF_putF_ne _ _ _ _ _ _ h, getF_putF_ne _ _ _ _ _ _ h, getF_putF_ne _ _ _ _ _ _ h]

theorem putMarchCtrl_mode (s : State) (u boot : Nat) (mode target : Bool) :
    (s.putMarchCtrl u boot mode target).isSet (.sram u) R.SRAM_MARCH_CTRL_MODE = mode := by
  unfold State.putMarchCtrl State.isSet
  rw [getF_putF_apart _ _ _ _ _ rfl rfl, getF_putF_self _ _ _ _ rfl]
  cases mode <;> rfl

theorem putMarchCtrl_target (s : State) (u boot : Nat) (mode target : Bool) :
    (s.putMarchCtrl u boot mode target).isSet (.sram u) R.SRAM_MARCH_CTRL_TARGET = target := by
  unfold State.putMarchCtrl State.isSet
  rw [getF_putF_self _ _ _ _ rfl]
  cases target <;> rfl

theorem putMarchCtrl_sramOf (s : State) (u boot : Nat) (mode target : Bool) :
    (s.putMarchCtrl u boot mode target).sramOf u = s.sramOf u := by
  simp only [State.putMarchCtrl, putF_sramOf]

theorem putMarchCtrl_enabled (s : State) (u boot : Nat) (mode target : Bool) :
    (s.putMarchCtrl u boot mode target).enabled (.sram u) = s.enabled (.sram u) := by
  have hf : (s.putMarchCtrl u boot mode target).fuse = s.fuse := by
    rw [State.putMarchCtrl, putF_fuse, putF_fuse, putF_fuse]
  unfold State.enabled State.isSet
  rw [putMarchCtrl_getF _ _ _ _ _ (by simp only [R.PAGE_CTRL_ENABLE]; omega), hf]

theorem putMarchCtrl_inTake (s : State) (u boot : Nat) (mode target : Bool) :
    (s.putMarchCtrl u boot mode target).inTake = s.inTake := by
  unfold State.inTake State.takeState
  rw [putMarchCtrl_getF]
  simp only [pageBase, superBase, R.HIVE_TAKE_STATE_STATE]
  omega

theorem putMarchCtrl_bgPaused (s : State) (u boot : Nat) (mode target : Bool) :
    (s.putMarchCtrl u boot mode target).bgPaused = s.bgPaused := by
  unfold State.bgPaused State.isSet
  rw [putMarchCtrl_getF]
  simp only [pageBase, superBase, R.REEVE_STATUS_STEP]
  omega

/-- A START is carried out while the engine is idle and the page enabled, during a take on the host's banks alone. -/
def State.mayMarch (s : State) (u : Nat) (target : Bool) : Prop :=
  (s.sramOf u).run = none ∧ s.enabled (.sram u) = true ∧ (s.inTake = true → target = true)

theorem mayMarch_iff (s : State) (u : Nat) (target : Bool) :
    s.mayMarch u target ↔
      ((s.sramOf u).run.isSome || !s.enabled (.sram u) || (s.inTake && !target)) = false := by
  simp only [State.mayMarch, Bool.or_eq_false_iff, Bool.not_eq_false', Bool.and_eq_false_imp,
    Option.isSome_eq_false_iff, Option.isNone_iff_eq_none, and_assoc]

/-- What a START does once SRAM_MARCH_CTRL has taken its BOOT, MODE and TARGET. -/
theorem marchStart_putMarchCtrl (s : State) (u boot : Nat) (mode target : Bool) :
    (s.putMarchCtrl u boot mode target).marchStart u
      = if (s.sramOf u).run.isSome || !s.enabled (.sram u) || (s.inTake && !target) then
          (s.putMarchCtrl u boot mode target).putF (.sram u) R.SRAM_MARCH_CTRL_START_REFUSED 1
        else (s.putMarchCtrl u boot mode target).beginMarch u ⟨!mode, !target, false, 0⟩ := by
  unfold State.marchStart
  simp only [putMarchCtrl_mode, putMarchCtrl_target, putMarchCtrl_enabled, putMarchCtrl_inTake, putMarchCtrl_sramOf]

/-! ### A run under way (R434, R436, R442) -/

/-- A run under way shows in BLOCK_STATUS, and in STATE as running or paused. -/
theorem showMarch_of_run {s : State} {u : Nat} {r : MarchRun} (h : (s.sramOf u).run = some r) :
    s.showMarch u = (s.putF (.sram u) (blockBit 16) 1).putF (.sram u) R.SRAM_MARCH_STATUS_STATE
      (if s.bgPaused then 2 else 1) := by
  unfold State.showMarch
  simp only [h, Option.isSome_some, if_true, flag]

/-- An idle engine shows in BLOCK_STATUS. -/
theorem showMarch_of_idle {s : State} {u : Nat} (h : (s.sramOf u).run = none) :
    s.showMarch u = s.putF (.sram u) (blockBit 16) 0 := by
  unfold State.showMarch
  simp only [h, Option.isSome_none, Bool.false_eq_true, if_false, flag]

/-- The engine of a super has a run, in its first background, and READY is 0 while the run is over every memory. -/
def State.engage (s : State) (u : Nat) (r : MarchRun) : State :=
  let t := (s.setSramOf u { s.sramOf u with run := some r }).putF (.sram u) R.SRAM_MARCH_STATUS_BACKGROUND 0
  if r.whole then t.putF (.sram u) R.PAGE_STATUS_READY 0 else t

theorem engage_sramOf (s : State) (u : Nat) (r : MarchRun) :
    (s.engage u r).sramOf u = { s.sramOf u with run := some r } := by
  unfold State.engage
  dsimp only
  split <;> simp only [putF_sramOf, sramOf_setSramOf_self]

theorem engage_background (s : State) (u : Nat) (r : MarchRun) :
    (s.engage u r).getF (.sram u) R.SRAM_MARCH_STATUS_BACKGROUND = 0 := by
  unfold State.engage
  dsimp only
  split
  · rw [getF_putF_apart _ _ _ _ _ rfl rfl, getF_putF_self _ _ _ _ rfl, Nat.zero_mod]
  · rw [getF_putF_self _ _ _ _ rfl, Nat.zero_mod]

theorem engage_ready (s : State) (u : Nat) {r : MarchRun} (h : r.whole = true) :
    (s.engage u r).getF (.sram u) R.PAGE_STATUS_READY = 0 := by
  unfold State.engage
  rw [if_pos h, getF_putF_self _ _ _ _ rfl, Nat.zero_mod]

theorem engage_writesOnly {l : List Nat} {s t : State} (u : Nat) (r : MarchRun) (h : s.writesOnly l t)
    (hs : pageBase (.sram u) + 0x00C ∈ l) (hb : pageBase (.sram u) + 0x104 ∈ l) : s.writesOnly l (t.engage u r) := by
  have first := (h.setSramOf u { t.sramOf u with run := some r }).putF (f := R.SRAM_MARCH_STATUS_BACKGROUND) hb 0
  unfold State.engage
  dsimp only
  split
  · exact first.putF (f := R.PAGE_STATUS_READY) hs 0
  · exact first

/-- The pause of the Reeve is not among what a run shows when it begins. -/
theorem engage_bgPaused (s : State) (u : Nat) (r : MarchRun) : (s.engage u r).bgPaused = s.bgPaused := by
  have h := (engage_writesOnly (l := [pageBase (.sram u) + 0x00C, pageBase (.sram u) + 0x104]) u r
    (.refl _ s) (by simp) (by simp)).1 (pageBase .reeve + R.REEVE_STATUS_STEP.off) ?_ rfl
  · unfold State.bgPaused State.isSet
    rw [getF_congr h]
  · simp only [List.mem_cons, List.not_mem_nil, or_false, pageBase, superBase, R.REEVE_STATUS_STEP]
    omega

theorem beginMarch_eq (s : State) (u : Nat) (r : MarchRun) :
    s.beginMarch u r = ((s.engage u r).putF (.sram u) (blockBit 16) 1).putF (.sram u) R.SRAM_MARCH_STATUS_STATE
      (if s.bgPaused then 2 else 1) := by
  rw [← engage_bgPaused s u r]
  have run : ((s.engage u r).sramOf u).run = some r := by rw [engage_sramOf]
  exact showMarch_of_run run

/-- What a run that has begun shows (R442). -/
theorem beginMarch_shows (s : State) (u : Nat) (r : MarchRun) :
    (s.beginMarch u r).getF (.sram u) (blockBit 16) = 1
      ∧ (s.beginMarch u r).getF (.sram u) R.SRAM_MARCH_STATUS_BACKGROUND = 0
      ∧ (s.beginMarch u r).getF (.sram u) R.SRAM_MARCH_STATUS_STATE = (if s.bgPaused then 2 else 1)
      ∧ (r.whole = true → (s.beginMarch u r).getF (.sram u) R.PAGE_STATUS_READY = 0) := by
  rw [beginMarch_eq]
  refine ⟨?_, ?_, ?_, fun hw => ?_⟩
  · rw [getF_putF_apart _ _ _ _ _ rfl rfl, getF_putF_self _ _ _ _ rfl]
    rfl
  · rw [getF_putF_apart _ _ _ _ _ rfl rfl, getF_putF_apart _ _ _ _ _ rfl rfl, engage_background]
  · rw [getF_putF_self _ _ _ _ rfl]
    split <;> rfl
  · rw [getF_putF_apart _ _ _ _ _ rfl rfl, getF_putF_apart _ _ _ _ _ rfl rfl, engage_ready s u hw]

theorem beginMarch_sramOf (s : State) (u : Nat) (r : MarchRun) :
    (s.beginMarch u r).sramOf u = { s.sramOf u with run := some r } := by
  rw [beginMarch_eq, putF_sramOf, putF_sramOf, engage_sramOf]

theorem beginMarch_writesOnly {l : List Nat} {s t : State} (u : Nat) (r : MarchRun) (h : s.writesOnly l t)
    (hs : pageBase (.sram u) + 0x00C ∈ l) (hb : pageBase (.sram u) + 0x104 ∈ l) :
    s.writesOnly l (t.beginMarch u r) := by
  rw [beginMarch_eq]
  exact ((engage_writesOnly u r h hs hb).putF (f := blockBit 16) hs 1).putF (f := R.SRAM_MARCH_STATUS_STATE) hb _

/-- The words that a START may write: PAGE_STATUS, SRAM_MARCH_CTRL and SRAM_MARCH_STATUS. -/
def marchWords (u : Nat) : List Nat :=
  [pageBase (.sram u) + 0x00C, pageBase (.sram u) + 0x100, pageBase (.sram u) + 0x104]

theorem putMarchCtrl_writesOnly (s : State) (u boot : Nat) (mode target : Bool) :
    s.writesOnly (marchWords u) (s.putMarchCtrl u boot mode target) := by
  have ctrl : pageBase (.sram u) + 0x100 ∈ marchWords u := by simp [marchWords]
  exact (((State.writesOnly.refl _ s).putF (f := R.SRAM_MARCH_CTRL_BOOT) ctrl boot).putF
    (f := R.SRAM_MARCH_CTRL_MODE) ctrl _).putF (f := R.SRAM_MARCH_CTRL_TARGET) ctrl _

/-- A START that is carried out begins the run that MODE and TARGET choose (R434, R442). -/
theorem marchStart_accepted {s : State} {u : Nat} {target : Bool} (hu : u < s.fuse.part.supers)
    (h : s.mayMarch u target) (boot : Nat) (mode : Bool) :
    completes (.marchStart u boot mode target) s (fun t =>
      ((t.sramOf u).run = some ⟨!mode, !target, false, 0⟩ ∧ t.getF (.sram u) (blockBit 16) = 1
        ∧ t.getF (.sram u) R.SRAM_MARCH_STATUS_BACKGROUND = 0
        ∧ t.getF (.sram u) R.SRAM_MARCH_STATUS_STATE = (if s.bgPaused then 2 else 1)
        ∧ (target = false → t.getF (.sram u) R.PAGE_STATUS_READY = 0)) ∧ s.writesOnly (marchWords u) t) := by
  refine ⟨_, exec_marchStart hu boot mode target, ?_⟩
  rw [marchStart_putMarchCtrl, (mayMarch_iff s u target).mp h, if_neg Bool.false_ne_true]
  obtain ⟨busy, background, state, ready⟩ :=
    beginMarch_shows (s.putMarchCtrl u boot mode target) u ⟨!mode, !target, false, 0⟩
  rw [putMarchCtrl_bgPaused] at state
  simp only [settleHolds_getF_sram, settleHolds_sramOf, beginMarch_sramOf]
  refine ⟨⟨trivial, busy, background, state, fun ht => ready (by rw [ht]; rfl)⟩, State.writesOnly.settleHolds ?_⟩
  exact beginMarch_writesOnly u _ (putMarchCtrl_writesOnly s u boot mode target) (by simp [marchWords])
    (by simp [marchWords])

/-- Any other START is refused, and the engine is as it was (R442). -/
theorem marchStart_refused {s : State} {u : Nat} {target : Bool} (hu : u < s.fuse.part.supers)
    (h : ¬ s.mayMarch u target) (boot : Nat) (mode : Bool) :
    completes (.marchStart u boot mode target) s (fun t =>
      (t.getF (.sram u) R.SRAM_MARCH_CTRL_START_REFUSED = 1 ∧ t.sramOf u = s.sramOf u)
        ∧ s.writesOnly (marchWords u) t) := by
  refine ⟨_, exec_marchStart hu boot mode target, ?_⟩
  rw [mayMarch_iff, Bool.not_eq_false] at h
  rw [marchStart_putMarchCtrl, if_pos h]
  refine ⟨⟨?_, ?_⟩, State.writesOnly.settleHolds ?_⟩
  · rw [settleHolds_getF_sram, getF_putF_self _ _ _ _ rfl]
    rfl
  · rw [settleHolds_sramOf, putF_sramOf, putMarchCtrl_sramOf]
  · exact (putMarchCtrl_writesOnly s u boot mode target).putF (f := R.SRAM_MARCH_CTRL_START_REFUSED)
      (by simp [marchWords, R.SRAM_MARCH_CTRL_START_REFUSED]) 1

/-- The wait of a background ends: one more has ended, and the next background is under way (R436). -/
theorem marchRetentionWait_ends {s : State} {u : Nat} {r : MarchRun} (hu : u < s.fuse.part.supers)
    (hr : (s.sramOf u).run = some r) (hd : r.destructive = true) (hw : r.waits < 3) :
    completes (.marchRetentionWait u) s (fun t =>
      t.sramOf u = { s.sramOf u with run := some { r with waits := r.waits + 1 } }
        ∧ t.getF (.sram u) R.SRAM_MARCH_STATUS_BACKGROUND = min 2 (r.waits + 1)
        ∧ s.writesOnly [pageBase (.sram u) + 0x104] t) := by
  let t := (s.setSramOf u { s.sramOf u with run := some { r with waits := r.waits + 1 } }).putF (.sram u)
    R.SRAM_MARCH_STATUS_BACKGROUND (min 2 (r.waits + 1))
  have hx : exec (.marchRetentionWait u) s = .next t.settleHolds := by
    change s.on (.sram u) _ = _
    rw [on_of_has (p := .sram u) (decide_eq_true hu)]
    simp only [hr, hd, hw, and_self, if_true, t]
  refine ⟨_, hx, ?_, ?_, State.writesOnly.settleHolds ?_⟩
  · rw [settleHolds_sramOf, putF_sramOf, sramOf_setSramOf_self]
  · rw [settleHolds_getF_sram, getF_putF_self _ _ _ _ rfl]
    exact Nat.mod_eq_of_lt (Nat.lt_of_le_of_lt (Nat.min_le_left _ _) (by decide))
  · exact ((State.writesOnly.refl _ s).setSramOf u _).putF (f := R.SRAM_MARCH_STATUS_BACKGROUND)
      (List.mem_singleton.mpr rfl) _

/-! ### The watermark of the super queue -/

/-- Watermarks settle in the queue and its page, with what a raise may write. -/
theorem settleWm_onlyChanges (s : State) (q : QueueId) :
    s.onlyChanges [.registers, .events, .queues, .sent] (s.settleWm q) :=
  State.settleWm_closed (frame_closed _ s) (by decide) (by decide) (by decide) (by decide) q (onlyChanges_refl s _)

theorem showQueue_word (s : State) (q : QueueId) {a : Nat} (h : a / 0x1000 ≠ pageBase (queuePage q) / 0x1000) :
    (s.showQueue q).word a = s.word a := by
  unfold State.showQueue
  dsimp only
  rw [putF_word_page _ _ h (by decide), putF_word_page _ _ h (by decide), putF_word_page _ _ h (by decide),
    putF_word_page _ _ h (by decide), putF_word_page _ _ h (by decide), putF_word_page _ _ h (by decide),
    putF_word_page _ _ h (by decide)]

theorem raiseQueue_word (s : State) (q : QueueId) (n : Nat) {a : Nat} (h : eventWord a = false) :
    (s.raiseQueue q n).word a = s.word a := by
  unfold State.raiseQueue
  split
  · rfl
  · exact raise_word _ _ _ _ h

theorem settleWm_word (s : State) (q : QueueId) {a : Nat} (h : a / 0x1000 ≠ pageBase (queuePage q) / 0x1000)
    (he : eventWord a = false) : (s.settleWm q).word a = s.word a := by
  have shown : ∀ x, ((s.setQueue q x).showQueue q).word a = s.word a := fun x => showQueue_word _ q h
  unfold State.settleWm
  dsimp only
  split
  · exact shown _
  · split
    · rw [raiseQueue_word _ _ _ he, State.bump, putF_word_page _ _ h (by decide), putF_word_page _ _ h (by decide)]
      exact shown _
    · rw [raiseQueue_word _ _ _ he, State.bump, putF_word_page _ _ h (by decide), putF_word_page _ _ h (by decide)]
      exact shown _

/-- A field of the march engine, or one of PAGE_STATUS, keeps its value while the watermark of a super's queue settles. -/
theorem settleWm_getF_sram (s : State) (u : Nat) {f : Fld} (hf : f.off = 0x00C ∨ 0x100 ≤ f.off ∧ f.off < 0x1000) :
    (s.settleWm (.super u 0)).getF (.sram u) f = s.getF (.sram u) f := by
  refine getF_congr (settleWm_word _ _ ?_ ?_)
  · simp only [queuePage, pageBase, superBase]
    omega
  · have hb : pageBase (.sram u) = 0x400000 * (u + 1) + 0x26000 := rfl
    generalize pageBase (.sram u) = b at hb ⊢
    simp only [eventWord, pendingWord, Bool.or_eq_false_iff, Bool.and_eq_false_iff, beq_eq_false_iff_ne, ne_eq,
      decide_eq_false_iff_not]
    omega

/-! ### What a destructive run leaves in the memories (R437) -/

/-- The run tests the memory that holds a byte of its super. -/
def MarchRun.tests (r : MarchRun) (off : Nat) : Bool := r.whole || memoryCode off == 14 || memoryCode off == 15

/-- Zeroing a super leaves its bytes zero and those of every other super alone. -/
theorem zeroSram_sramByte (s : State) (u v : Nat) {off : Nat} (h : off < 2 ^ 23) :
    (s.zeroSram u).sramByte v off = if v = u then 0 else s.sramByte v off := by
  have epoch : (s.zeroSram u).sramEpoch = sput (fun _ => 0) s.sramEpoch u 0 := rfl
  have stored : (s.zeroSram u).sram = sclear (sclear s.sram (fun a => a / 2 ^ 23 == u))
      (fun a => a / 2 ^ 23 == u && workArea u (a % 2 ^ 23)) := rfl
  have cleared : (s.zeroSram u).sramDefault (sramKey v off) = if v = u then 0 else s.sramDefault (sramKey v off) := by
    unfold State.sramDefault
    rw [epoch, sramKey_div v h]
    by_cases hv : v = u
    · subst hv
      simp
    · rw [sget_sput_ne _ _ _ hv, if_neg hv]
  unfold State.sramByte
  rw [stored, sget_sclear, sget_sclear, sramKey_div v h, cleared]
  by_cases hv : v = u
  · simp [hv]
  · rw [if_neg hv] at cleared
    simp only [beq_eq_false_iff_ne.mpr hv, Bool.false_and, Bool.false_eq_true, if_false, if_neg hv]
    exact sget_default_congr _ cleared

/-- Banks 14 and 15 are the host's, and read as zeros where nothing is stored (R424). -/
theorem sramDefault_of_hostBank (s : State) (v : Nat) {off : Nat} (h : off < 2 ^ 23)
    (hb : (memoryCode off == 14 || memoryCode off == 15) = true) : s.sramDefault (sramKey v off) = 0 := by
  have host : hostArea off = true := by
    simp only [memoryCode, Bool.or_eq_true, beq_iff_eq] at hb
    simp only [hostArea, Bool.or_eq_true, Bool.and_eq_true, decide_eq_true_eq]
    omega
  unfold State.sramDefault
  rw [sramKey_div v h, sramKey_mod v h]
  exact if_pos (Or.inr (by simp [workArea, host]))

/-- A destructive run leaves the bytes that it tested zero and every other byte as it was (R437). -/
theorem zeroMarched_sramByte (s : State) (u v : Nat) (r : MarchRun) {off : Nat} (h : off < 2 ^ 23) :
    (s.zeroMarched u r.whole).sramByte v off = if v = u ∧ r.tests off = true then 0 else s.sramByte v off := by
  cases hw : r.whole
  case true =>
    have all : r.tests off = true := by simp [MarchRun.tests, hw]
    simp only [all, and_true]
    exact zeroSram_sramByte s u v h
  case false =>
    have banks : r.tests off = (memoryCode off == 14 || memoryCode off == 15) := by simp [MarchRun.tests, hw]
    have stored : (s.zeroMarched u false).sram
        = sclear s.sram (fun a => a / 2 ^ 23 == u && (memoryCode (a % 2 ^ 23) == 14 || memoryCode (a % 2 ^ 23) == 15)) :=
      rfl
    have cleared : (s.zeroMarched u false).sramDefault = s.sramDefault := rfl
    unfold State.sramByte
    rw [stored, cleared, sget_sclear, sramKey_div v h, sramKey_mod v h, ← banks]
    by_cases ht : v = u ∧ r.tests off = true
    · rw [if_pos ht, if_pos (by simp [ht])]
      exact sramDefault_of_hostBank s v h (banks.symm.trans ht.2)
    · rw [if_neg ht, if_neg (by simpa using ht)]

/-- No word that a destructive run tested is left uncorrectable. -/
theorem zeroMarched_bad (s : State) (u : Nat) (r : MarchRun) {off : Nat}
    (h : off ∈ ((s.zeroMarched u r.whole).sramOf u).bad) : r.tests off = false := by
  unfold State.zeroMarched at h
  split at h
  · simp [State.zeroSram] at h
  · rename_i hw
    simp only [sramOf_setSramOf_self, List.mem_filter] at h
    simpa [MarchRun.tests, Bool.eq_false_iff.mpr hw] using h.2

/-! ### What a run has found (R439) -/

theorem nodup_eraseDups {α : Type} [BEq α] [LawfulBEq α] (l : List α) : l.eraseDups.Nodup := by
  match l with
  | [] => simp
  | a :: l =>
    rw [List.eraseDups_cons, List.nodup_cons]
    exact ⟨by simp [List.mem_eraseDups], nodup_eraseDups _⟩
termination_by l.length
decreasing_by exact Nat.lt_succ_of_le (List.length_filter_le ..)

/-- A list without duplicates is no longer than one that has all its members. -/
theorem length_le_of_nodup {α : Type} [BEq α] [LawfulBEq α] {l k : List α} (hl : l.Nodup) (hk : ∀ a ∈ l, a ∈ k) :
    l.length ≤ k.length := by
  induction l generalizing k with
  | nil => exact Nat.zero_le _
  | cons a l ih =>
    obtain ⟨fresh, distinct⟩ := List.nodup_cons.mp hl
    have ha : a ∈ k := hk a (List.mem_cons_self ..)
    have rest : l.length ≤ (k.erase a).length := ih distinct fun b hb =>
      (List.mem_erase_of_ne fun e => fresh (by rwa [← e])).mpr (hk b (List.mem_cons_of_mem _ hb))
    have positive := List.length_pos_of_mem ha
    rw [List.length_erase_of_mem ha] at rest
    rw [List.length_cons]
    omega

/-- The lines of the tested memories that need repair, in the order of finding. -/
def marchLines (mems : List Nat) (fails : List MarchFail) : List (Nat × Nat) :=
  (((fails.filter (fun f => mems.contains f.memory)).filter (fun f => decide (2 ≤ f.bits))).map
    (fun f => (f.memory, f.line))).eraseDups

/-- The words of the tested memories with one failing bit. -/
def marchWeak (mems : List Nat) (fails : List MarchFail) : Nat :=
  ((fails.filter (fun f => mems.contains f.memory)).filter (fun f => f.bits == 1)).length

/-- The four lines that a memory can repair are enough for what the run found in it. -/
def State.spared (s : State) (u : Nat) (r : MarchRun) (fails : List MarchFail) : Prop :=
  ∀ m, (linesOf (marchLines (s.marched u r.whole) fails) m).drop 4 = []

/-- The memories of a super after a run whose lines are all repaired: lines that an earlier run moved in memories that this
one did not test stay moved. -/
def State.sparedSram (s : State) (u : Nat) (r : MarchRun) (fails : List MarchFail) : SramSt :=
  let mems := s.marched u r.whole
  { s.sramOf u with
    run := none
    repairs := (s.sramOf u).repairs.filter (fun e => !mems.contains e.1)
      ++ mems.flatMap (fun m => (linesOf (marchLines mems fails) m).take 4)
    unrepaired := (s.sramOf u).unrepaired &&& (0x1FFFFFF ^^^ ofBits mems)
    off := if r.whole then false else (s.sramOf u).off }

/-- What the SRAM page shows of a run whose lines are all repaired. -/
def State.showSpared (s : State) (u weak : Nat) (lines : List (Nat × Nat)) (x : SramSt) : State :=
  let p := Page.sram u
  let t := (s.putF p R.SRAM_MARCH_WEAK_COUNT (min weak 0xFFFF)).putF p R.SRAM_MARCH_FAIL_LINES (min lines.length 0xFF)
  let t := t.putF p R.SRAM_MARCH_FAIL_UNREPAIRED (flag (x.unrepaired != 0))
  let t := (t.putF p R.SRAM_MARCH_FAIL_MEMORY (lines.headD (0, 0)).1).putF p R.SRAM_MARCH_FAIL_LINE
    (lines.headD (0, 0)).2
  let t := t.putF p R.SRAM_REPAIR_MEMORIES (ofBits (x.repairs.map Prod.fst))
  let t := (t.putF p R.SRAM_UNREPAIRED_MEMORIES x.unrepaired).putF p R.PAGE_STATUS_FAULT (flag (x.unrepaired != 0))
  (t.putF p R.SRAM_MARCH_STATUS_STATE 3).putF p (blockBit 17) (flag x.off)

/-- A run whose lines are all repaired raises nothing and disables no store: what it has found is shown, and the watermark of
the super queue follows. -/
theorem marchFound_of_spared {s : State} {u : Nat} {r : MarchRun} {fails : List MarchFail}
    (h : s.spared u r fails) :
    s.marchFound u r fails = ((s.setSramOf u (s.sparedSram u r fails)).showSpared u
      (marchWeak (s.marched u r.whole) fails) (marchLines (s.marched u r.whole) fails)
      (s.sparedSram u r fails)).settleWm (.super u 0) := by
  have none_beyond : (s.marched u r.whole).flatMap
      (fun m => (linesOf (marchLines (s.marched u r.whole) fails) m).drop 4) = [] :=
    List.flatMap_eq_nil_iff.mpr fun m _ => h m
  have store_kept : ((if r.whole then false else (s.sramOf u).off) && !(s.sramOf u).off) = false := by
    cases r.whole <;> simp
  have no_bits : ofBits [] = 0 := rfl
  unfold marchLines at none_beyond
  unfold State.marchFound State.showSpared State.sparedSram marchLines marchWeak
  simp only [none_beyond, store_kept, no_bits, List.any_nil, List.map_nil, List.eraseDups_nil, List.foldl_nil,
    List.isEmpty_nil, Nat.or_zero, if_true, Bool.false_eq_true, if_false]

/-- At most four lines that fail in each memory are lines that its spares serve. -/
theorem spared_of_length_le (s : State) (u : Nat) (r : MarchRun) {fails : List (Nat × Nat × Nat × Nat)}
    (h : ∀ m,
      (((fails.filter (fun f => f.1 == m && decide (2 ≤ f.2.2.2))).map (fun f => f.2.1)).eraseDups).length ≤ 4) :
    s.spared u r (fails.map (fun f => ⟨f.1, f.2.1, f.2.2.1, f.2.2.2⟩)) := by
  intro m
  refine List.drop_eq_nil_of_le (Nat.le_trans ?_ (h m))
  have distinct : (linesOf (marchLines (s.marched u r.whole)
      (fails.map (fun f => ⟨f.1, f.2.1, f.2.2.1, f.2.2.2⟩))) m).Nodup := by
    unfold linesOf marchLines
    exact (nodup_eraseDups _).filter _
  rw [← List.length_map (as := List.eraseDups _) (fun line => (m, line))]
  refine length_le_of_nodup distinct ?_
  rintro ⟨memory, line⟩ hline
  simp only [linesOf, marchLines, List.mem_map, List.mem_filter, List.mem_eraseDups, beq_iff_eq, decide_eq_true_eq,
    Bool.and_eq_true, Prod.mk.injEq] at hline ⊢
  obtain ⟨⟨_, ⟨⟨⟨f, hf, rfl⟩, _⟩, hbits⟩, rfl, rfl⟩, hm⟩ := hline
  exact ⟨_, ⟨f, ⟨hf, hm, hbits⟩, rfl⟩, hm.symm, rfl⟩

/-! ### The end of a run (R437 to R442) -/

theorem showSpared_sramOf (s : State) (u weak : Nat) (lines : List (Nat × Nat)) (x : SramSt) :
    (s.showSpared u weak lines x).sramOf u = s.sramOf u := by
  simp only [State.showSpared, putF_sramOf]

theorem showSpared_state (s : State) (u weak : Nat) (lines : List (Nat × Nat)) (x : SramSt) :
    (s.showSpared u weak lines x).getF (.sram u) R.SRAM_MARCH_STATUS_STATE = 3 := by
  unfold State.showSpared
  dsimp only
  rw [getF_putF_apart _ _ _ _ _ rfl rfl, getF_putF_self _ _ _ _ rfl]
  rfl

theorem showSpared_unrepaired (s : State) (u weak : Nat) (lines : List (Nat × Nat)) (x : SramSt) :
    (s.showSpared u weak lines x).getF (.sram u) R.SRAM_UNREPAIRED_MEMORIES = x.unrepaired % 2 ^ 25 := by
  unfold State.showSpared
  dsimp only
  rw [getF_putF_apart _ _ _ _ _ rfl rfl, getF_putF_apart _ _ _ _ _ rfl rfl, getF_putF_apart _ _ _ _ _ rfl rfl,
    getF_putF_self _ _ _ _ rfl]
  rfl

theorem showSpared_weak (s : State) (u weak : Nat) (lines : List (Nat × Nat)) (x : SramSt) :
    (s.showSpared u weak lines x).getF (.sram u) R.SRAM_MARCH_WEAK_COUNT = min 0xFFFF weak := by
  have kept : ∀ (t : State) {f : Fld} (v : Nat), f.apart R.SRAM_MARCH_WEAK_COUNT = true →
      (t.putF (.sram u) f v).getF (.sram u) R.SRAM_MARCH_WEAK_COUNT = t.getF (.sram u) R.SRAM_MARCH_WEAK_COUNT :=
    fun t _ v h => getF_putF_apart t _ _ _ v rfl h
  unfold State.showSpared
  dsimp only
  rw [kept _ _ rfl, kept _ _ rfl, kept _ _ rfl, kept _ _ rfl, kept _ _ rfl, kept _ _ rfl, kept _ _ rfl, kept _ _ rfl,
    kept _ _ rfl, getF_putF_self _ _ _ _ rfl, Nat.min_comm]
  exact Nat.mod_eq_of_lt (Nat.lt_of_le_of_lt (Nat.min_le_left _ _) (by decide))

/-- The registers of the march engine after a run whose lines are all repaired. -/
theorem marchFound_getF {s : State} {u : Nat} {r : MarchRun} {fails : List MarchFail} (h : s.spared u r fails) :
    (s.marchFound u r fails).getF (.sram u) R.SRAM_MARCH_STATUS_STATE = 3
      ∧ (s.marchFound u r fails).getF (.sram u) R.SRAM_UNREPAIRED_MEMORIES
        = (s.sparedSram u r fails).unrepaired % 2 ^ 25
      ∧ (s.marchFound u r fails).getF (.sram u) R.SRAM_MARCH_WEAK_COUNT
        = min 0xFFFF (marchWeak (s.marched u r.whole) fails) := by
  rw [marchFound_of_spared h, settleWm_getF_sram _ _ (by decide), settleWm_getF_sram _ _ (by decide),
    settleWm_getF_sram _ _ (by decide)]
  exact ⟨showSpared_state _ _ _ _ _, showSpared_unrepaired _ _ _ _ _, showSpared_weak _ _ _ _ _⟩

theorem marchFound_sramOf {s : State} {u : Nat} {r : MarchRun} {fails : List MarchFail} (h : s.spared u r fails) :
    (s.marchFound u r fails).sramOf u = s.sparedSram u r fails := by
  rw [marchFound_of_spared h, sramOf_congr (settleWm_onlyChanges _ _ .march (by decide)), showSpared_sramOf,
    sramOf_setSramOf_self]

/-- What a run has found writes no byte of the memories. -/
theorem marchFound_sramByte (s : State) (u : Nat) (r : MarchRun) (fails : List MarchFail) (v off : Nat) :
    (s.marchFound u r fails).sramByte v off = s.sramByte v off := by
  have frame := frame_closed [.registers, .stores, .events, .queues, .march, .sent] s
  exact sramByte_congr (State.marchFound_closed frame (by decide) (by decide) (by decide) (by decide) (by decide)
    (by decide) u r fails (onlyChanges_refl s _) .sram (by decide)) v off

/-- A run over every memory leaves no bit of the memories that every super has in SRAM_UNREPAIRED (R439). -/
theorem sparedSram_unrepaired (s : State) (u : Nat) {r : MarchRun} (fails : List MarchFail) (hw : r.whole = true) {m : Nat}
    (hm : m < 24) : bitOf ((s.sparedSram u r fails).unrepaired % 2 ^ 25) m = false := by
  have tested : bitOf (ofBits (s.marched u r.whole)) m = true := by
    rw [bitOf_ofBits, hw, State.marched, if_pos rfl]
    refine decide_eq_true (List.mem_range.mpr ?_)
    split <;> omega
  have present : bitOf 0x1FFFFFF m = true :=
    (Nat.testBit_two_pow_sub_one 25 m).trans (decide_eq_true (by omega))
  unfold State.sparedSram
  dsimp only
  rw [bitOf, Nat.testBit_mod_two_pow]
  change (_ && bitOf (_ &&& _) m) = false
  rw [bitOf_and, bitOf_xor, tested, present]
  simp

/-- Words with one failing bit, counted in the memories that a run over every memory tests. -/
theorem marchWeak_whole (s : State) (u : Nat) (fails : List (Nat × Nat × Nat × Nat)) :
    marchWeak (s.marched u true) (fails.map (fun f => ⟨f.1, f.2.1, f.2.2.1, f.2.2.2⟩))
      = (fails.filter
          (fun f => decide (f.1 < (if u = 0 ∧ s.fuse.part.hasBoard then 25 else 24)) && f.2.2.2 == 1)).length := by
  have tested : ∀ m, (s.marched u true).contains m
      = decide (m < (if u = 0 ∧ s.fuse.part.hasBoard then 25 else 24)) := fun m => by
    rw [State.marched, if_pos rfl, List.contains_eq_mem, decide_eq_decide]
    exact List.mem_range
  simp only [marchWeak, List.filter_filter, List.filter_map, List.length_map, tested]
  congr 2
  funext f
  exact Bool.and_comm _ _

/-- The state after a destructive run has zeroed what it tested, or after a preserving one. -/
def State.swept (s : State) (u : Nat) (r : MarchRun) : State := if r.destructive then s.zeroMarched u r.whole else s

theorem swept_sramByte (s : State) (u v : Nat) (r : MarchRun) {off : Nat} (h : off < 2 ^ 23) :
    (s.swept u r).sramByte v off
      = if r.destructive = true ∧ v = u ∧ r.tests off = true then 0 else s.sramByte v off := by
  unfold State.swept
  split
  case isTrue hd => simp only [hd, true_and, zeroMarched_sramByte s u v r h]
  case isFalse hd => rw [if_neg (fun hc => hd hc.1)]

theorem swept_bad (s : State) (u : Nat) {r : MarchRun} {off : Nat} (hd : r.destructive = true)
    (h : off ∈ ((s.swept u r).sramOf u).bad) : r.tests off = false := by
  rw [State.swept, if_pos hd] at h
  exact zeroMarched_bad s u r h

/-- The state in which what a run has found is known, and the page is READY again after a run over every memory. -/
def State.disengage (s : State) (u : Nat) (r : MarchRun) (fails : List MarchFail) : State :=
  if r.whole then (s.marchFound u r fails).putF (.sram u) R.PAGE_STATUS_READY 1 else s.marchFound u r fails

theorem disengage_sramOf {s : State} {u : Nat} {r : MarchRun} {fails : List MarchFail} (h : s.spared u r fails) :
    (s.disengage u r fails).sramOf u = s.sparedSram u r fails := by
  unfold State.disengage
  split
  · rw [putF_sramOf, marchFound_sramOf h]
  · exact marchFound_sramOf h

theorem disengage_sramByte (s : State) (u : Nat) (r : MarchRun) (fails : List MarchFail) (v off : Nat) :
    (s.disengage u r fails).sramByte v off = s.sramByte v off := by
  unfold State.disengage
  split
  · rw [putF_sramByte, marchFound_sramByte]
  · exact marchFound_sramByte s u r fails v off

theorem disengage_getF (s : State) (u : Nat) (r : MarchRun) (fails : List MarchFail) {f : Fld} (hf : f.fits = true)
    (h : R.PAGE_STATUS_READY.apart f = true) :
    (s.disengage u r fails).getF (.sram u) f = (s.marchFound u r fails).getF (.sram u) f := by
  unfold State.disengage
  split
  · exact getF_putF_apart _ _ _ _ _ hf h
  · rfl

/-- A run whose lines are all repaired ends with its engine idle. -/
theorem endMarch_of_spared {s : State} {u : Nat} {r : MarchRun} {fails : List MarchFail}
    (h : (s.swept u r).spared u r fails) :
    s.endMarch u r fails = ((s.swept u r).disengage u r fails).putF (.sram u) (blockBit 16) 0 := by
  have idle : (((s.swept u r).disengage u r fails).sramOf u).run = none := by
    rw [disengage_sramOf h]
    rfl
  exact showMarch_of_idle idle

theorem endMarch_sramOf {s : State} {u : Nat} {r : MarchRun} {fails : List MarchFail}
    (h : (s.swept u r).spared u r fails) :
    (s.endMarch u r fails).sramOf u = (s.swept u r).sparedSram u r fails := by
  rw [endMarch_of_spared h, putF_sramOf, disengage_sramOf h]

theorem endMarch_sramByte {s : State} {u : Nat} {r : MarchRun} {fails : List MarchFail}
    (h : (s.swept u r).spared u r fails) (v off : Nat) :
    (s.endMarch u r fails).sramByte v off = (s.swept u r).sramByte v off := by
  rw [endMarch_of_spared h, putF_sramByte, disengage_sramByte]

/-- A run that is done is off in BLOCK_STATUS, and READY after it when it was over every memory (R441, R442). -/
theorem endMarch_pageStatus {s : State} {u : Nat} {r : MarchRun} {fails : List MarchFail}
    (h : (s.swept u r).spared u r fails) :
    (s.endMarch u r fails).getF (.sram u) (blockBit 16) = 0
      ∧ (r.whole = true → (s.endMarch u r fails).getF (.sram u) R.PAGE_STATUS_READY = 1) := by
  rw [endMarch_of_spared h]
  refine ⟨getF_putF_self _ _ _ _ rfl, fun hw => ?_⟩
  rw [getF_putF_apart _ _ _ _ _ rfl rfl, State.disengage, if_pos hw, getF_putF_self _ _ _ _ rfl]
  rfl

/-- Any other field of the page shows what the run has found. -/
theorem endMarch_getF {s : State} {u : Nat} {r : MarchRun} {fails : List MarchFail}
    (h : (s.swept u r).spared u r fails) {f : Fld} (hf : f.fits = true) (ho : f.off ≠ 0x00C) :
    (s.endMarch u r fails).getF (.sram u) f = ((s.swept u r).marchFound u r fails).getF (.sram u) f := by
  have apart : ∀ g : Fld, g.off = 0x00C → g.apart f = true := fun g hg => by
    simp only [Fld.apart, hg, Bool.or_eq_true, bne_iff_ne, ne_eq, ho.symm, not_false_eq_true, true_or]
  rw [endMarch_of_spared h, getF_putF_apart _ _ _ _ _ hf (apart _ rfl), disengage_getF _ _ _ _ hf (apart _ rfl)]

/-- Start-up that is over has nothing left to do (R609). -/
theorem settleBoot_of_bootOver {s : State} (h : s.bootOver) : s.settleBoot = s := by
  obtain ⟨clocks, marching, trained⟩ := h
  unfold State.settleBoot
  simp [clocks, marching, trained]

/-- The end of a run does not touch start-up. -/
theorem endMarch_boot (s : State) (u : Nat) (r : MarchRun) (fails : List MarchFail) :
    (s.endMarch u r fails).boot = s.boot := by
  have frame := frame_closed [.registers, .stores, .events, .queues, .sram, .march, .sent] s
  exact State.endMarch_closed frame (by decide) (by decide) (by decide) (by decide) (by decide) (by decide) (by decide)
    u r fails (onlyChanges_refl s _) .boot (by decide)

/-- A run of a host's START that is done, after its three waits where it is destructive. -/
theorem exec_marchRunDone {s : State} {u : Nat} {r : MarchRun} (hu : u < s.fuse.part.supers) (hb : s.bootOver)
    (hr : (s.sramOf u).run = some r) (hs : r.startup = false) (hw : r.destructive = true → r.waits = 3)
    (fails : List (Nat × Nat × Nat × Nat)) :
    exec (.marchRunDone u fails) s
      = .next (s.endMarch u r (fails.map (fun f => ⟨f.1, f.2.1, f.2.2.1, f.2.2.2⟩))).settleHolds := by
  have waited : ¬ (r.destructive = true ∧ r.waits < 3) := fun ⟨hd, hlt⟩ => by
    rw [hw hd] at hlt
    omega
  have booted : ∀ fails, (s.endMarch u r fails).bootOver := fun fails => by
    rw [State.bootOver, endMarch_boot]
    exact hb
  change s.on (.sram u) _ = _
  rw [on_of_has (p := .sram u) (decide_eq_true hu)]
  simp only [hr, waited, if_false, State.marchOver, hs, Bool.false_eq_true, settleBoot_of_bootOver (booted _)]

theorem swept_part (s : State) (u : Nat) (r : MarchRun) : (s.swept u r).fuse = s.fuse := by
  unfold State.swept State.zeroMarched
  split
  · split <;> rfl
  · rfl

/-- Settles O18: the START and the wait by what the command does, and the end of a run by what it has swept and found. -/
theorem marchRunsStartWaitAndEnd : Obligations.MarchRunsStartWaitAndEnd := by
  unfold Obligations.MarchRunsStartWaitAndEnd
  refine ⟨fun s u hu => ⟨fun boot mode target => ?_, fun r hr hd hw => ?_⟩, fun s u r fails hu hb hr hs hw few => ?_⟩
  · split
    case isTrue may =>
      obtain ⟨t, ht, began, words, shd⟩ := marchStart_accepted hu may boot mode
      exact ⟨t, ht, began, words, shd, onlyChanges_of_exec ht⟩
    case isFalse mayNot =>
      obtain ⟨t, ht, refused, words, shd⟩ := marchStart_refused hu mayNot boot mode
      exact ⟨t, ht, refused, words, shd, onlyChanges_of_exec ht⟩
  · obtain ⟨t, ht, waited, background, words, shd⟩ := marchRetentionWait_ends hu hr hd hw
    exact ⟨t, ht, waited, background, words, shd, onlyChanges_of_exec ht⟩
  · have spared := spared_of_length_le (s.swept u r) u r few
    obtain ⟨off, ready⟩ := endMarch_pageStatus spared
    obtain ⟨state, unrepaired, weak⟩ := marchFound_getF spared
    refine ⟨_, exec_marchRunDone hu hb hr hs hw fails, ?_⟩
    simp only [settleHolds_getF_sram, settleHolds_sramOf, settleHolds_sramByte, endMarch_sramOf spared,
      endMarch_sramByte spared]
    refine ⟨rfl, off, ?_, fun hwhole => ⟨ready hwhole, fun m hm => ?_, ?_⟩, fun v a ha => swept_sramByte s u v r ha,
      fun hd a => swept_bad s u hd⟩
    · rw [endMarch_getF spared rfl (by decide), state]
    · rw [endMarch_getF spared rfl (by decide), unrepaired]
      exact sparedSram_unrepaired _ u _ hwhole hm
    · rw [endMarch_getF spared rfl (by decide), weak, hwhole, marchWeak_whole, swept_part]

end Sys2Proof.Machine
end
